-- ==== Sys2Proof/Word.lean ====
section
/-! DEFINITION. The word types of the GV2032 model and the shape of its tables. -/

namespace Sys2Proof

/-- One byte. -/
abbrev Byte := BitVec 8

/-- A 64-bit word: a scalar register, an address field, an operand field. -/
abbrev W64 := BitVec 64

/-- A 32-bit word: a sequence number, an element of binary32. -/
abbrev W32 := BitVec 32

/-- A 512-byte vector register (R110); byte k is bits [8k + 7 : 8k]. -/
abbrev VReg := BitVec 4096

/-- A table by number: entries sorted by number, no entry at the table's default value. -/
abbrev Tab (α : Type) := List (Nat × α)

end Sys2Proof
end

