-- ==== Sys2Proof/Syntax.lean ====
section
/-! DEFINITION. The commands of the GV2032, one constructor per row of the opcode table, and the operands they carry.
The table gives its rows no bits and no fields (log 1): an operand is what the rule of the row says the outside world
decides, such as the frame that arrives or the sensor's reading. -/

namespace Sys2Proof

/-- A frame of the transport: the header of R201 and its payload. Identifiers are natural numbers below the width
R201 gives them (`Frame.wf`); words are bit vectors. In a response `jva`, `mpa`, `opa` are RESULT, HINT, INFO (R202). -/
structure Frame where
  rev : Nat := 2
  tc : Nat := 0
  typ : Nat := 0
  leg : Bool := false
  retry : Bool := false
  sync : Bool := false
  fwd : Bool := false
  nocomb : Bool := false
  status : Nat := 0
  dstDev : Nat := 0
  srcDev : Nat := 0
  srcCtx : Nat := 0
  job : Nat := 0
  epoch : Nat := 0
  cell : Nat := 0
  seq : BitVec 32 := 0
  tag : Nat := 0
  hops : Nat := 0
  len : Nat := 0
  frag : Nat := 0
  fwdFrom : Nat := 0
  fragsM1 : Nat := 0
  srcLink : Nat := 0x7F
  fore : Bool := false
  jva : W64 := 0
  mpa : W64 := 0
  opa : W64 := 0
  opb : W64 := 0
  payload : List Byte := []
deriving DecidableEq, Repr, Inhabited

/-- What the DRAM decode of the line that a command reads yields (R37, R38): nothing wrong, an error corrected in a
symbol or bit, or an error detected and not corrected. The cells' physical state is the outside world's. -/
inductive Ecc where
  | clean
  | corrected (symbol : Nat)
  | uncorrected
deriving DecidableEq, Repr, Inhabited

/-- How a frame reached the module: the link index of R228, and on a service Flue the requester's address and port,
the one VLAN tag and its DEI bit (R199, R252). `ecc` is the decode outcome of a line that serving it reads first. -/
structure Arrival where
  link : Nat := 0
  ip : Nat := 0
  port : Nat := 0
  vlan : Option Nat := none
  dei : Bool := false
  ecc : Ecc := .clean
deriving DecidableEq, Repr, Inhabited

/-- A work item that the device has taken, by the number the model gives it at take. -/
abbrev ItemId := Nat

/-- A hardware thread: thread `n` of the crew of an item (R108). -/
structure ThreadRef where
  item : ItemId := 0
  n : Nat := 0
deriving DecidableEq, Repr, Inhabited

/-- The fence a count belongs to (R219): a Stove thread's, or a partner's FENCE by context and sequence number. -/
inductive FenceRef where
  | thread (t : ThreadRef)
  | partner (ctx : Nat) (seq : BitVec 32)
deriving DecidableEq, Repr, Inhabited

/-- Why a received frame is discarded and counted (R198, R199, R200). -/
inductive Damage where
  | fcs | udpChecksum | ipFragment | dstMac | length
deriving DecidableEq, Repr, Inhabited

/-- The outcome of training one site at step 6 (R378, R48): trained or the stage that failed (R479, code 0x0107), and
the thresholds its mode registers hold. -/
structure SiteTrain where
  site : Nat := 0
  failed : Option Nat := none
  raaimt : Nat := 0
  raammt : Nat := 0
deriving DecidableEq, Repr, Inhabited

/-- An eye measured on a channel (R379, R443): read and write width in ps, height in mV. -/
structure Eye where
  chan : Nat := 0
  rw : Nat := 0
  rh : Nat := 0
  ww : Nat := 0
  wh : Nat := 0
deriving DecidableEq, Repr, Inhabited

/-- What one shadow test measured (R443): a DRAM channel's eye, or a lane's eye, its pre-FEC BER as binary32 and as
the exponent n of 10^-n, and the uncorrectable codewords since the last entry. -/
inductive Shadow where
  | dram (e : Eye)
  | lane (lane width height : Nat) (ber : BitVec 32) (berExp codewords : Nat)
deriving DecidableEq, Repr, Inhabited

/-- One Smoulder sample (R416): the 16 junction sensors in °C, the 54 V input in units of 100 mV, the auxiliary rail
in mV, the retention rails within limits. -/
structure Sample where
  temps : List Nat := []
  v54 : Nat := 540
  vaux : Nat := 3300
  retention : Bool := true
deriving DecidableEq, Repr, Inhabited

/-- A work window that a takeover finds in a protected extent (R104): its context and job under the failed member's identity, its
JVA, slots and the LPA of each of its pages. -/
structure LostWin where
  ctx : Nat := 0
  job : Nat := 0
  base : Nat := 0
  nslots : Nat := 0
  pages : List Nat := []
deriving DecidableEq, Repr, Inhabited

/-- The commands: one constructor per row of the opcode table. -/
inductive Instr where
  /-- SCRUB_READ (R50): what the decode of each slot of the row with an error shows. -/
  | scrubRead (site : Nat) (errs : List (Nat × Ecc))
  /-- SCRUB_WRITE_BACK (R51). -/
  | scrubWriteBack (site : Nat) (lpa : Nat)
  /-- REFRESH_RATE_READ (R47). -/
  | refreshRateRead (temps : List Nat)
  /-- PER_BANK_REFRESH (R47). -/
  | perBankRefresh (site chan rank bank : Nat)
  /-- CHANNEL_ISSUE (R46). -/
  | channelIssue (site chan : Nat)
  /-- REQUEST_AGE_EXPIRE (R46). -/
  | requestAgeExpire (site chan : Nat)
  /-- AGGRESSOR_TABLE_CLEAR (R49). -/
  | aggressorTableClear
  /-- HOT_TILE_PERIOD (R55). -/
  | hotTilePeriod (h : Nat)
  /-- TILE_FILL_COMPLETE (R56). -/
  | tileFillComplete (h tile : Nat)
  /-- TILE_FILL_ABANDON (R56). -/
  | tileFillAbandon (h tile : Nat)
  /-- EVICT_WRITEBACK_COMPLETE (R45, R56): `bad` are the lines of the tile that suffered an uncorrectable SRAM error. -/
  | evictWritebackComplete (h tile : Nat) (bad : List Nat)
  /-- FETCH_BUDGET_LAPSE (R62). -/
  | fetchBudgetLapse (i : ItemId) (k : Nat)
  /-- TILE_FETCH_COMPLETE (R115). -/
  | tileFetchComplete (i : ItemId) (k : Nat)
  /-- WINDOW_COUNTER_UPDATE (R89). -/
  | windowCounterUpdate (ctx : Nat)
  /-- STOVE_DOMAIN_POWERED (R96). -/
  | stoveDomainPowered (h : Nat)
  /-- SLOT_TAKE (R98). -/
  | slotTake (h : Nat)
  /-- ITEM_COMPLETE (R100). -/
  | itemComplete (i : ItemId)
  /-- CANCEL_DRAIN_DONE (R102). -/
  | cancelDrainDone (i : ItemId)
  /-- ITEM_MOVE (R103). -/
  | itemMove (i : ItemId) (stove : Nat)
  /-- KERNEL_CODE_READ (R129). -/
  | kernelCodeRead (i : ItemId)
  /-- RUN_LIMIT_EXPIRE (R131). -/
  | runLimitExpire (i : ItemId)
  /-- TLD_POOL_TIMEOUT (R116). -/
  | tldPoolTimeout (t : ThreadRef)
  /-- ADD (R114). -/
  | add (t : ThreadRef) (w : BitVec 64)
  /-- SUB (R114). -/
  | sub (t : ThreadRef) (w : BitVec 64)
  /-- MUL (R114). -/
  | mul (t : ThreadRef) (w : BitVec 64)
  /-- MULHU (R114). -/
  | mulhu (t : ThreadRef) (w : BitVec 64)
  /-- AND (R114). -/
  | and (t : ThreadRef) (w : BitVec 64)
  /-- OR (R114). -/
  | or (t : ThreadRef) (w : BitVec 64)
  /-- XOR (R114). -/
  | xor (t : ThreadRef) (w : BitVec 64)
  /-- SHL (R114). -/
  | shl (t : ThreadRef) (w : BitVec 64)
  /-- SHR (R114). -/
  | shr (t : ThreadRef) (w : BitVec 64)
  /-- SAR (R114). -/
  | sar (t : ThreadRef) (w : BitVec 64)
  /-- MINU (R114). -/
  | minu (t : ThreadRef) (w : BitVec 64)
  /-- MAXU (R114). -/
  | maxu (t : ThreadRef) (w : BitVec 64)
  /-- MIN (R114). -/
  | min (t : ThreadRef) (w : BitVec 64)
  /-- MAX (R114). -/
  | max (t : ThreadRef) (w : BitVec 64)
  /-- LI (R114). -/
  | li (t : ThreadRef) (w : BitVec 64)
  /-- LUI (R114). -/
  | lui (t : ThreadRef) (w : BitVec 64)
  /-- DIVU (R114). -/
  | divu (t : ThreadRef) (w : BitVec 64)
  /-- REMU (R114). -/
  | remu (t : ThreadRef) (w : BitVec 64)
  /-- POPC (R114). -/
  | popc (t : ThreadRef) (w : BitVec 64)
  /-- CLZ (R114). -/
  | clz (t : ThreadRef) (w : BitVec 64)
  /-- LD (R114). -/
  | ld (t : ThreadRef) (w : BitVec 64) (ecc : Ecc)
  /-- LDSX (R114). -/
  | ldsx (t : ThreadRef) (w : BitVec 64)
  /-- ST (R114). -/
  | st (t : ThreadRef) (w : BitVec 64)
  /-- LDV (R114). -/
  | ldv (t : ThreadRef) (w : BitVec 64)
  /-- STV (R114). -/
  | stv (t : ThreadRef) (w : BitVec 64)
  /-- STVH (R114). -/
  | stvh (t : ThreadRef) (w : BitVec 64)
  /-- PARAM (R114). -/
  | param (t : ThreadRef) (w : BitVec 64)
  /-- RESW (R136). -/
  | resw (t : ThreadRef) (w : BitVec 64)
  /-- TLD (R115). -/
  | tld (t : ThreadRef) (w : BitVec 64) (ecc : Ecc)
  /-- TALLOC (R114). -/
  | talloc (t : ThreadRef) (w : BitVec 64)
  /-- TST (R119). -/
  | tst (t : ThreadRef) (w : BitVec 64)
  /-- TREL (R114). -/
  | trel (t : ThreadRef) (w : BitVec 64)
  /-- TRV (R117). -/
  | trv (t : ThreadRef) (w : BitVec 64)
  /-- TWV (R114). -/
  | twv (t : ThreadRef) (w : BitVec 64)
  /-- TTAG (R114). -/
  | ttag (t : ThreadRef) (w : BitVec 64)
  /-- TWAIT (R114). -/
  | twait (t : ThreadRef) (w : BitVec 64)
  /-- TCVT (R114). -/
  | tcvt (t : ThreadRef) (w : BitVec 64)
  /-- MWLD (R114). -/
  | mwld (t : ThreadRef) (w : BitVec 64)
  /-- MMV (R122). -/
  | mmv (t : ThreadRef) (w : BitVec 64)
  /-- MTV (R122). -/
  | mtv (t : ThreadRef) (w : BitVec 64)
  /-- VADD (R114). -/
  | vadd (t : ThreadRef) (w : BitVec 64)
  /-- VSUB (R114). -/
  | vsub (t : ThreadRef) (w : BitVec 64)
  /-- VMUL (R114). -/
  | vmul (t : ThreadRef) (w : BitVec 64)
  /-- VMAX (R114). -/
  | vmax (t : ThreadRef) (w : BitVec 64)
  /-- VMIN (R114). -/
  | vmin (t : ThreadRef) (w : BitVec 64)
  /-- VFMA (R114). -/
  | vfma (t : ThreadRef) (w : BitVec 64)
  /-- VCVT (R114). -/
  | vcvt (t : ThreadRef) (w : BitVec 64)
  /-- VBC (R114). -/
  | vbc (t : ThreadRef) (w : BitVec 64)
  /-- VEXT (R114). -/
  | vext (t : ThreadRef) (w : BitVec 64)
  /-- VINS (R114). -/
  | vins (t : ThreadRef) (w : BitVec 64)
  /-- ACLR (R123). -/
  | aclr (t : ThreadRef) (w : BitVec 64)
  /-- AOUT (R123). -/
  | aout (t : ThreadRef) (w : BitVec 64)
  /-- AADDV (R114). -/
  | aaddv (t : ThreadRef) (w : BitVec 64)
  /-- ALSUM (R114). -/
  | alsum (t : ThreadRef) (w : BitVec 64)
  /-- AXP (R114). -/
  | axp (t : ThreadRef) (w : BitVec 64)
  /-- AXI (R114). -/
  | axi (t : ThreadRef) (w : BitVec 64)
  /-- ACOMB (R240). -/
  | acomb (t : ThreadRef) (w : BitVec 64)
  /-- CEQ (R114). -/
  | ceq (t : ThreadRef) (w : BitVec 64)
  /-- CNE (R114). -/
  | cne (t : ThreadRef) (w : BitVec 64)
  /-- CLTU (R114). -/
  | cltu (t : ThreadRef) (w : BitVec 64)
  /-- CLT (R114). -/
  | clt (t : ThreadRef) (w : BitVec 64)
  /-- CGEU (R114). -/
  | cgeu (t : ThreadRef) (w : BitVec 64)
  /-- CGE (R114). -/
  | cge (t : ThreadRef) (w : BitVec 64)
  /-- SEL (R114). -/
  | sel (t : ThreadRef) (w : BitVec 64)
  /-- PAND (R114). -/
  | pand (t : ThreadRef) (w : BitVec 64)
  /-- POR (R114). -/
  | por (t : ThreadRef) (w : BitVec 64)
  /-- PXOR (R114). -/
  | pxor (t : ThreadRef) (w : BitVec 64)
  /-- PNOT (R114). -/
  | pnot (t : ThreadRef) (w : BitVec 64)
  /-- VCMPLT (R114). -/
  | vcmplt (t : ThreadRef) (w : BitVec 64)
  /-- VCMPEQ (R114). -/
  | vcmpeq (t : ThreadRef) (w : BitVec 64)
  /-- VSEL (R114). -/
  | vsel (t : ThreadRef) (w : BitVec 64)
  /-- VANY (R114). -/
  | vany (t : ThreadRef) (w : BitVec 64)
  /-- AMADD (R124). -/
  | amadd (t : ThreadRef) (w : BitVec 64)
  /-- AMAND (R124). -/
  | amand (t : ThreadRef) (w : BitVec 64)
  /-- AMOR (R124). -/
  | amor (t : ThreadRef) (w : BitVec 64)
  /-- AMXOR (R124). -/
  | amxor (t : ThreadRef) (w : BitVec 64)
  /-- AMMINU (R124). -/
  | amminu (t : ThreadRef) (w : BitVec 64)
  /-- AMMAXU (R124). -/
  | ammaxu (t : ThreadRef) (w : BitVec 64)
  /-- AMMIN (R124). -/
  | ammin (t : ThreadRef) (w : BitVec 64)
  /-- AMMAX (R124). -/
  | ammax (t : ThreadRef) (w : BitVec 64)
  /-- AMSWP (R124). -/
  | amswp (t : ThreadRef) (w : BitVec 64)
  /-- AMCAS (R124). -/
  | amcas (t : ThreadRef) (w : BitVec 64)
  /-- AMFADD (R124). -/
  | amfadd (t : ThreadRef) (w : BitVec 64)
  /-- CNTADD (R114). -/
  | cntadd (t : ThreadRef) (w : BitVec 64)
  /-- CNTWAIT (R114). -/
  | cntwait (t : ThreadRef) (w : BitVec 64)
  /-- CNTRD (R114). -/
  | cntrd (t : ThreadRef) (w : BitVec 64)
  /-- FLAGWAIT (R125). -/
  | flagwait (t : ThreadRef) (w : BitVec 64)
  /-- FLAGWAIT_POLL (R125). -/
  | flagwaitPoll (t : ThreadRef)
  /-- FLAGWAIT_TIMEOUT (R114). -/
  | flagwaitTimeout (t : ThreadRef)
  /-- FLAGCAS (R126). -/
  | flagcas (t : ThreadRef) (w : BitVec 64)
  /-- PQLUT (R114). -/
  | pqlut (t : ThreadRef) (w : BitVec 64)
  /-- PQSCAN (R114). -/
  | pqscan (t : ThreadRef) (w : BitVec 64)
  /-- TOPKINS (R114). -/
  | topkins (t : ThreadRef) (w : BitVec 64)
  /-- TOPKMRG (R114). -/
  | topkmrg (t : ThreadRef) (w : BitVec 64)
  /-- BMTEST (R114). -/
  | bmtest (t : ThreadRef) (w : BitVec 64)
  /-- HASHM (R114). -/
  | hashm (t : ThreadRef) (w : BitVec 64)
  /-- QR (R114). -/
  | qr (t : ThreadRef) (w : BitVec 64)
  /-- COALI (R114). -/
  | coali (t : ThreadRef) (w : BitVec 64)
  /-- COALN (R114). -/
  | coaln (t : ThreadRef) (w : BitVec 64)
  /-- ROWUPD (R156). -/
  | rowupd (t : ThreadRef) (w : BitVec 64)
  /-- BR (R114). -/
  | br (t : ThreadRef) (w : BitVec 64)
  /-- JAL (R114). -/
  | jal (t : ThreadRef) (w : BitVec 64)
  /-- JR (R114). -/
  | jr (t : ThreadRef) (w : BitVec 64)
  /-- LOOP (R114). -/
  | loop (t : ThreadRef) (w : BitVec 64)
  /-- YIELD (R114). -/
  | yield (t : ThreadRef) (w : BitVec 64)
  /-- EXIT (R133). -/
  | exit (t : ThreadRef) (w : BitVec 64)
  /-- TRAP (R114). -/
  | trap (t : ThreadRef) (w : BitVec 64)
  /-- PCNT (R114). -/
  | pcnt (t : ThreadRef) (w : BitVec 64)
  /-- CCNT (R114). -/
  | ccnt (t : ThreadRef) (w : BitVec 64)
  /-- FENCE_INSTR (R127). -/
  | fenceInstr (t : ThreadRef) (w : BitVec 64)
  /-- FENCED (R127). -/
  | fenced (t : ThreadRef) (w : BitVec 64)
  /-- FENCE_COUNT_ZERO (R219). -/
  | fenceCountZero (r : FenceRef)
  /-- NOP (R137). -/
  | nop (i : ItemId)
  /-- COPY (R137). -/
  | copy (i : ItemId)
  /-- FILL (R137). -/
  | fill (i : ItemId)
  /-- GATHER (R149). -/
  | gather (i : ItemId)
  /-- SCATTER_UPDATE (R153). -/
  | scatterUpdate (i : ItemId)
  /-- ROW_LOCK_RELEASE (R156). -/
  | rowLockRelease (h line : Nat)
  /-- IVF_PROBE (R163). -/
  | ivfProbe (i : ItemId)
  /-- PQ_SCAN (R168). -/
  | pqScan (i : ItemId)
  /-- TOPK_MERGE (R175). -/
  | topkMerge (i : ItemId)
  /-- MATVEC (R180). -/
  | matvec (i : ItemId)
  /-- GATE_OPEN (R181). -/
  | gateOpen (i : ItemId)
  /-- GATE_EXPIRED (R181). -/
  | gateExpired (i : ItemId)
  /-- SEGMENT_COMPLETE (R182). -/
  | segmentComplete (i : ItemId)
  /-- ATTEND (R189). -/
  | attend (i : ItemId)
  /-- REDUCE_LOCAL (R192). -/
  | reduceLocal (i : ItemId)
  /-- REDUCE_GROUP (R193). -/
  | reduceGroup (i : ItemId)
  /-- PREFETCH_TRANSLATE (R277). -/
  | prefetchTranslate (i : ItemId)
  /-- PREFETCH_TIER0 (R277). -/
  | prefetchTier0 (i : ItemId)
  /-- ADVISE_PIN (R54). -/
  | advisePin (i : ItemId)
  /-- ADVISE_UNPIN (R54). -/
  | adviseUnpin (i : ItemId)
  /-- ADVISE_PAIR (R61). -/
  | advisePair (i : ItemId)
  /-- ADVISE_UNPAIR (R61). -/
  | adviseUnpair (i : ItemId)
  /-- ADVISE_REMAP (R278). -/
  | adviseRemap (i : ItemId)
  /-- PUBLISH (R325). -/
  | publish (i : ItemId)
  /-- KERNEL (R129). -/
  | kernel (i : ItemId)
  /-- HELLO (R206). -/
  | hello (a : Arrival) (f : Frame)
  /-- LINK_TRAINED (R206, R207): training of a link has ended, or, where the two ends disagree on FEC mode or width, cannot end. -/
  | linkTrained (link : Nat) (agrees : Bool)
  /-- HELLO_REPEAT (R206). -/
  | helloRepeat (link : Nat)
  /-- CTX_OPEN (R208). -/
  | ctxOpen (a : Arrival) (f : Frame)
  /-- CTX_CLOSE (R209). -/
  | ctxClose (a : Arrival) (f : Frame)
  /-- FENCE (R220). -/
  | fence (a : Arrival) (f : Frame)
  /-- FENCE_GAP_TIMEOUT (R220). -/
  | fenceGapTimeout (ctx seq : Nat)
  /-- READ (R204). -/
  | read (a : Arrival) (f : Frame)
  /-- WRITE (R204). -/
  | write (a : Arrival) (f : Frame)
  /-- WRITE_PUSH (R204). -/
  | writePush (a : Arrival) (f : Frame)
  /-- TILE_READ (R204). -/
  | tileRead (a : Arrival) (f : Frame)
  /-- TILE_WRITE (R218). -/
  | tileWrite (a : Arrival) (f : Frame)
  /-- ATOMIC (R204). -/
  | atomic (a : Arrival) (f : Frame)
  /-- SCATTER_UPDATE_REQUEST (R156). -/
  | scatterUpdateRequest (a : Arrival) (f : Frame)
  /-- PUBLISH_REQUEST (R325). -/
  | publishRequest (a : Arrival) (f : Frame)
  /-- LEASE_ACQUIRE (R318). -/
  | leaseAcquire (a : Arrival) (f : Frame)
  /-- LEASE_RENEW (R319). -/
  | leaseRenew (a : Arrival) (f : Frame)
  /-- LEASE_RELEASE (R319). -/
  | leaseRelease (a : Arrival) (f : Frame)
  /-- LEASE_QUERY (R319). -/
  | leaseQuery (a : Arrival) (f : Frame)
  /-- LEASE_LAPSE (R320). -/
  | leaseLapse (no : Nat)
  /-- REVOKE_DRAIN_DONE (R320). -/
  | revokeDrainDone (h slot : Nat)
  /-- SNAP_CREATE (R323). -/
  | snapCreate (a : Arrival) (f : Frame)
  /-- SNAP_OPEN (R329). -/
  | snapOpen (a : Arrival) (f : Frame)
  /-- SNAP_CLOSE (R331). -/
  | snapClose (a : Arrival) (f : Frame)
  /-- SNAP_QUERY (R322). -/
  | snapQuery (a : Arrival) (f : Frame)
  /-- SNAP_DESTROY (R332). -/
  | snapDestroy (a : Arrival) (f : Frame)
  /-- COW_COPY_DONE (R327). -/
  | cowCopyDone (lpa : Nat)
  /-- EXTENT_ZEROING_DONE (R312). -/
  | extentZeroingDone (h slot : Nat)
  /-- CONTRIB (R241). -/
  | contrib (a : Arrival) (f : Frame)
  /-- DELIVER (R245). -/
  | deliver (a : Arrival) (f : Frame)
  /-- ROUND_COMPLETE (R241). -/
  | roundComplete (reg round : Nat)
  /-- ROUND_LIMIT_EXPIRE (R246). -/
  | roundLimitExpire (reg round : Nat)
  /-- COH_RD_S (R295). -/
  | cohRdS (a : Arrival) (f : Frame)
  /-- RD_X (R295). -/
  | rdX (a : Arrival) (f : Frame)
  /-- UPGRADE (R295). -/
  | upgrade (a : Arrival) (f : Frame)
  /-- ATOM (R303). -/
  | atom (a : Arrival) (f : Frame)
  /-- EVICT_S (R295). -/
  | evictS (a : Arrival) (f : Frame)
  /-- EVICT_X (R295). -/
  | evictX (a : Arrival) (f : Frame)
  /-- WB (R295). -/
  | wb (a : Arrival) (f : Frame)
  /-- FETCH (R301). -/
  | fetch (a : Arrival) (f : Frame)
  /-- ACK_I (R297). -/
  | ackI (a : Arrival) (f : Frame)
  /-- ACK_S (R297). -/
  | ackS (a : Arrival) (f : Frame)
  /-- ACK_DATA_I (R297). -/
  | ackDataI (a : Arrival) (f : Frame)
  /-- ACK_DATA_S (R297). -/
  | ackDataS (a : Arrival) (f : Frame)
  /-- ACK_FWD (R300). -/
  | ackFwd (a : Arrival) (f : Frame)
  /-- SNP_INV (R297). -/
  | snpInv (a : Arrival) (f : Frame)
  /-- SNP_DOWN (R297). -/
  | snpDown (a : Arrival) (f : Frame)
  /-- SNP_FWD_S (R300). -/
  | snpFwdS (a : Arrival) (f : Frame)
  /-- SNP_FWD_X (R300). -/
  | snpFwdX (a : Arrival) (f : Frame)
  /-- SNP_DEV (R306). -/
  | snpDev (a : Arrival) (f : Frame)
  /-- FWD_DATA (R300). -/
  | fwdData (a : Arrival) (f : Frame)
  /-- PEND_RESEND (R299). -/
  | pendResend (h line : Nat)
  /-- SNOOP_TIMEOUT (R305). -/
  | snoopTimeout (h line agent : Nat)
  /-- CUTOFF_EXPIRE (R305). -/
  | cutoffExpire (agent : Nat)
  /-- INVAL (R274). -/
  | inval (a : Arrival) (f : Frame)
  /-- MGMT_READ (R223). -/
  | mgmtRead (a : Arrival) (f : Frame)
  /-- MGMT_WRITE (R223). -/
  | mgmtWrite (a : Arrival) (f : Frame)
  /-- RESPONSE_RECEIVE (R216). -/
  | responseReceive (a : Arrival) (f : Frame)
  /-- RETRANSMIT_TIMEOUT (R216). -/
  | retransmitTimeout (k : Nat)
  /-- FRAME_DAMAGED (R200). -/
  | frameDamaged (link : Nat) (why : Damage)
  /-- ASSEMBLY_TIMEOUT (R218). -/
  | assemblyTimeout (k : Nat)
  /-- EPOCH_HOLD_TIMEOUT (R221). -/
  | epochHoldTimeout (k : Nat)
  /-- LINK_DOWN (R233). -/
  | linkDown (link : Nat) (cause : Nat)
  /-- DOZE_NOTICE (R418). -/
  | dozeNotice (link : Nat)
  /-- FRAME_TX_END (R249). -/
  | frameTxEnd (link : Nat)
  /-- GCL_INTERVAL_END (R253). -/
  | gclIntervalEnd (flue : Nat)
  /-- GATE_LIST_AT (R254). -/
  | gateListAt (flue : Nat)
  /-- WALK_READ_COMPLETE (R265). -/
  | walkReadComplete (k : Nat) (ecc : Ecc)
  /-- FAULT_RECORD_WRITE (R272). -/
  | faultRecordWrite (job : Nat)
  /-- FAULT_RETRY (R272). -/
  | faultRetry (id : Nat)
  /-- FAULT_DECLINE (R272). -/
  | faultDecline (id : Nat)
  /-- TRANSLATION_TIMEOUT (R273). -/
  | translationTimeout (k : Nat)
  /-- PROBE (R347). -/
  | probe (a : Arrival) (f : Frame)
  /-- PROBE_TIMER (R347). -/
  | probeTimer
  /-- PROBE_ACK (R347). -/
  | probeAck (a : Arrival) (f : Frame)
  /-- PROBE_MISS (R347). -/
  | probeMiss (pos : Nat)
  /-- SUSPECT (R347). -/
  | suspect (a : Arrival) (f : Frame)
  /-- PROPOSE (R342). -/
  | propose (a : Arrival) (f : Frame)
  /-- ACCEPT (R342). -/
  | accept (a : Arrival) (f : Frame)
  /-- COMMIT (R342). -/
  | commit (a : Arrival) (f : Frame)
  /-- PROPOSAL_TIMEOUT (R342). -/
  | proposalTimeout
  /-- COLLECT (R343). -/
  | collect (a : Arrival) (f : Frame)
  /-- MAP_READ (R341). -/
  | mapRead (a : Arrival) (f : Frame)
  /-- JOIN (R344). -/
  | join (a : Arrival) (f : Frame)
  /-- MIRROR_WR (R345). -/
  | mirrorWr (a : Arrival) (f : Frame)
  /-- PARITY_XOR (R345). -/
  | parityXor (a : Arrival) (f : Frame)
  /-- JOURNAL (R350). -/
  | journal (a : Arrival) (f : Frame)
  /-- JOURNAL_READ (R349). -/
  | journalRead (a : Arrival) (f : Frame)
  /-- REBUILD_READ (R351). -/
  | rebuildRead (a : Arrival) (f : Frame)
  /-- SELF_FENCE (R348). -/
  | selfFence
  /-- SPARE_SERVE (R349). -/
  | spareServe (wins : List LostWin)
  /-- SPARE_ABSENT_TIMEOUT (R349). -/
  | spareAbsentTimeout
  /-- REBUILD_UNIT_DONE (R351). -/
  | rebuildUnitDone (k : Nat)
  /-- MOVE_COPY_DONE (R353). -/
  | moveCopyDone (k : Nat)
  /-- AUX_RAIL_UP (R357). -/
  | auxRailUp
  /-- AUX_RAIL_LOSS (R358). -/
  | auxRailLoss
  /-- INTERNAL_RESET_RELEASE (R360). -/
  | internalResetRelease (straps : BitVec 12)
  /-- MOD_RESET_ASSERT (R358). -/
  | modResetAssert
  /-- FIREBRICK_READ (R364). -/
  | firebrickRead
  /-- IMAGE_VERIFY (R367). -/
  | imageVerify
  /-- SERVICE_FLUE_TRAINING (R377). -/
  | serviceFlueTraining (s0 s1 : Bool)
  /-- SITE_TRAINING (R378). -/
  | siteTraining (results : List SiteTrain)
  /-- ZERO_INITIALISATION (R41). -/
  | zeroInitialisation
  /-- QUICK_SHADOW_TEST (R379). -/
  | quickShadowTest (eyes : List Eye)
  /-- FABRIC_FLUE_TRAINING (R380). -/
  | fabricFlueTraining (up : List Nat)
  /-- CELL_JOIN (R381). -/
  | cellJoin
  /-- JOIN_WAIT_RECORD (R381). -/
  | joinWaitRecord
  /-- READY (R385). -/
  | ready
  /-- WATCHDOG_EXPIRE (R363). -/
  | watchdogExpire
  /-- LINK_RETRAIN_TIMER (R380). -/
  | linkRetrainTimer
  /-- POWER_FAIL_ASSERT (R462). -/
  | powerFailAssert
  /-- POWER_FAIL_DEASSERT (R359). -/
  | powerFailDeassert
  /-- VIN_MONITOR_TRIP (R462). -/
  | vinMonitorTrip
  /-- MOD_PRESENT_BREAK (R452). -/
  | modPresentBreak
  /-- CLAIM (R392). -/
  | claim (a : Arrival) (f : Frame) (b : Nat)
  /-- SUBMIT (R393). -/
  | submit (a : Arrival) (f : Frame) (b : Nat)
  /-- BUFFER_RELEASE (R392). -/
  | bufferRelease (a : Arrival) (f : Frame) (b : Nat)
  /-- ATTEST (R403). -/
  | attest (a : Arrival) (f : Frame) (b : Nat)
  /-- IMAGE_END (R398). -/
  | imageEnd (a : Arrival) (f : Frame) (b : Nat)
  /-- BUFFER_IDLE_TIMEOUT (R392). -/
  | bufferIdleTimeout (b : Nat)
  /-- IMAGE_BEGIN (R398). -/
  | imageBegin (b : Nat)
  /-- ROLLBACK_TO (R397). -/
  | rollbackTo (b : Nat)
  /-- KEY_PROGRAM (R397). -/
  | keyProgram (b : Nat)
  /-- KEY_GRANT (R397). -/
  | keyGrant (b : Nat)
  /-- KEY_REVOKE (R397). -/
  | keyRevoke (b : Nat)
  /-- LOCK (R397). -/
  | lock (b : Nat)
  /-- JOB_SET (R399). -/
  | jobSet (b : Nat)
  /-- JOB_DELETE (R260). -/
  | jobDelete (b : Nat)
  /-- ROWGROUP_MODE (R35). -/
  | rowgroupMode (b : Nat)
  /-- EXTENT_CREATE (R399). -/
  | extentCreate (b : Nat)
  /-- EXTENT_REMOVE (R399). -/
  | extentRemove (b : Nat)
  /-- EXTENT_ASSIGN (R311). -/
  | extentAssign (b : Nat)
  /-- EXTENT_CLEAR (R311). -/
  | extentClear (b : Nat)
  /-- LEASE_REVOKE (R320). -/
  | leaseRevoke (b : Nat)
  /-- LEASE_BOUNDS (R315). -/
  | leaseBounds (b : Nat)
  /-- FUNC_SET (R400). -/
  | funcSet (b : Nat)
  /-- FUNC_DRAIN_DONE (R400). -/
  | funcDrainDone
  /-- ROUTE (R230). -/
  | route (b : Nat)
  /-- POLICER (R252). -/
  | policer (b : Nat)
  /-- OVERHEAD (R250). -/
  | overhead (b : Nat)
  /-- SHAPER (R251). -/
  | shaper (b : Nat)
  /-- GATE_LIST (R254). -/
  | gateList (b : Nat)
  /-- SITE_STATE (R401). -/
  | siteState (b : Nat)
  /-- TEST_RUN (R444). -/
  | testRun (b : Nat)
  /-- TEST_COMPLETE (R444). -/
  | testComplete (site errors : Nat)
  /-- EXTENT_MOVE (R353). -/
  | extentMove (b : Nat)
  /-- POWER_SET_STATE (R426). -/
  | powerSetState (b : Nat)
  /-- POWER_SET_SECTION (R426). -/
  | powerSetSection (b : Nat)
  /-- ASHPIT_SET (R445). -/
  | ashpitSet (b : Nat)
  /-- MODULE_PARAMS (R402). -/
  | moduleParams (b : Nat)
  /-- FLUE_SET (R402). -/
  | flueSet (b : Nat)
  /-- RESET (R402). -/
  | reset (b : Nat)
  /-- RESET_DELAY_EXPIRE (R402). -/
  | resetDelayExpire
  /-- ENTRY_COMPLETE (R412). -/
  | entryComplete
  /-- EXIT_COMPLETE (R413). -/
  | exitComplete (us : Nat)
  /-- WAKE_PATTERN (R417). -/
  | wakePattern (link : Nat)
  /-- SIGNAL_RETURN (R417). -/
  | signalReturn (flue : Nat)
  /-- MOD_WAKE (R415). -/
  | modWake
  /-- WAKE_TIMER (R415). -/
  | wakeTimer
  /-- SMOULDER_SAMPLE (R416). -/
  | smoulderSample (r : Sample)
  /-- SPARE_REENTRY_TIMER (R411). -/
  | spareReentryTimer
  /-- PHASE_EMBER_TIMER (R411). -/
  | phaseEmberTimer
  /-- AUTO_IDLE_EXPIRE (R406). -/
  | autoIdleExpire (h : Nat)
  /-- DOMAIN_RETURN (R406). -/
  | domainReturn (d : Nat)
  /-- THROTTLE_CHANGE (R422). -/
  | throttleChange (h temp : Nat)
  /-- OVERTEMP_TRIP (R423). -/
  | overtempTrip (sensor temp : Nat)
  /-- OVERTEMP_CLEAR (R423). -/
  | overtempClear (temps : List Nat)
  /-- RATE_LIMIT_PERIOD (R433). -/
  | rateLimitPeriod
  /-- ASH_NVM_WRITE (R435). -/
  | ashNvmWrite (acked : Bool)
  /-- ASH_WINDOW_READ (R438). -/
  | ashWindowRead (a : Arrival) (f : Frame)
  /-- CURSOR_CLAIM (R439). -/
  | cursorClaim (a : Arrival) (f : Frame) (c : Nat)
  /-- CURSOR_SET (R439). -/
  | cursorSet (a : Arrival) (f : Frame) (c : Nat)
  /-- CURSOR_RELEASE (R439). -/
  | cursorRelease (a : Arrival) (f : Frame) (c : Nat)
  /-- CURSOR_IDLE_TIMEOUT (R439). -/
  | cursorIdleTimeout (c : Nat)
  /-- OPERATING_SECOND (R442). -/
  | operatingSecond (temps : List Nat)
  /-- DROOP_DETECT (R442). -/
  | droopDetect (rail depth dur : Nat)
  /-- SHADOW_TEST (R443). -/
  | shadowTest (r : Shadow)
  /-- METERING_INTERVAL (R449). -/
  | meteringInterval (mj : Nat)
  /-- SMB_POINTER_SET (R467). -/
  | smbPointerSet (data : List Byte)
  /-- SMB_BLOCK_READ (R467). -/
  | smbBlockRead
  /-- SMB_QUICK_STATUS (R469). -/
  | smbQuickStatus
  /-- SMB_ALERT_RESPONSE (R470). -/
  | smbAlertResponse
  /-- SMB_CLOCK_TIMEOUT (R467). -/
  | smbClockTimeout
  /-- REC_HOLD_ASSERT (R466). -/
  | recHoldAssert
  /-- REC_HOLD_DEASSERT (R466). -/
  | recHoldDeassert
  /-- IDCODE (R471). -/
  | idcode
  /-- BYPASS (R472). -/
  | bypass
  /-- EXTEST (R471). -/
  | extest
  /-- INTEST (R471). -/
  | intest
  /-- CLAMP (R471). -/
  | clamp
  /-- EXTEST_PULSE (R471). -/
  | extestPulse
  /-- EXTEST_TRAIN (R471). -/
  | extestTrain
  /-- SHAPER_ELIGIBLE (R250). -/
  | shaperEligible (link cls : Nat)
  /-- SERVICE_FLUE_LINK_UP (R206). -/
  | serviceFlueLinkUp (link : Nat)
  /-- PAUSE_FRAME (R229). -/
  | pauseFrame (link : Nat)
  /-- UNSUPPORTED_TYPE (R203). -/
  | unsupportedType (a : Arrival) (f : Frame)
  /-- TRANSIT_FRAME (R232). -/
  | transitFrame (a : Arrival) (f : Frame)
  /-- TEST_LOGIC_RESET (R458). -/
  | testLogicReset
deriving DecidableEq, Repr

end Sys2Proof
end

