-- ==== Sys2Proof/Decode.lean ====
section
/-! DEFINITION. Words: what a table word spells (nothing: log 1), and the fields of the Stove's 64-bit instruction word
(R112) with the encoder that puts them back. -/

namespace Sys2Proof

/-- The command that a word spells by the bits of the opcode table. The table gives no row any bits, so no word spells a
command (log 1). -/
def decodeTableWord (_nbits _w : Nat) : Option Instr := none

/-- Bits `lo + w - 1` to `lo` of an instruction word. -/
def wordFld (x : BitVec 64) (lo w : Nat) : Nat := (x.toNat / 2 ^ lo) % 2 ^ w

/-- The fields that both forms of the instruction word share (R112). -/
structure WordHead where
  cls : Nat := 0
  opc : Nat := 0
  ge : Nat := 0
  gn : Nat := 0
  gp : Nat := 0
  dst : Nat := 0
  sa : Nat := 0
  sb : Nat := 0
  w : Nat := 0
deriving DecidableEq, Repr

/-- The low 32 bits of the word by its form (R112): one immediate, or a third source, a format, a conversion and a short
immediate. -/
inductive WordTail where
  | i (imm : Nat)
  | t (sc fmt cvt imm19 : Nat)
deriving DecidableEq, Repr

/-- An instruction word by its fields. -/
structure InstrWord where
  head : WordHead := {}
  tail : WordTail := .i 0
deriving DecidableEq, Repr

/-- The shared fields of a word (R112). -/
def decodeHead (x : BitVec 64) : WordHead :=
  { cls := wordFld x 60 4, opc := wordFld x 54 6, ge := wordFld x 53 1, gn := wordFld x 52 1, gp := wordFld x 49 3,
    dst := wordFld x 44 5, sa := wordFld x 39 5, sb := wordFld x 34 5, w := wordFld x 32 2 }

/-- Form T of a class and operation (R114); every other listed operation is form I. -/
def isFormT (cls opc : Nat) : Bool :=
  match cls with
  | 2 => opc = 1 || opc = 4 || opc = 5 || opc = 8
  | 3 => true
  | 4 => opc = 1 || opc = 2 || opc = 4 || opc = 5
  | 5 => opc = 0x10 || opc = 0x11
  | 6 => opc = 9
  | 7 => opc = 3
  | 8 => opc ≠ 3
  | 9 => opc = 0 || opc = 4
  | _ => false

/-- The fields of a word, its low half by the form of its operation (R112, R114). -/
def decodeWord (x : BitVec 64) : InstrWord :=
  let h := decodeHead x
  { head := h,
    tail := if isFormT h.cls h.opc then .t (wordFld x 27 5) (wordFld x 23 4) (wordFld x 19 4) (wordFld x 0 19)
            else .i (wordFld x 0 32) }

/-- The value of the low half. -/
def tailNat : WordTail → Nat
  | .i imm => imm
  | .t sc fmt cvt imm19 => sc * 2 ^ 27 + fmt * 2 ^ 23 + cvt * 2 ^ 19 + imm19

/-- The word with the given fields (R112). -/
def encodeWord (i : InstrWord) : BitVec 64 :=
  BitVec.ofNat 64 (i.head.cls * 2 ^ 60 + i.head.opc * 2 ^ 54 + i.head.ge * 2 ^ 53 + i.head.gn * 2 ^ 52 + i.head.gp * 2 ^ 49 +
    i.head.dst * 2 ^ 44 + i.head.sa * 2 ^ 39 + i.head.sb * 2 ^ 34 + i.head.w * 2 ^ 32 + tailNat i.tail)

/-- Every field lies below the width that R112 gives it, and the low half has the form of the operation. -/
def InstrWord.wf (i : InstrWord) : Bool :=
  decide (i.head.cls < 16 ∧ i.head.opc < 64 ∧ i.head.ge < 2 ∧ i.head.gn < 2 ∧ i.head.gp < 8 ∧ i.head.dst < 32 ∧
    i.head.sa < 32 ∧ i.head.sb < 32 ∧ i.head.w < 4) &&
  match i.tail with
  | .i imm => !isFormT i.head.cls i.head.opc && decide (imm < 2 ^ 32)
  | .t sc fmt cvt imm19 =>
    isFormT i.head.cls i.head.opc && decide (sc < 32 ∧ fmt < 16 ∧ cvt < 16 ∧ imm19 < 2 ^ 19)

end Sys2Proof
end

