-- ==== Sys2Proof/Config.lean ====
section
/-! DEFINITION. What one implementation fixes and the free values: constants with no body, so that nothing can be
proved of their value. A free value is read at the counter `State.draws`, which each use advances (log 7). -/

namespace Sys2Proof.Config

/-- Draw n of the on-die entropy source that seeds stochastic rounding (R72): a 16-bit number. -/
opaque entropy : Nat → BitVec 16

/-- Free value n: a 64-bit value that the spec leaves open at the place that reads it. -/
opaque freeWord : Nat → W64

/-- Free byte n: contents the spec leaves open (R444, tests that overwrite a site). -/
opaque freeByte : Nat → Byte

/-- Candidate n for a result that the spec promises within a bound only (R81, R85, R189, R190), as element code. -/
opaque candidate : Nat → Nat

/-- Stove clocks since a crew started, at reading n (R114, CCNT): the spec ties no count of Stove clocks to a command. -/
opaque stoveClocks : Nat → W64

/-- Modulus of the device identity key (R384, IDN_DEVKEY): each die has its own. -/
opaque devKey : Nat

/-- Signature with the device identity key, whose private part never leaves the die (R403), over a report: 384 bytes
taken little-endian first byte first. -/
opaque attestSign : List Byte → Nat

end Sys2Proof.Config
end

