-- ==== Sys2Proof/Machine/Tab.lean ====
section
/-! DEFINITION. Tables by number in one canonical form (numbers strictly rising, no entry at the default), and the few
list operations that the model uses on its unordered lists. -/

namespace Sys2Proof.Machine

/-- Entry `k` of a table whose unlisted entries hold `d`. -/
def tget {α : Type} (d : α) : Tab α → Nat → α
  | [], _ => d
  | (n, v) :: t, k => if k = n then v else if k < n then d else tget d t k

/-- The table with entry `k` set to `v`; the form stays canonical. -/
def tput {α : Type} [DecidableEq α] (d : α) : Tab α → Nat → α → Tab α
  | [], k, v => if v = d then [] else [(k, v)]
  | (n, w) :: t, k, v =>
    if k = n then (if v = d then t else (k, v) :: t)
    else if k < n then (if v = d then (n, w) :: t else (k, v) :: (n, w) :: t)
    else (n, w) :: tput d t k v

/-- The table with entry `k` changed by `f`. -/
def tmod {α : Type} [DecidableEq α] (d : α) (t : Tab α) (k : Nat) (f : α → α) : Tab α := tput d t k (f (tget d t k))

/-- The table with every entry changed by `f`. -/
def tmapAll {α : Type} [DecidableEq α] (d : α) (f : α → α) (t : Tab α) : Tab α :=
  (t.map fun e => (e.1, f e.2)).filter fun e => e.2 ≠ d

/-- Every number of the table is at least `lo`, the numbers rise strictly, and no entry is the default. -/
def tokFrom {α : Type} [DecidableEq α] (d : α) : Nat → Tab α → Bool
  | _, [] => true
  | lo, (n, v) :: t => decide (lo ≤ n) && decide (v ≠ d) && tokFrom d (n + 1) t

/-- The canonical form of a table. -/
def tok {α : Type} [DecidableEq α] (d : α) (t : Tab α) : Bool := tokFrom d 0 t

/-- The entries whose number lies outside `lo` to `hi - 1`. -/
def tdropRange {α : Type} (t : Tab α) (lo hi : Nat) : Tab α := t.filter fun e => e.1 < lo || hi ≤ e.1

/-- The entries whose number lies in `lo` to `hi - 1`, numbered from `lo`. -/
def tslice {α : Type} (t : Tab α) (lo hi : Nat) : Tab α :=
  (t.filter fun e => lo ≤ e.1 && e.1 < hi).map fun e => (e.1 - lo, e.2)

/-- The first element of which `p` holds, changed by `f`; the rest as it was. -/
def updFirst {α : Type} (p : α → Bool) (f : α → α) : List α → List α
  | [] => []
  | x :: xs => if p x then f x :: xs else x :: updFirst p f xs

/-- The list without the first element of which `p` holds. -/
def dropFirst {α : Type} (p : α → Bool) : List α → List α
  | [] => []
  | x :: xs => if p x then xs else x :: dropFirst p xs

/-- The last `n` elements. -/
def lastN {α : Type} (n : Nat) (xs : List α) : List α := xs.drop (xs.length - n)

/-- The element at place `k`, or `d`. -/
def nth {α : Type} (d : α) : List α → Nat → α
  | [], _ => d
  | x :: _, 0 => x
  | _ :: xs, k + 1 => nth d xs k

/-- `f` applied to every number below `n`, in rising order. -/
def upTo {α : Type} (n : Nat) (f : Nat → α) : List α := (List.range n).map f

/-- `s` changed by `f` for each element in turn. -/
def forAll {σ α : Type} (xs : List α) (f : σ → α → σ) (s : σ) : σ := xs.foldl f s

/-- A counter of `w` bits that has counted one more: it stays at its greatest value (R9). -/
def satInc (w n : Nat) (by_ : Nat := 1) : Nat := if n + by_ < 2 ^ w then n + by_ else 2 ^ w - 1

end Sys2Proof.Machine
end

