-- ==== Sys2Proof/Machine/Bits.lean ====
section
/-! DEFINITION. Bit fields, little-endian bytes (R6) and the comparison of Pilot counts. -/

namespace Sys2Proof.Machine

/-- Bits `lo + w - 1` to `lo` of `x`. -/
def fld (x lo w : Nat) : Nat := x / 2 ^ lo % 2 ^ w

/-- Bit `b` of `x`. -/
def tbit (x b : Nat) : Bool := x / 2 ^ b % 2 = 1

/-- `x` with bits `lo + w - 1` to `lo` set to `v`. -/
def setFld (x lo w v : Nat) : Nat := x - fld x lo w * 2 ^ lo + v % 2 ^ w * 2 ^ lo

/-- One bit as a number. -/
def b2n (b : Bool) : Nat := if b then 1 else 0

/-- The number whose bytes, least significant first, are given. -/
def leNat : List Byte → Nat
  | [] => 0
  | b :: bs => b.toNat + 256 * leNat bs

/-- The low `n` bytes of `x`, least significant first. -/
def natLe : Nat → Nat → List Byte
  | 0, _ => []
  | n + 1, x => BitVec.ofNat 8 x :: natLe n (x / 256)

/-- The number whose bytes, most significant first, are given. -/
def beNat (bs : List Byte) : Nat := bs.foldl (fun a b => 256 * a + b.toNat) 0

/-- The number of `n` bytes at offset `o` of a list of bytes, least significant first; bytes past its end are 0. -/
def leAt (bs : List Byte) (o n : Nat) : Nat := leNat ((bs.drop o).take n)

/-- `n` bytes from offset `o`, padded with zeros. -/
def byteSlice (bs : List Byte) (o n : Nat) : List Byte :=
  let x := (bs.drop o).take n
  x ++ List.replicate (n - x.length) 0

/-- The list with `new` laid over it from offset `o`. -/
def overlay (bs : List Byte) (o : Nat) (new : List Byte) : List Byte :=
  bs.take o ++ new ++ bs.drop (o + new.length)

/-- The list cut into pieces of `n`, at most `fuel` of them. -/
def chunks {α : Type} (n : Nat) : Nat → List α → List (List α)
  | 0, _ => []
  | fuel + 1, xs => if xs.isEmpty then [] else xs.take n :: chunks n fuel (xs.drop n)

/-- A two's complement number of `w` bits. -/
def sgn (w x : Nat) : Int := if x % 2 ^ w < 2 ^ (w - 1) then ((x % 2 ^ w : Nat) : Int) else ((x % 2 ^ w : Nat) : Int) - 2 ^ w

/-- An integer as `w` bits of two's complement. -/
def toTwos (w : Nat) (i : Int) : Nat := (i % (2 ^ w : Nat)).toNat

/-- `x` rounded up to a multiple of `n`. -/
def roundUp (n x : Nat) : Nat := (x + n - 1) / n * n

/-- Pilot count `a` minus `b`, modulo 2^32. -/
def ptDiff (a b : Nat) : Nat := (a % 2 ^ 32 + 2 ^ 32 - b % 2 ^ 32) % 2 ^ 32

/-- Count `now` has passed `d`: the difference modulo 2^32 is 1 to 2^31 - 1 (R90). -/
def ptPast (now d : Nat) : Bool := 1 ≤ ptDiff now d && ptDiff now d < 2 ^ 31

/-- At least `us` microseconds have passed between the Pilot counts `start` and `now` (1,024 ticks are 1 ms). -/
def usPassed (start now us : Nat) : Bool := start ≤ now && us * 1024 ≤ (now - start) * 1000

end Sys2Proof.Machine
end

