-- ==== Sys2Proof/Machine/State.lean ====
section
/-! DEFINITION. The state of the GV2032 as plain data, every field at its reset value by default. Tables list only the
numbers whose entry differs from the default named beside them. INVENTORY.md cites the rule of each field. -/

namespace Sys2Proof.Machine

/-- Why the machine stops with a fault. -/
inductive Fault where
  /-- Raised by the commands that carry a junction reading (THROTTLE_CHANGE, OVERTEMP_TRIP, SMOULDER_SAMPLE,
  OPERATING_SECOND) when it lies above the absolute maximum of 125 °C: the spec defines no behaviour there (R477). Safe: nothing is claimed beyond it. -/
  | beyondAbsoluteMaximum
deriving DecidableEq, Repr

/-- Why a command has no meaning. -/
inductive Refusal where
  /-- Raised by an arm of `exec` whose command has no meaning yet. Safe. -/
  | notModelled (mnemonic : String)
deriving DecidableEq, Repr

/-! ## Clocks, pins, bring-up, configuration -/

/-- Clocks and counts (R11, R255, R357, R383). -/
structure Clk where
  pilot : Nat := 0
  chimney1024 : Nat := 0
  opSec : Nat := 0
  pcycles : Nat := 0
  releasePt : Nat := 0
  readyMs : Nat := 0
  step10Pt : Option Nat := none
deriving DecidableEq, Repr, Inhabited

/-- The TAP's instruction (R471, R472). -/
inductive TapInstr where
  | idcode | bypass | extest | intest | clamp | extestPulse | extestTrain
deriving DecidableEq, Repr, Inhabited

/-- Low-speed pins, rails, SMBus and TAP (R451 to R472). `tdr` is what the TAP's data register has captured. -/
structure Pins where
  modResetN : Bool := true
  powerFail : Bool := true
  present : Bool := true
  vaux : Bool := false
  vin54 : Bool := false
  refclkEn : Bool := false
  imgBusy : Bool := false
  recHoldN : Bool := true
  smbAlert : Bool := false
  smbPtr : Nat := 0
  smbOut : List Byte := []
  smbNack : Bool := false
  tap : TapInstr := .idcode
  trstN : Bool := false
  tdr : Nat := 0
deriving DecidableEq, Repr, Inhabited

/-- Bring-up, image and identity (R357 to R386). -/
structure Boot where
  phase : Nat := 1
  failStep : Nat := 0
  failCode : Nat := 0
  slot : Bool := false
  fallback : Bool := false
  watchdog : Bool := false
  checkA : Nat := 0
  checkB : Nat := 0
  sitesLow : Nat := 0
  straps : BitVec 12 := 0
  watchdogs : Nat := 0
  tryOther : Bool := false
  idn : BitVec 2048 := 0
  stepping : Nat := 0
  device : Nat := 0x3FFF
  cell : Nat := 0
  pos : Nat := 0
  role : Nat := 0
  imgVersion : Nat := 0
  imgLen : Nat := 0
  imgRollback : Nat := 0
  imgKeySlot : Nat := 0
  imgHash : Nat := 0
  shadow : List Byte := []
  nvm : Tab Byte := []
  joinRecorded : Bool := false
deriving DecidableEq, Repr, Inhabited

/-- One Flue entry of the FLUES section (R374). -/
structure Flue where
  en : Bool := false
  quartered : Bool := false
  fullFec : Bool := false
  overhead : Nat := 20
  roles : Nat := 0
deriving DecidableEq, Repr, Inhabited

/-- A group entry of the placement map (R340). -/
structure Group where
  kind : Nat := 0
  k : Nat := 0
  hearth : Nat := 0
  first : Nat := 0
  nslots : Nat := 0
  pos : List Nat := []
deriving DecidableEq, Repr, Inhabited

/-- A member entry of the placement map (R338). -/
structure Member where
  serial : Nat := 0
  mstate : Nat := 0
  mrev : Nat := 0
  buddy : Nat := 0
deriving DecidableEq, Repr, Inhabited

/-- A move entry of the placement map (R340). -/
structure Move where
  fromPos : Nat := 0
  fromH : Nat := 0
  fromSlot : Nat := 0
  toPos : Nat := 0
  toH : Nat := 0
  toSlot : Nat := 0
  stage : Nat := 0
  atEpoch : Nat := 0
deriving DecidableEq, Repr, Inhabited

/-- A placement map (R338). -/
structure PMap where
  cell : Nat := 0
  leader : Nat := 0
  spareUp : Bool := false
  serving : Bool := false
  servePos : Nat := 0
  nmem : Nat := 0
  epoch : Nat := 0
  spareSerial : Nat := 0
  members : Tab Member := []
  groups : List Group := []
  moves : List Move := []
deriving DecidableEq, Repr, Inhabited

/-- Configuration in force (R370, R371, R374, R375, R425, R445). -/
structure Cfg where
  ttoMs : Nat := 10
  retxUs : Nat := 50
  retries : Nat := 7
  hopsMax : Nat := 24
  rhThresh : Nat := 2048
  etherType : Nat := 0x88B6
  siteOff : Nat := 0
  flues : Tab Flue := []
  udpPort : Nat := 47062
  svcPayload : Nat := 1024
  ipv6 : Tab Nat := []
  cellMap : PMap := {}
  jslot : Nat := 0
  power : BitVec 512 := 0
  ashpit : BitVec 512 := 0
deriving DecidableEq, Repr, Inhabited

/-! ## Fuses, authority, recorder, health -/

/-- Firebrick, both copies (R387). -/
structure Fuse where
  a : BitVec 2048 := 0
  b : BitVec 2048 := 0
deriving DecidableEq, Repr, Inhabited

/-- A requester on a service Flue (R391, R439). -/
structure Claimant where
  flue : Nat := 0
  ip : Nat := 0
  port : Nat := 0
deriving DecidableEq, Repr, Inhabited

/-- One item of a change record (R390). -/
structure Item390 where
  ityp : Nat := 0
  target : Nat := 0
  payload : List Byte := []
deriving DecidableEq, Repr, Inhabited

/-- An image session (R398). -/
structure Session where
  slot : Bool := false
  len : Nat := 0
  hash : Nat := 0
deriving DecidableEq, Repr, Inhabited

/-- A change buffer (R391, R392). `todo` are the items of a checked record not yet applied. -/
structure Buf where
  state : Nat := 0
  result : Nat := 0
  check : Nat := 0
  item : Nat := 0
  seq : Nat := 0
  opsec : Nat := 0
  imgWin : Nat := 0
  who : Claimant := {}
  lastPt : Nat := 0
  data : Tab Byte := []
  todo : List Item390 := []
  done : Nat := 0
  cls : Nat := 0
  keySlot : Nat := 0
  flags : Nat := 0
  session : Option Session := none
deriving DecidableEq, Repr, Inhabited

/-- Authority (R388 to R403). `drains` are FUNC_SETs still draining: the buffer (4 once it is freed), the functions cleared, the items
then running (R400); `waiting` are buffers submitted and not yet checked, in order (R392). -/
structure Auth where
  lastSeq : Tab Nat := []
  funcs : Nat := 0x7F
  bufs : Tab Buf := []
  applied : Nat := 0
  resetAt : Option Nat := none
  drains : List (Nat × Nat × List ItemId) := []
  waiting : List Nat := []
deriving DecidableEq, Repr, Inhabited

/-- An Ashpit record (R429): DATA is 28 bytes, unnamed bytes zero. -/
structure Rec where
  sev : Nat := 0
  src : Nat := 0
  code : Nat := 0
  suppressed : Nat := 0
  rno : Nat := 0
  opSec : Nat := 0
  pcycles : Nat := 0
  pt : Nat := 0
  data : List Byte := []
deriving DecidableEq, Repr, Inhabited

/-- A cursor of the Ashpit and metering windows (R439). -/
structure Cursor where
  held : Bool := false
  ashBase : Nat := 0
  mtrBase : Nat := 0
  who : Claimant := {}
  lastPt : Nat := 0
deriving DecidableEq, Repr, Inhabited

/-- The Ashpit (R429 to R440). Default of `tokens` is 16, of `nvm` none. `waits203` and `waits404` are the waits of this rate-limit
period, `waits404H` the Hearth of the last one (R273, R328). -/
structure Ash where
  nextRno : Nat := 0
  buffer : List Rec := []
  nvm : Tab (Option Rec) := []
  backlog : List Rec := []
  suppressedTotal : Nat := 0
  lostTotal : Nat := 0
  flushes : Nat := 0
  crcErrors : Nat := 0
  nvmErrors : Nat := 0
  nvmFail : Bool := false
  sevMax : Nat := 0
  sev3 : Nat := 0
  tokens : Tab Nat := []
  suppressed : Tab Nat := []
  headerRno : Nat := 0
  headerLost : Nat := 0
  headerPcycles : Nat := 0
  headerOpSec : Nat := 0
  blank : Bool := true
  cursors : Tab Cursor := []
  tries : Nat := 0
  waits203 : Nat := 0
  waits404 : Nat := 0
  waits404H : Nat := 0
deriving DecidableEq, Repr, Inhabited

/-- A bank entry of the site error maps (R441). -/
structure BankErr where
  corrected : Nat := 0
  uncorrected : Nat := 0
  aggressor : Nat := 0
  lastRow : Nat := 0
deriving DecidableEq, Repr, Inhabited

/-- A row entry of the site error maps (R441). -/
structure RowErr where
  opSec : Nat := 0
  chan : Nat := 0
  rank : Nat := 0
  bank : Nat := 0
  row : Nat := 0
  kind : Nat := 0
  symbol : Nat := 0
  count : Nat := 0
deriving DecidableEq, Repr, Inhabited

/-- An entry of a channel's eye history (R441). -/
structure EyeEntry where
  opSec : Nat := 0
  rw : Nat := 0
  rh : Nat := 0
  ww : Nat := 0
  wh : Nat := 0
deriving DecidableEq, Repr, Inhabited

/-- An entry of a lane's history (R441). -/
structure LaneEntry where
  opSec : Nat := 0
  width : Nat := 0
  height : Nat := 0
  ber : BitVec 32 := 0
  berExp : Nat := 0
  codewords : Nat := 0
deriving DecidableEq, Repr, Inhabited

/-- An entry of the droop log (R441). -/
structure Droop where
  opSec : Nat := 0
  rail : Nat := 0
  depth : Nat := 0
  dur : Nat := 0
  pcycles : Nat := 0
deriving DecidableEq, Repr, Inhabited

/-- An entry of the boot history (R441). -/
structure BootEntry where
  opSec : Nat := 0
  pcycles : Nat := 0
  checkA : Nat := 0
  checkB : Nat := 0
  flags : Nat := 0
  failCode : Nat := 0
  phase : Nat := 0
  version : Nat := 0
  readyMs : Nat := 0
  hash : Nat := 0
deriving DecidableEq, Repr, Inhabited

/-- The lifetime health record (R441, R442). `eyes` and `lanes` hold, by channel or lane, the entries in the order
written, with the number of entries ever written in front. -/
structure Hlth where
  banks : Tab BankErr := []
  rows : Tab (List RowErr) := []
  eyes : Tab (Nat × List EyeEntry) := []
  lanes : Tab (Nat × List LaneEntry) := []
  therm : Tab Nat := []
  rowCounts : Tab Nat := []
  droops : List Droop := []
  boots : Nat × List BootEntry := (0, [])
  temps : Tab Nat := []
deriving DecidableEq, Repr, Inhabited

/-- A metering record (R447). `ctr` is by the counter's place in the map: 0 T0, 1 T1, 2 T2, 3 atomics, 4 thread-cycles,
5 codes, 6 GiB-seconds, 7 version blocks, 8 degraded, 9 energy, 10 items; `ops` by FMT. -/
structure MtrRec where
  gen : Nat := 0
  job : Nat := 0
  start : Nat := 0
  ctr : Tab Nat := []
  ops : Tab Nat := []
deriving DecidableEq, Repr, Inhabited

/-- Metering (R446 to R449). `act` is the weighted activity of the interval by entry in units of 1/8 pJ, `unAct` the
unattributed activity, `carry` the µJ carried. Entry 16,384 of `carry` is the unattributed record's. -/
structure Mtr where
  recs : Tab MtrRec := []
  un : MtrRec := {}
  act : Tab Nat := []
  unAct : Nat := 0
  carry : Tab Nat := []
  staticW : Nat := 170
deriving DecidableEq, Repr, Inhabited

/-- Power state (R405 to R427). -/
structure Pwr where
  state : Nat := 0
  refuse : Nat := 0
  wakeSrc : Nat := 0
  wakeLink : Nat := 0
  domains : BitVec 30 := 0
  smEntries : Nat := 0
  emEntries : Nat := 0
  refusals : Nat := 0
  wakesInEntry : Nat := 0
  tjMax : Nat := 0
  throttled : Nat := 0
  throttleEvents : Nat := 0
  lastExitUs : Nat := 0
  smS : Nat := 0
  emS : Nat := 0
  rate : Tab Nat := []
  wakeTimer : Option Nat := none
  pendingWake : Option (Nat × Nat) := none
  phaseSince : Option Nat := none
  spareSince : Option Nat := none
  idleSince : Tab Nat := []
  returning : Tab (Option Nat) := []
  tripped : Bool := false
deriving DecidableEq, Repr, Inhabited

/-! ## Memory, sites, tier 0 -/

/-- A tile's format tag as its rows hold it (R39): one FMT, or rows that disagree or fail their trailer check. -/
inductive Tag where
  | fmt (f : Nat)
  | mixed
deriving DecidableEq, Repr, Inhabited

/-- The store of this module (R22): bytes by LPA (0 where unlisted), poisoned lines, extents every line of which is poisoned
(`void`: R352) but for those `filled` since, tags by tile number, stripe units that are unprotected (R346), and lines whose last
repair failed, of which no access has heard yet (R44). -/
structure Mem where
  cells : Tab Byte := []
  poison : List Nat := []
  void : List Nat := []
  filled : List Nat := []
  tags : Tab Tag := []
  unprot : List Nat := []
  lost : List Nat := []
deriving DecidableEq, Repr, Inhabited

/-- A memory site (R47, R48, R50, R378, R401, R444). `row` is the scrub position, `scrubbed` the corrected lines still to be
written back (R51); `overwritten` says that a test has overwritten its rows since it left service. -/
structure Site where
  trained : Bool := false
  inService : Bool := true
  raaimt : Nat := 0
  raammt : Nat := 0
  rate : Nat := 1
  held : Bool := false
  temp : Nat := 0
  row : Nat := 0
  scrubbed : List Nat := []
  test : Option Nat := none
  overwritten : Bool := false
deriving DecidableEq, Repr, Inhabited

/-- A DRAM request in a channel's queue (R46): its number in the order in which the channel was given them, the place of its
line and the Pilot count at which it was queued. -/
structure DReq where
  no : Nat := 0
  line : Nat := 0
  rank : Nat := 0
  bank : Nat := 0
  row : Nat := 0
  sincePt : Nat := 0
deriving DecidableEq, Repr, Inhabited

/-- A channel (R46): queued reads and writes, oldest first, whether writes drain, the open row by rank and bank
(16 × rank + bank; none where closed), and the number of the request that its age puts first. -/
structure Chan where
  reads : List DReq := []
  writes : List DReq := []
  draining : Bool := false
  openRow : Tab (Option Nat) := []
  urgent : Option Nat := none
  nextNo : Nat := 0
deriving DecidableEq, Repr, Inhabited

/-- A bank (R48, R49): rolling accumulated activation count, most-activated rows with their counts, blocked at RAAMMT,
refreshes and refresh-management commands issued. -/
structure Bank where
  raa : Nat := 0
  rows : List (Nat × Nat) := []
  blocked : Bool := false
  refreshes : Nat := 0
  rfms : Nat := 0
deriving DecidableEq, Repr, Inhabited

/-- A request that a home orders (R285): the frame with its MPA, as it arrived. Of a tile request, `part` lines have been
served and `acc` holds what they read (R295); `stage` marks a request already recorded and checked on its way in, `nc` that its leaf carries PBMT NC (R266),
`adm` that it counts in its extent's ADMITTED (R314). -/
structure Req where
  a : Arrival := {}
  f : Frame := {}
  part : Nat := 0
  acc : List Byte := []
  stage : Nat := 0
  nc : Bool := false
  adm : Bool := false
deriving DecidableEq, Repr, Inhabited

/-- The 32 sites, their 256 channels by 8 × site + channel, and their banks by 32 × channel number + 16 × rank + bank;
`waits` are requests to Plain lines of a site held in self-refresh, with the Pilot count since which they wait (R47). -/
structure Sites where
  sites : Tab Site := []
  chans : Tab Chan := []
  banks : Tab Bank := []
  waits : List (Req × Nat) := []
deriving DecidableEq, Repr, Inhabited

/-- Where a tier-0 tile stands (R56). -/
inductive T0Status where
  | filling (sincePt : Nat) | whole | evicting
deriving DecidableEq, Repr, Inhabited

/-- A tier-1 tile in tier 0 (R53 to R56): tile number of its LPA, age of the clock hand, pinned, the job that
promoted it, the writes held while it fills, and the lines whose DRAM copy, found bad since, carries the marks of poison. -/
structure T0Tile where
  tile : Nat := 0
  status : T0Status := .whole
  dirty : Bool := false
  age : Nat := 0
  pinned : Bool := false
  job : Nat := 0
  held : List Req := []
  under : List Nat := []
deriving DecidableEq, Repr, Inhabited

/-- A borrowed copy (R58): the tile's JVA, the job and item it was fetched for, and whether it copies a version. -/
structure Borrow where
  jva : Nat := 0
  job : Nat := 0
  item : ItemId := 0
  version : Bool := false
deriving DecidableEq, Repr, Inhabited

/-- The tier-0 slice of a Hearth (R53 to R58). `hot` counts partner line accesses by tile in this period. -/
structure Slice where
  tiles : List T0Tile := []
  hot : Tab Nat := []
  borrowed : List Borrow := []
deriving DecidableEq, Repr, Inhabited

/-- A pairing of primary and shadow tiles (R61): first JVAs, tile count, the tile numbers of the LPA that hold primary tiles or
quarters of them on this module, and those of the shadow tiles in order. -/
structure Pairing where
  job : Nat := 0
  addr : Nat := 0
  arg : Nat := 0
  tiles : Nat := 0
  prim : List Nat := []
  shad : List Nat := []
  valid : Bool := true
deriving DecidableEq, Repr, Inhabited

/-- Tier 0 (R53 to R62). -/
structure T0 where
  slices : Tab Slice := []
  pairs : List Pairing := []
  abandoned : Nat := 0
  shadowDropped : Nat := 0
deriving DecidableEq, Repr, Inhabited

/-! ## Home -/

/-- A recorded holder of a line and the sequence number of the request that granted it (R281, R299). -/
structure Holder where
  agent : Nat := 0
  seq : BitVec 32 := 0
deriving DecidableEq, Repr, Inhabited

/-- Home states of a line with holders (R287). State I has no entry. -/
inductive HomeSt where
  | s (hs : List Holder)
  | sc (vec : BitVec 64)
  | x (o : Holder)
deriving DecidableEq, Repr, Inhabited

/-- A filter entry (R288): line number of the LPA, state, first way of its set, allocation order. -/
structure FEntry where
  line : Nat := 0
  st : HomeSt := .s []
  way : Nat := 0
  alloc : Nat := 0
deriving DecidableEq, Repr, Inhabited

/-- A snoop sent and not yet answered (R294, R305): the agent, or `coarse` a whole member position under LINK 0x7F. -/
structure Snoop where
  id : BitVec 16 := 0
  msg : Nat := 0
  agent : Nat := 0
  coarse : Bool := false
  sentPt : Nat := 0
  tries : Nat := 0
  arg : W64 := 0
  pend : Bool := false
deriving DecidableEq, Repr, Inhabited

/-- The answer a home forms (R202, R292); `origin` is the device and the epoch of another module that formed it. -/
structure Answer where
  status : Nat := 0
  result : W64 := 0
  hint : W64 := 0
  info : W64 := 0
  payload : List Byte := []
  origin : Option (Nat × Nat) := none
deriving DecidableEq, Repr, Inhabited

/-- What a transaction waits for (R285): snoop answers, a Forerunner owner's ACK_FWD (R300), or the copy member's
acknowledgement of a protected change (R345) before `ans` is given, or the other units of a stripe from which a line is
re-formed (R44, R351): those still missing by position and the XOR of those that came. -/
inductive TxStage where
  | snooping | forwarding | awaitCopy (ans : Answer)
  | repairing (left : List Nat) (acc : List Byte)
deriving DecidableEq, Repr, Inhabited

/-- An active transaction of a line (R285). `cur` is the request it serves; none where the home acts for the device
itself (back-invalidation, the end of a lease, a flag write that will be tried again); `copies` counts the updates that
the copy member has not acknowledged (R345). -/
structure Tx where
  line : Nat := 0
  stage : TxStage := .snooping
  cur : Option Req := none
  snoops : List Snoop := []
  copies : Nat := 0
  waiters : List Req := []
deriving DecidableEq, Repr, Inhabited

/-- A row lock (R156): its lines, and the requests that wait. `owner` is the item that holds the lines of pages under remap
(R278); none for a row that is updated. -/
structure RowLock where
  lines : List Nat := []
  owner : Option ItemId := none
  sincePt : Nat := 0
  waiters : List Req := []
deriving DecidableEq, Repr, Inhabited

/-- A home slice (R281 to R308). `ctr` is by the counter's place: 0 REQS, 1 SNOOPS, 2 RETX, 3 TIMEOUTS, 4 BACKINV,
5 COARSE, 6 FWD, 7 NEAR, 8 FAR, 9 PENDING, 10 STRAY_WB. -/
structure HSlice where
  filter : List FEntry := []
  txs : List Tx := []
  locks : List RowLock := []
  watches : List (Nat × ThreadRef) := []
  fore : Tab Bool := []
  nextSnoop : BitVec 16 := 0
  nextAlloc : Nat := 0
  ctr : Tab Nat := []
deriving DecidableEq, Repr, Inhabited

/-- A snoop that this member delivers to one of its own agents (R297). -/
structure Delivery where
  f : Frame := {}
  link : Nat := 0
  sentPt : Nat := 0
  tries : Nat := 0
  many : Bool := false
deriving DecidableEq, Repr, Inhabited

/-- The homes and what this member does for its agents. `devWait` are the positions that have not yet answered SNP_DEV, with
the Pilot count of its last transmission and its retransmissions (R306). -/
structure Homes where
  slices : Tab HSlice := []
  cutoff : Tab (Option Nat) := []
  memberCut : Tab (Option Nat) := []
  pred : Tab Nat := []
  deliveries : List Delivery := []
  devWait : List (Nat × Nat × Nat) := []
deriving DecidableEq, Repr, Inhabited

/-! ## Contexts, windows, scheduler, Stoves -/

/-- A work window (R87 to R89): JVA of its base, slots, LPA of each of its 4 KiB pages; `cancelQ` are slots cancelled
before take whose FAILED is still to be written (R102), `lostQ` slots still to be looked at after a takeover (R104). -/
structure Win where
  base : Nat := 0
  nslots : Nat := 0
  pages : List Nat := []
  state : Nat := 1
  cause : Nat := 0
  late : Nat := 0
  viol : Nat := 0
  cancels : Nat := 0
  changed : Bool := false
  cancelQ : List Nat := []
  lostQ : List Nat := []
  lastPt : Nat := 0
deriving DecidableEq, Repr, Inhabited

/-- A partner context (R208, R209, R282). `closing` holds the CTX_CLOSE that waits to be answered. -/
structure Ctx where
  isOpen : Bool := false
  job : Nat := 0
  link : Nat := 0
  ip : Nat := 0
  port : Nat := 0
  nonce : Nat := 0
  rev : Nat := 2
  fore : Bool := false
  coh : Bool := false
  closing : Option (Option Req) := none
  win : Option Win := none
deriving DecidableEq, Repr, Inhabited

/-- A queued slot (R95 to R97, R109). A needs read of a code object on another module was `asked` for, and `got` its bytes, or
none where it failed. -/
structure QSlot where
  ctx : Nat := 0
  slot : Nat := 0
  detect : Nat := 0
  passed : Nat := 0
  asked : Bool := false
  got : Option (Option (List Byte)) := none
deriving DecidableEq, Repr, Inhabited

/-- The Stove scheduler of a Hearth (R96). -/
structure Sched where
  queue : List QSlot := []
  pend : List QSlot := []
  running : Bool := false
deriving DecidableEq, Repr, Inhabited

/-- A tile's bytes by offset (0 where unlisted) and its tag, as a Stove holds a copy (R108, R115). -/
structure TileData where
  tag : Nat := 0
  cells : Tab Byte := []
deriving DecidableEq, Repr, Inhabited

/-- A lane of an accumulator (R77 to R79): value `man` × 2^`exp`, flags, products received; its binary32 value in a
Dense accumulator (R83). -/
structure Lane where
  man : Int := 0
  exp : Int := 0
  nan : Bool := false
  pinf : Bool := false
  ninf : Bool := false
  n : Nat := 0
  b32 : BitVec 32 := 0
deriving DecidableEq, Repr, Inhabited

/-- The class of an accumulator (R123). -/
inductive AClass where
  | unclassed | long | b32
deriving DecidableEq, Repr, Inhabited

/-- An accumulator of 64 lanes (R110). -/
structure Acc where
  cls : AClass := .unclassed
  lanes : Tab Lane := []
deriving DecidableEq, Repr, Inhabited

/-- Where a handle's tile comes from (R115, R114). -/
inductive HKind where
  | home (tile : Nat) | borrowed | scratch
deriving DecidableEq, Repr, Inhabited

/-- The state of a fetch (R115). -/
inductive FState where
  | fetching | whole | failed (status : Nat)
deriving DecidableEq, Repr, Inhabited

/-- A live tile handle (R108). -/
structure Handle where
  num : Nat := 0
  kind : HKind := .scratch
  jva : Nat := 0
  data : TileData := {}
  fetch : Nat := 0
deriving DecidableEq, Repr, Inhabited

/-- What a thread waits for. -/
inductive Wait where
  | none
  | flag (jva : Nat) (value : Nat) (dst : Nat) (sincePt limit : Nat) (poll : Option Nat)
  | fence (dst : Nat) (dev : Option Nat)
  | pool (sincePt : Nat)
  | reply
deriving DecidableEq, Repr, Inhabited

/-- A hardware thread (R110). `s`, `v`, `a` by register number. `fails` are the devices of requests that failed since the last fence counted them. -/
structure Thread where
  pc : Nat := 0
  s : Tab W64 := []
  v : Tab VReg := []
  p : BitVec 8 := 1
  a : Tab Acc := []
  stat : Option (Nat × TileData) := none
  handles : List Handle := []
  wait : Wait := .none
  done : Option Nat := none
  reply : Option (Nat × W64) := none
  fails : List Nat := []
deriving DecidableEq, Repr, Inhabited

/-- A tile fetch of an item (R62, R115): its JVA, the thread that asked for it, the Pilot count at issue and its budget, what arrived, and whether the
shadow copy was asked for or used. -/
structure Fetch where
  jva : Nat := 0
  thread : Nat := 0
  issued : Nat := 0
  budget : Option Nat := none
  st : FState := .fetching
  askShadow : Option Nat := none
  usedShadow : Bool := false
  seg : Nat := 0
deriving DecidableEq, Repr, Inhabited

/-- A segment entry of a weight run (R179). -/
structure Seg where
  w : Nat := 0
  rt : Nat := 0
  ct : Nat := 0
  xoff : Nat := 0
  yoff : Nat := 0
  rdyVal : Nat := 0
  rdy : Nat := 0
  signal : Nat := 0
  toGroup : Bool := false
  budget : Nat := 0
deriving DecidableEq, Repr, Inhabited

/-- A MATVEC item's run (R179 to R187). `opened` is true once the gate of segment `seg` of pass `pass` is open. -/
structure Run where
  segs : List Seg := []
  ahead : Nat := 0
  passes : Nat := 0
  gateLimit : Nat := 0
  pass : Nat := 0
  seg : Nat := 0
  opened : Bool := false
  sent : Bool := false
  sincePt : Nat := 0
  tiles : Nat := 0
  fine : Bool := false
deriving DecidableEq, Repr, Inhabited

/-- How a work item ends (R100, R136). -/
structure Result where
  status : Nat := 0
  count : Nat := 0
  detail : Nat := 0
  opResult : Nat := 0
  faultJva : Nat := 0
  faultPc : Nat := 0
  faultThread : Nat := 0
deriving DecidableEq, Repr, Inhabited

/-- A TAKEN work item with its crew (R98 to R110). `slotBits` is the slot as read at take. `got` holds lines fetched
from other modules, by MPA; `badPages` pages whose translation failed, with the status. `pin` is the table descriptor pinned and its parity
(R146). A built-in operator's progress stands in `prog`, its counts in `cnts`, what it holds between units in `buf`. -/
structure Item where
  id : ItemId := 0
  ctx : Nat := 0
  slot : Nat := 0
  job : Nat := 0
  slotBits : BitVec 2048 := 0
  op : Nat := 0
  gen : Nat := 0
  place : Nat := 1
  hearth : Nat := 0
  stove : Nat := 0
  crew : Nat := 0
  accs : Nat := 0
  stat : Nat := 0
  scratch : Nat := 0
  codeTiles : Nat := 0
  startPt : Nat := 0
  deadline : Option Nat := none
  reserve : Nat := 0
  miss : Bool := false
  result : Option Result := none
  cancelled : Bool := false
  noFlag : Bool := false
  kernel : Bool := false
  code : Option (List (BitVec 64)) := none
  validated : Bool := false
  base : Nat := 0
  crc : Nat := 0
  threads : Tab Thread := []
  exits : List Nat := []
  c : Tab (BitVec 32) := []
  resw : Tab W64 := []
  shadowCnt : Nat := 0
  fetches : List Fetch := []
  got : List (Nat × List Byte) := []
  fails : Nat := 0
  badPages : List (Nat × Nat) := []
  coal : List W64 := []
  pin : Option (Nat × Bool) := none
  run : Option Run := none
  prog : Nat := 0
  cnts : Tab Nat := []
  buf : List Byte := []
deriving DecidableEq, Repr, Inhabited

/-- The Stoves' items by number. -/
structure Stv where
  items : List Item := []
  nextItem : Nat := 0
deriving DecidableEq, Repr, Inhabited

/-! ## Transport -/

/-- A seen number of a window (R211): kind 0 idempotent, 1 status-kept, 2 non-idempotent. -/
structure Seen where
  seq : BitVec 32 := 0
  kind : Nat := 0
  busy : Bool := true
  status : Nat := 0
  result : W64 := 0
  info : W64 := 0
  typ : Nat := 0
deriving DecidableEq, Repr, Inhabited

/-- A deduplication window (R211, R212). -/
structure SeqWin where
  h : BitVec 32 := 0
  seen : List Seen := []
  lastPt : Nat := 0
deriving DecidableEq, Repr, Inhabited

/-- A fabric-leg window with its key (R211). -/
structure FWin where
  src : Nat := 0
  ctx : Nat := 0
  dev : Nat := 0
  win : SeqWin := {}
deriving DecidableEq, Repr, Inhabited

/-- A fabric sequence space of this module (R210, R213). -/
structure Space where
  ctx : Nat := 0
  dev : Nat := 0
  next : BitVec 32 := 0
  lastPt : Nat := 0
  needSync : Bool := true
deriving DecidableEq, Repr, Inhabited

/-- Who waits for the answer to a request this module sent. -/
inductive Issuer where
  | partner (r : Req)
  | line (i : ItemId) (mpa : Nat)
  | store (t : ThreadRef)
  | reply (t : ThreadRef)
  | itemStore (i : ItemId)
  | publish (i : ItemId)
  | needs (h ctx slot : Nat)
  | walk (k : Nat)
  | adUpdate (k : Nat)
  | table (mpa : Nat)
  | contrib (reg round : Nat)
  | deliver (reg round : Nat)
  | copyUpd (line : Nat)
  | journal (n : Nat)
  | journalRead
  | joinAsked
  | mapAsked
  | collect (pos : Nat)
  | rebuild (k : Nat) (lpa : Nat)
  | moveLine (k : Nat)
  | snoop
deriving DecidableEq, Repr, Inhabited

/-- An outstanding request of this module (R216, R219). `frags` are the response fragments that have arrived. -/
structure Out where
  num : Nat := 0
  f : Frame := {}
  issuer : Issuer := .snoop
  sentPt : Nat := 0
  tries : Nat := 0
  reissued : Bool := false
  followers : List Issuer := []
  frags : List (Nat × List Byte) := []
deriving DecidableEq, Repr, Inhabited

/-- One partner-leg request as fences see it (R219, R220): the device it counts against, and the fabric number issued for it
(R297). -/
structure Leg where
  seq : BitVec 32 := 0
  tag : Nat := 0
  dev : Option Nat := none
  fseq : Option (BitVec 32) := none
  ended : Bool := false
  failed : Bool := false
deriving DecidableEq, Repr, Inhabited

/-- An assembly buffer (R218). -/
structure Asm where
  key : Nat × Nat × Nat × BitVec 32 := (0, 0, 0, 0)
  r : Req := {}
  frags : List (Nat × List Byte) := []
  sincePt : Nat := 0
deriving DecidableEq, Repr, Inhabited

/-- A partner FENCE that waits (R220). `missing` are numbers that have been missing for 450 µs. -/
structure Fence where
  r : Req := {}
  ctx : Nat := 0
  seq : BitVec 32 := 0
  sincePt : Nat := 0
  missing : List (BitVec 32) := []
deriving DecidableEq, Repr, Inhabited

/-- The transport (R198 to R226). `dropped` are keys of assembly buffers freed after a fragment was accepted (R218).
`reissue` holds requests answered by a mismatch (R263): still to be translated again, or (true) sent once more. -/
structure Net where
  pwin : Tab (Option SeqWin) := []
  fwin : List FWin := []
  spaces : List Space := []
  outs : List Out := []
  nextOut : Nat := 0
  legs : Tab (List Leg) := []
  asms : List Asm := []
  dropped : List (Nat × Nat × Nat × BitVec 32) := []
  fences : List Fence := []
  epochs : Tab Nat := []
  held : List (Req × Nat) := []
  waitSync : List (Nat × Frame × Issuer) := []
  reissue : List (Frame × Issuer × Bool) := []
  discards : Tab Nat := []
deriving DecidableEq, Repr, Inhabited

/-! ## Links and Chimney -/

/-- A HELLO body (R206). -/
structure Hello where
  maxrev : Nat := 0
  role : Nat := 0
  dev : Nat := 0
  cell : Nat := 0
  pos : Nat := 0
  flue : Nat := 0
  link : Nat := 0
  fec : Bool := false
  maxpay : Nat := 64
  features : Nat := 0
  serial : Nat := 0
deriving DecidableEq, Repr, Inhabited

/-- A frame that leaves, with the service Flue's encapsulation: destination address and port, VLAN tag (R199). -/
structure OutFrame where
  f : Frame := {}
  ip : Nat := 0
  port : Nat := 0
  vlan : Option Nat := none
deriving DecidableEq, Repr, Inhabited

/-- A shaper (R250). Tokens count bits × 10,000 × 1,024, so that one Chimney cycle's gain is whole. -/
structure Shaper where
  rate : Nat := 0
  burst : Nat := 16384
  quantum : Nat := 8192
  tokens : Nat := 0
  lastCyc : Nat := 0
deriving DecidableEq, Repr, Inhabited

/-- A policer (R252): entry fields and buckets, in the unit of `Shaper`. -/
structure Policer where
  mode : Nat := 0
  aware : Bool := false
  cir : Nat := 0
  pir : Nat := 0
  cbs : Nat := 0
  ebs : Nat := 0
  tc : Nat := 0
  te : Nat := 0
  lastCyc : Nat := 0
deriving DecidableEq, Repr, Inhabited

/-- A link (R206, R228, R233, R248 to R252, R257, R418). `ctr` by the counter's place in the block of R257. -/
structure Link where
  up : Bool := false
  dozing : Bool := false
  hello : Option Hello := none
  refused : Bool := false
  helloSent : Option Nat := none
  q : Tab (List OutFrame) := []
  tx : Option (Nat × OutFrame) := none
  deficit : Tab Nat := []
  turn : Nat := 0
  shapers : Tab (Option Shaper) := []
  pols : Tab Policer := []
  ctr : Tab Nat := []
  wokePt : Option Nat := none
  lostPt : Option Nat := none
deriving DecidableEq, Repr, Inhabited

/-- All links by index, context policers, and what has left on each link, oldest first: frames, wake patterns and doze notices,
the last two with the Pilot count. -/
structure Links where
  tab : Tab Link := []
  polCtx : Tab Policer := []
  wire : List (Nat × OutFrame) := []
  patterns : List (Nat × Nat) := []
  dozes : List (Nat × Nat) := []
deriving DecidableEq, Repr, Inhabited

/-- The time gates of a Flue (R253, R254): list of (GATES, INTERVAL), entry in force and the cycle at which it began. -/
structure Gates where
  list : List (Nat × Nat) := []
  cur : Nat := 0
  curCyc : Nat := 0
  next : Option (Nat × List (Nat × Nat)) := none
deriving DecidableEq, Repr, Inhabited

/-- One contribution that a node has absorbed (R240, R243): of Hearth h (`child` false) or of a child device. Lanes are
96-bit extended partials of a Fine sum, binary32 codes otherwise; a top-k list is its bytes. -/
structure Part where
  child : Bool := false
  who : Nat := 0
  chunk : Nat := 0
  last : Bool := false
  opa : W64 := 0
  lanes : List Nat := []
  bytes : List Byte := []
deriving DecidableEq, Repr, Inhabited

/-- An open round of a node (R240). `delivered` are the chunks visible here. -/
structure Round where
  n : Nat := 0
  firstPt : Nat := 0
  parts : List Part := []
  combined : Bool := false
  delivered : List Nat := []
  lastChunk : Option Nat := none
deriving DecidableEq, Repr, Inhabited

/-- A registered group (R238 to R240). `local` counts each Hearth's contributions; `addrs` the physical addresses of
the descriptor, delivery slots and ready word pages on this module. -/
structure Reg where
  job : Nat := 0
  gid : Nat := 0
  ctx : Nat := 0
  desc : BitVec 512 := 0
  lpa : Nat := 0
  children : List Nat := []
  first : Nat := 0
  given : Tab Nat := []
  rounds : List Round := []
  failed : List Nat := []
  doneUpTo : Nat := 0
  idlePt : Nat := 0
deriving DecidableEq, Repr, Inhabited

/-- The Chimney (R230, R238, R253). Default of the route tables is an entry with no valid path. -/
structure Chim where
  cellTab : Tab (BitVec 32) := []
  posTab : Tab (BitVec 32) := []
  gates : Tab Gates := []
  regs : List Reg := []
deriving DecidableEq, Repr, Inhabited

/-! ## Translation, extents, cell -/

/-- A leaf of the translation cache (R268): page size as its log2, virtual page number, MPA of the page, the leaf's
permission bits and PBMT, A and D seen. -/
structure Leaf where
  job : Nat := 0
  lg : Nat := 12
  vpn : Nat := 0
  page : Nat := 0
  r : Bool := false
  w : Bool := false
  x : Bool := false
  u : Bool := false
  pbmt : Nat := 0
  a : Bool := false
  d : Bool := false
deriving DecidableEq, Repr, Inhabited

/-- A non-leaf entry of the translation cache (R268). -/
structure NonLeaf where
  job : Nat := 0
  level : Nat := 0
  prefx : Nat := 0
  ppn : Nat := 0
deriving DecidableEq, Repr, Inhabited

/-- The access a translation is for (R264, R271): 0 read, 1 write, 2 atomic, 3 code read. -/
abbrev Access := Nat

/-- Who waits for a walk: a partner request, or a Stove thread or item that will try again. -/
inductive Waiter where
  | req (r : Req)
  | item (i : ItemId) (stove ctx : Nat)
deriving DecidableEq, Repr, Inhabited

/-- An access that waits for its translation (R268, R272, R273). -/
structure Waiting where
  who : Waiter := .item 0 0 0
  job : Nat := 0
  jva : Nat := 0
  acc : Access := 0
  since : Nat := 0
deriving DecidableEq, Repr, Inhabited

/-- A walker (R268): `line` is what a remote table read answered, `asked` that it was sent, `update` an A or D update
under way with the entry it expects (R267), `held` a fault that finds no queue entry (R273: cause, level, entry), `stale`
that an INVAL came (R274). -/
structure Walk where
  num : Nat := 0
  job : Nat := 0
  jva : Nat := 0
  acc : Access := 0
  level : Nat := 0
  table : Nat := 0
  waiters : List Waiting := []
  line : Option (Nat × List Byte) := none
  asked : Bool := false
  update : Option Nat := none
  held : Option (Nat × Nat × Nat) := none
  stale : Bool := false
deriving DecidableEq, Repr, Inhabited

/-- A raised fault (R271, R272): where its record stands once written, and the partner's answer. -/
structure PFault where
  id : Nat := 0
  job : Nat := 0
  page : Nat := 0
  cause : Nat := 0
  level : Nat := 0
  accs : Nat := 0
  pte : Nat := 0
  raisedPt : Nat := 0
  waiters : List Waiting := []
  recLpa : Option Nat := none
  answer : Option Bool := none
deriving DecidableEq, Repr, Inhabited

/-- A job's fault ring as translated (R270): LPA of each record, next index. -/
structure Ring where
  lpas : List Nat := []
  next : Nat := 0
deriving DecidableEq, Repr, Inhabited

/-- Translation (R258 to R280). `parked` are requests that wait for a table line or a home line, by its MPA, for what any
command may bring (2^63), or for a change record (2^64); `jobs` by entry; `ctr` by the counter's place in R279. -/
structure Trn where
  jobs : Tab (BitVec 512) := []
  leaves : List Leaf := []
  nonleaves : List NonLeaf := []
  walks : List Walk := []
  nextWalk : Nat := 0
  parked : List (Req × Nat) := []
  waiting : List Waiting := []
  tableLines : List (Nat × List Byte) := []
  faults : List PFault := []
  nextFault : Nat := 1
  rings : Tab (Option Ring) := []
  inval : List (Req × Nat × Nat × Bool) := []
  ctr : Tab Nat := []
deriving DecidableEq, Repr, Inhabited

/-- An extent table entry (R309, R310). `term` is the lease's granted term; 1 marks a copy or journal slot (R340, R350). -/
structure Ext where
  state : Nat := 0
  dense : Bool := false
  prot : Nat := 0
  vpool : Bool := false
  rowgrp : Nat := 0
  pos : Nat := 0
  job : Nat := 0
  leaseNo : Nat := 0
  leaseEnd : Nat := 0
  holderDev : Nat := 0
  holderCtx : Nat := 0
  admitted : Nat := 0
  gen : Nat := 0
  term : Nat := 0
deriving DecidableEq, Repr, Inhabited

/-- A snapshot lease (R329): view key of job, entry module, context. -/
structure SLease where
  no : Nat := 0
  job : Nat := 0
  dev : Nat := 0
  ctx : Nat := 0
  region : Nat := 0
  version : Nat := 0
  endPt : Nat := 0
  term : Nat := 0
deriving DecidableEq, Repr, Inhabited

/-- A live version of a region (R324, R327): its number and the LPA of its version block, none while it shares the
working copy's storage; `lost` after a takeover (R333). -/
structure Version where
  num : Nat := 0
  block : Option Nat := none
  lost : Bool := false
deriving DecidableEq, Repr, Inhabited

/-- A snapshot region (R322 to R332), keyed by the number of its 2 MiB of LPA. -/
structure Region where
  job : Nat := 0
  exported : Bool := false
  current : Nat := 1
  versions : List Version := []
  destroying : Bool := false
  copying : Option Nat := none
  waiters : List Req := []
deriving DecidableEq, Repr, Inhabited

/-- Extents, leases and snapshots (R309 to R334). `tab` by 512 × Hearth + slot; `rowModes` by 48 × Hearth + group:
0 unassigned, 1 Fine, 2 Dense; `zeroing` holds, by extent, the job that it will be assigned to (0 none). -/
structure Exts where
  tab : Tab Ext := []
  rowModes : Tab Nat := []
  fwd : Tab (Option (Nat × Nat)) := []
  snaps : List SLease := []
  nextLease : Nat := 1
  min : Nat := 10240
  dflt : Nat := 1024000
  max : Nat := 614400000
  regions : Tab (Option Region) := []
  zeroing : Tab (Option (Nat × Nat)) := []
  ctr : Tab Nat := []
deriving DecidableEq, Repr, Inhabited

/-- The leader's proposal (R342). -/
structure Prop342 where
  map : PMap := {}
  accepts : List Nat := []
  sentPt : Nat := 0
  tries : Nat := 1
  subject : Nat := 0x3F
deriving DecidableEq, Repr, Inhabited

/-- A neighbour as this member probes it (R347). -/
structure Nbr where
  misses : Nat := 0
  outstanding : Option Nat := none
  lastAck : Nat := 0
deriving DecidableEq, Repr, Inhabited

/-- The cell (R335 to R356). `accepted` is the proposal accepted and not committed, with its proposer; `acting` says that this
member acts as leader after suspicion of the leader, `collecting` who has not yet answered COLLECT, `collect` what came.
`ward` holds the entries of other members' journals kept here, by entry number; `journaled` is what this member's own journal
holds, `journalSent` the entries sent, `journalWait` the answers that wait for them (R350). `readImage` is what a spare has read
of its ward's journal so far, `restored` the whole. `moves` are the changes to move entries asked for and not yet committed, `sent`
the extents all of whose lines have gone to where they move, `incoming` the job of an extent that moves here plus 1 (R353),
`spareGone` that the spare did not answer. `ctr` by place in R356. -/
structure Cell where
  map : PMap := {}
  accepted : Option (Nat × PMap) := none
  prop : Option Prop342 := none
  acting : Bool := false
  collecting : List Nat := []
  collect : List (Nat × PMap) := []
  nbrs : Tab Nbr := []
  reports : Tab (List Nat) := []
  joins : Tab Nat := []
  updWin : Tab (Option SeqWin) := []
  updNext : Tab Nat := []
  ward : Tab (List Byte) := []
  journalOk : Bool := true
  journaled : Tab (List Byte) := []
  journalSent : Nat := 0
  journalWait : List (Req × Answer × Nat) := []
  readImage : Tab (List Byte) := []
  restored : Option (Tab (List Byte)) := none
  units : List Nat := []
  freshLines : List Nat := []
  moves : List Move := []
  sent : List Nat := []
  incoming : Tab Nat := []
  commitPt : Option Nat := none
  served : Bool := false
  spareGone : Bool := false
  ctr : Tab Nat := []
deriving DecidableEq, Repr, Inhabited

/-! ## The whole -/

/-- The state of the module. `draws` numbers the free values used; `pending` is the queue of commands. -/
structure State where
  clk : Clk := {}
  pins : Pins := {}
  boot : Boot := {}
  cfg : Cfg := {}
  fuse : Fuse := {}
  auth : Auth := {}
  ash : Ash := {}
  hlth : Hlth := {}
  mtr : Mtr := {}
  pwr : Pwr := {}
  mem : Mem := {}
  sites : Sites := {}
  t0 : T0 := {}
  home : Homes := {}
  ctx : Tab Ctx := []
  sched : Tab Sched := []
  stv : Stv := {}
  net : Net := {}
  links : Links := {}
  chim : Chim := {}
  trn : Trn := {}
  ext : Exts := {}
  cell : Cell := {}
  draws : Nat := 0
  pending : List Instr := []
deriving DecidableEq, Repr

/-- The module right after reset: a die whose auxiliary rail has not yet risen, every field at the initial value the
spec gives or, where it gives none, the value that log 3 names. The rows of bring-up lead from it to Ready (log 9). -/
def State.reset : State := {}

end Sys2Proof.Machine
end

