-- ==== Sys2Proof/Machine/Num.lean ====
section
/-! DEFINITION. Numbers: the storage formats and their packing (R63 to R68), conversion (R70 to R75), long accumulators
(R77 to R80) and binary32 (R83). Values are exact: a magnitude times a power of two. -/

namespace Sys2Proof.Machine

/-- The class of a value. -/
inductive VKind where
  | fin | inf | nan
deriving DecidableEq, Repr, Inhabited

/-- A value: finite `man` × 2^`exp` with its sign, an infinity, or NaN. -/
structure Val where
  kind : VKind := .fin
  neg : Bool := false
  man : Nat := 0
  exp : Int := 0
deriving DecidableEq, Repr, Inhabited

/-- NaN. -/
def vNan : Val := { kind := .nan }

/-- An infinity. -/
def vInf (neg : Bool) : Val := { kind := .inf, neg := neg }

/-- Two to a non-negative integer power; 1 for a negative one. -/
def pow2i (e : Int) : Nat := 2 ^ e.toNat

/-- Bits of a natural number. -/
def bitLen (n : Nat) : Nat := if n = 0 then 0 else n.log2 + 1

/-- The value's finite magnitude is zero. -/
def vZero (v : Val) : Bool := v.kind = .fin && v.man = 0

/-- The signed integer `man` of a value at the exponent `e`, at most its own. -/
def signedAt (v : Val) (e : Int) : Int :=
  let m : Int := ((v.man * pow2i (v.exp - e) : Nat) : Int)
  if v.neg then -m else m

/-- The value of an integer times a power of two. -/
def vOfInt (i : Int) (e : Int) : Val := { neg := i < 0, man := i.natAbs, exp := e }

/-- The exact sum of two finite values; an exact zero of unlike signs is +0. -/
def vAddFin (a b : Val) : Val :=
  let e := min a.exp b.exp
  let i := signedAt a e + signedAt b e
  if i = 0 then { neg := a.neg && b.neg, exp := e } else vOfInt i e

/-- The sum (R74, R79). -/
def vAdd (a b : Val) : Val :=
  match a.kind, b.kind with
  | .nan, _ => vNan
  | _, .nan => vNan
  | .inf, .inf => if a.neg = b.neg then a else vNan
  | .inf, .fin => a
  | .fin, .inf => b
  | .fin, .fin => vAddFin a b

/-- The value with its sign turned. -/
def vNeg (a : Val) : Val := { a with neg := !a.neg }

/-- The exact product (R79). -/
def vMul (a b : Val) : Val :=
  let n := a.neg != b.neg
  if a.kind = .nan || b.kind = .nan then vNan
  else if a.kind = .inf || b.kind = .inf then (if vZero a || vZero b then vNan else vInf n)
  else { neg := n, man := a.man * b.man, exp := a.exp + b.exp }

/-- Order of two values that are not NaN: a is less than b. Zeros are equal. -/
def vLt (a b : Val) : Bool :=
  match a.kind, b.kind with
  | .nan, _ => false
  | _, .nan => false
  | .inf, .inf => a.neg && !b.neg
  | .inf, .fin => a.neg
  | .fin, .inf => !b.neg
  | .fin, .fin => let e := min a.exp b.exp; signedAt a e < signedAt b e

/-- Equality of two values; NaN equals nothing. -/
def vEq (a b : Val) : Bool := a.kind ≠ .nan && b.kind ≠ .nan && !vLt a b && !vLt b a

/-- The exact quotient, closed by a sticky bit 400 places down, so that every later rounding sees which side it lies on. -/
def vDiv (a b : Val) : Val :=
  let n := a.neg != b.neg
  if a.kind = .nan || b.kind = .nan || (a.kind = .inf && b.kind = .inf) || (vZero a && vZero b) then vNan
  else if a.kind = .inf || vZero b then vInf n
  else if b.kind = .inf then { neg := n }
  else
    let q := a.man * 2 ^ 400 / b.man
    let r := a.man * 2 ^ 400 % b.man
    { neg := n, man := 2 * q + (if r = 0 then 0 else 1), exp := a.exp - b.exp - 401 }

/-- The square root of a value that is not negative, closed by a sticky bit. -/
def vSqrt (a : Val) : Val :=
  if a.kind = .nan || (a.neg && !vZero a) then vNan
  else if a.kind = .inf then a
  else
    let e2 := if a.exp % 2 = 0 then a.exp else a.exp - 1
    let m := (if a.exp % 2 = 0 then a.man else 2 * a.man) * 2 ^ 600
    let r := m.sqrt
    { neg := a.neg, man := 2 * r + (if r * r = m then 0 else 1), exp := (e2 - 600) / 2 - 1 }

/-! ## Rounding -/

/-- Rounding controls of a CVT field (R70): RND 0 nearest-even, 1 stochastic, 2 toward zero. -/
def cvtRnd (c : Nat) : Nat := c % 4
def cvtSat (c : Nat) : Bool := tbit c 2

/-- A CVT field with a reserved encoding (R70). -/
def cvtBad (c : Nat) : Bool := c % 4 = 3 || tbit c 3

/-- The magnitude `man` × 2^`exp` in units of 2^`ulp`, rounded; `u` is the random draw (R71, R72). -/
def roundMag (man : Nat) (exp ulp : Int) (rnd u : Nat) : Nat :=
  if ulp ≤ exp then man * pow2i (exp - ulp)
  else
    let d := pow2i (ulp - exp)
    let m := man / d
    let rem := man % d
    let up :=
      if rnd = 0 then d < 2 * rem || (2 * rem = d && m % 2 = 1)
      else if rnd = 1 then u < rem * 65536 / d
      else false
    if up then m + 1 else m

/-- Rounding of a magnitude to `p` significant bits, nearest-even: magnitude and exponent (R78, R80). -/
def roundSig (p : Nat) (man : Nat) (exp : Int) : Nat × Int :=
  let n := bitLen man
  if n ≤ p then (man, exp)
  else
    let ulp := exp + (n - p : Nat)
    (roundMag man exp ulp 0 0, ulp)

/-- A floating format: exponent bits, mantissa bits, bias, largest finite code of the magnitude, the code of infinity (none
where it has none), canonical NaN. -/
structure FSpec where
  e : Nat := 8
  m : Nat := 23
  bias : Nat := 127
  maxCode : Nat := 0x7F7FFFFF
  infCode : Option Nat := some 0x7F800000
  nanCode : Option Nat := some 0x7FC00000
deriving DecidableEq, Repr

/-- The floating element formats (R63, R74). -/
def fspec : Nat → FSpec
  | 0 => {}
  | 1 => { e := 5, m := 10, bias := 15, maxCode := 0x7BFF, infCode := some 0x7C00, nanCode := some 0x7E00 }
  | 2 => { e := 8, m := 7, bias := 127, maxCode := 0x7F7F, infCode := some 0x7F80, nanCode := some 0x7FC0 }
  | 3 => { e := 4, m := 3, bias := 7, maxCode := 0x7E, infCode := none, nanCode := some 0x7F }
  | 4 => { e := 5, m := 2, bias := 15, maxCode := 0x7B, infCode := some 0x7C, nanCode := some 0x7E }
  | 5 => { e := 3, m := 2, bias := 3, maxCode := 0x1F, infCode := none, nanCode := none }
  | _ => { e := 2, m := 1, bias := 1, maxCode := 7, infCode := none, nanCode := none }

/-- The value of a code of a floating format (R63). -/
def fDecode (f : FSpec) (code : Nat) : Val :=
  let neg := tbit code (f.e + f.m)
  let mag := code % 2 ^ (f.e + f.m)
  if f.infCode = some mag then vInf neg
  else if f.maxCode < mag then vNan
  else
    let ex := mag / 2 ^ f.m
    let mn := mag % 2 ^ f.m
    if ex = 0 then { neg := neg, man := mn, exp := 1 - (f.bias : Int) - f.m }
    else { neg := neg, man := 2 ^ f.m + mn, exp := (ex : Int) - f.bias - f.m }

/-- The sign bit of a code. -/
def signCode (f : FSpec) (neg : Bool) : Nat := if neg then 2 ^ (f.e + f.m) else 0

/-- The code of the magnitude `m` × 2^`ulp` in a format whose finest spacing holds it. -/
def magCode (f : FSpec) (m : Nat) (ulp : Int) : Nat :=
  let m1 := if 2 ^ (f.m + 1) ≤ m then m / 2 else m
  let u1 := if 2 ^ (f.m + 1) ≤ m then ulp + 1 else ulp
  if m1 < 2 ^ f.m then m1 else (u1 + f.m + f.bias).toNat * 2 ^ f.m + (m1 - 2 ^ f.m)

/-- The result of an overflow or of an infinite value (R73). -/
def overflowCode (f : FSpec) (sat : Bool) : Nat :=
  if sat then f.maxCode else match f.infCode, f.nanCode with
    | some i, _ => i
    | none, some n => n
    | none, none => f.maxCode

/-- The code of a finite magnitude, rounded (R71 to R73). -/
def finCode (f : FSpec) (rnd : Nat) (sat : Bool) (u man : Nat) (exp : Int) : Nat :=
  if man = 0 then 0
  else
    let e := exp + (bitLen man : Int) - 1
    let ulp := max e (1 - (f.bias : Int)) - f.m
    let code := magCode f (roundMag man exp ulp rnd u) ulp
    let big := fDecode f f.maxCode
    if rnd = 2 then min code f.maxCode
    else if rnd = 1 && vLt big { man := man, exp := exp } then overflowCode f sat
    else if f.maxCode < code then overflowCode f sat else code

/-- The code of a value in a floating format under CVT controls, with a random draw (R70 to R74). -/
def fEncode (f : FSpec) (rnd : Nat) (sat : Bool) (u : Nat) (v : Val) : Nat :=
  match v.kind with
  | .nan => f.nanCode.getD 0
  | .inf =>
    let c := overflowCode f sat
    if !sat && f.infCode.isNone then c else signCode f v.neg + c
  | .fin =>
    let c := finCode f rnd sat u v.man v.exp
    if !sat && f.infCode.isNone && f.nanCode = some c then c else signCode f v.neg + c

/-- The binary32 code of a value, nearest-even. -/
def b32Of (v : Val) : BitVec 32 := BitVec.ofNat 32 (fEncode (fspec 0) 0 false 0 v)

/-- The value of a binary32 code. -/
def b32Val (c : BitVec 32) : Val := fDecode (fspec 0) c.toNat

/-- Binary32 sum, nearest-even (R83). -/
def b32Add (a b : BitVec 32) : BitVec 32 := b32Of (vAdd (b32Val a) (b32Val b))

/-- Binary32 product, nearest-even. -/
def b32Mul (a b : BitVec 32) : BitVec 32 := b32Of (vMul (b32Val a) (b32Val b))

/-- Binary32 maximum or minimum, compared exactly; NaN gives NaN (R74, R244). -/
def b32Max (a b : BitVec 32) : BitVec 32 :=
  if (b32Val a).kind = .nan || (b32Val b).kind = .nan then 0x7FC00000 else if vLt (b32Val a) (b32Val b) then b else a
def b32Min (a b : BitVec 32) : BitVec 32 :=
  if (b32Val a).kind = .nan || (b32Val b).kind = .nan then 0x7FC00000 else if vLt (b32Val b) (b32Val a) then b else a

/-! ## Elements of a tile -/

/-- Bits of an element (R63). -/
def elemBits : Nat → Nat
  | 0 => 32 | 1 => 16 | 2 => 16 | 3 => 8 | 4 => 8 | 5 => 6 | 6 => 4 | 7 => 8 | 8 => 8 | _ => 4

/-- Data rows of a tile (R67). -/
def dataRows : Nat → Nat
  | 5 => 60 | 6 => 60 | 7 => 62 | 8 => 63 | 9 => 56 | _ => 64

/-- Elements of a tile (R67). -/
def tileElems : Nat → Nat
  | 0 => 4096 | 1 => 8192 | 2 => 8192 | 3 => 16384 | 4 => 16384 | 5 => 20480 | 6 => 30720 | 7 => 15872 | 8 => 16128
  | _ => 28672

/-- The format is one of the ten (R63, R64). -/
def fmtOk (f : Nat) : Bool := f ≤ 9

/-- The value of an element code before scaling (R63). -/
def elemVal (f code : Nat) : Val :=
  if f = 7 then vOfInt (sgn 8 code) (-6)
  else if f = 8 then vOfInt (sgn 8 code) 0
  else if f = 9 then vOfInt (sgn 4 code) 0
  else fDecode (fspec f) code

/-- An E8M0 scale (R66). -/
def e8m0 (c : Nat) : Val := if c = 255 then vNan else { man := 1, exp := (c : Int) - 127 }

/-- The INT8 tile scale: a subnormal reads as zero, an infinity or NaN makes NaN (R66). -/
def int8Scale (c : Nat) : Val :=
  let v := fDecode (fspec 0) c
  if v.kind ≠ .fin then vNan else if fld c 23 8 = 0 then { neg := v.neg } else v

/-- The INT4 group scale (R66). -/
def int4Scale (c : Nat) : Val :=
  let v := fDecode (fspec 1) c
  if v.kind ≠ .fin then vNan else v

/-- The code of element `e` in bytes read by `get`, from the byte where the data area starts (R68). -/
def elemCode (get : Nat → Byte) (f e : Nat) : Nat :=
  let b := elemBits f
  if b = 6 then fld ((get (6 * e / 8)).toNat + 256 * (get (6 * e / 8 + 1)).toNat) (6 * e % 8) 6
  else if b = 4 then fld (get (e / 2)).toNat (4 * (e % 2)) 4
  else leNat (upTo (b / 8) fun k => get (b / 8 * e + k))

/-- The scale of element `e` of a tile; 1 in the formats without scales (R66 to R68). -/
def elemScale (get : Nat → Byte) (f e : Nat) : Val :=
  let side := 256 * dataRows f
  if f = 5 || f = 6 || f = 7 then e8m0 (get (side + e / 32)).toNat
  else if f = 8 then int8Scale (leNat (upTo 4 fun k => get (side + k)))
  else if f = 9 then int4Scale (leNat (upTo 2 fun k => get (side + 2 * (e / 32) + k)))
  else { man := 1 }

/-- The value of element `e` of a tile (R63 to R68). -/
def tileElem (get : Nat → Byte) (f e : Nat) : Val := vMul (elemVal f (elemCode get f e)) (elemScale get f e)

/-! ## Encoding blocks (R75) -/

/-- The largest binary32 as a value, by which SAT replaces infinities (R73). -/
def maxB32 (neg : Bool) : Val := { neg := neg, man := 2 ^ 24 - 1, exp := 104 }

/-- The values with infinities replaced where SAT says so (R73). -/
def satIn (sat : Bool) (v : Val) : Val := if sat && v.kind = .inf then maxB32 v.neg else v

/-- Largest magnitude of a list of finite values. -/
def amaxOf (vs : List Val) : Val :=
  vs.foldl (fun m v => if vLt m { v with neg := false } then { v with neg := false } else m) ({} : Val)

/-- floor(log2) of a positive value. -/
def floorLog2 (v : Val) : Int := v.exp + (bitLen v.man : Int) - 1

/-- An integer code of `w` bits: the value rounded to an integer, clamped to ± `lim`. -/
def intCode (w lim rnd u : Nat) (v : Val) : Nat :=
  let m := min lim (roundMag v.man v.exp 0 rnd u)
  toTwos w (if v.neg then -(m : Int) else m)

/-- One value divided by the block's scale, as an element code of an MX format (R75 steps 3 and 4). -/
def mxElem (f rnd u : Nat) (x : Int) (v : Val) : Nat :=
  let q : Val := { v with exp := v.exp - x }
  if f = 7 then intCode 8 127 rnd u { q with exp := q.exp + 6 }
  else fEncode (fspec f) rnd true u q

/-- An MX block: scale code and element codes (R73 to R75). `u` gives the draw of each element. -/
def mxBlock (f rnd : Nat) (sat : Bool) (u : Nat → Nat) (vs : List Val) : Nat × List Nat :=
  let ws := vs.map (satIn sat)
  if ws.any fun v => v.kind ≠ .fin then (255, ws.map fun _ => 0)
  else
    let am := amaxOf ws
    if am.man = 0 then (0, ws.map fun _ => 0)
    else
      let emax : Int := if f = 5 then 4 else if f = 6 then 2 else 0
      let x := max (-127) (min 127 (floorLog2 am - emax))
      ((x + 127).toNat, (List.zip (List.range ws.length) ws).map fun p => mxElem f rnd (u p.1) x p.2)

/-- An INT8 tile's elements under a scale, or an INT4 group's: codes of the rounded quotients (R75). -/
def intElems (w lim rnd : Nat) (u : Nat → Nat) (scale : Val) (vs : List Val) : List Nat :=
  (List.zip (List.range vs.length) vs).map fun p =>
    if vZero scale then 0 else intCode w lim rnd (u p.1) (vDiv p.2 scale)

/-- The scale code of an INT8 tile or INT4 group (R74, R75): NaN, or amax / 127 in binary32, amax / 7 in binary16. -/
def intScaleCode (f : Nat) (ws : List Val) : Nat :=
  if f = 8 then
    if ws.any fun v => v.kind ≠ .fin then 0x7FC00000
    else fEncode (fspec 0) 0 false 0 (vDiv (amaxOf ws) { man := 127 })
  else
    if ws.any fun v => v.kind ≠ .fin then 0x7E00
    else fEncode (fspec 1) 0 true 0 (vDiv (amaxOf ws) { man := 7 })

/-- The codes of values in an unscaled format. -/
def plainElems (f rnd : Nat) (sat : Bool) (u : Nat → Nat) (vs : List Val) : List Nat :=
  (List.zip (List.range vs.length) vs).map fun p => fEncode (fspec f) rnd sat (u p.1) p.2

/-- Codes of `b` bits packed as one little-endian bit string (R68). -/
def packCodes (b : Nat) (cs : List Nat) : Nat := cs.foldr (fun c a => c % 2 ^ b + 2 ^ b * a) 0

/-- A whole tile in format `f` from the values of its elements (R67, R68, R75); reserved bytes are zero. -/
def encodeTile (f rnd : Nat) (sat : Bool) (u : Nat → Nat) (vs : List Val) : List Byte :=
  let b := elemBits f
  let n := tileElems f
  let vs := vs.take n ++ List.replicate (n - vs.length) ({} : Val)
  let dataLen := 256 * dataRows f
  let body := fun (codes : List Nat) => natLe dataLen (packCodes b codes)
  let pad := fun (bs : List Byte) => bs ++ List.replicate (16384 - bs.length) 0
  if f = 5 || f = 6 || f = 7 then
    let blocks := (List.zip (List.range (n / 32)) (chunks 32 (n / 32) vs)).map fun p =>
      mxBlock f rnd sat (fun i => u (32 * p.1 + i)) p.2
    pad (body (blocks.flatMap Prod.snd) ++ blocks.map fun x => BitVec.ofNat 8 x.1)
  else if f = 8 then
    let ws := vs.map (satIn sat)
    let sc := intScaleCode 8 ws
    let codes := if ws.any fun v => v.kind ≠ .fin then ws.map fun _ => 0 else intElems 8 127 rnd u (int8Scale sc) ws
    pad (body codes ++ natLe 4 sc)
  else if f = 9 then
    let groups := (List.zip (List.range (n / 32)) (chunks 32 (n / 32) vs)).map fun p =>
      let ws := p.2.map (satIn sat)
      let sc := intScaleCode 9 ws
      (sc, if ws.any fun v => v.kind ≠ .fin then ws.map fun _ => 0
           else intElems 4 7 rnd (fun i => u (32 * p.1 + i)) (int4Scale sc) ws)
    pad (body (groups.flatMap Prod.snd) ++ groups.flatMap fun x => natLe 2 x.1)
  else pad (body (plainElems f rnd sat u vs))

/-! ## Long accumulators (R77 to R80) -/

/-- The lane's value with its flags (R79). -/
def laneVal (l : Lane) : Val :=
  if l.nan || (l.pinf && l.ninf) then vNan
  else if l.pinf then vInf false
  else if l.ninf then vInf true
  else vOfInt l.man l.exp

/-- A value added to a lane: exactly, or with rounding at 128 significant bits where an input is binary32 (R77, R78). -/
def laneAdd (wide : Bool) (l : Lane) (v : Val) (n : Nat) : Lane :=
  match v.kind with
  | .nan => { l with nan := true, n := l.n + n }
  | .inf => if v.neg then { l with ninf := true, nan := l.nan || l.pinf, n := l.n + n }
            else { l with pinf := true, nan := l.nan || l.ninf, n := l.n + n }
  | .fin =>
    let e := min l.exp v.exp
    let sum := l.man * ((pow2i (l.exp - e) : Nat) : Int) + signedAt v e
    if wide then
      let (m, e') := roundSig 128 sum.natAbs e
      { l with man := if sum < 0 then -(m : Int) else m, exp := e', n := l.n + n }
    else { l with man := sum, exp := e, n := l.n + n }

/-- The 96-bit extended partial of a value (R80). -/
def extPartial (v : Val) : Nat :=
  match v.kind with
  | .nan => 0x7FFF * 2 ^ 80 + 2 ^ 79
  | .inf => (if v.neg then 2 ^ 95 else 0) + 0x7FFF * 2 ^ 80
  | .fin =>
    if v.man = 0 then (if v.neg then 2 ^ 95 else 0)
    else
      let (m, e) := roundSig 80 v.man v.exp
      let sh := 80 - bitLen m
      let (m', e') := if bitLen m ≤ 80 then (m * 2 ^ sh, e - sh) else (m / 2, e + 1)
      (if v.neg then 2 ^ 95 else 0) + (e' + 79 + 16383).toNat * 2 ^ 80 + m'

/-- The value of an extended partial (R80). -/
def extVal (x : Nat) : Val :=
  let neg := tbit x 95
  let e := fld x 80 15
  let m := fld x 0 80
  if e = 0x7FFF then (if m = 0 then vInf neg else vNan)
  else if m = 0 then { neg := neg }
  else { neg := neg, man := m, exp := (e : Int) - 16383 - 79 }

/-- An extended partial that is never produced: EXP zero with SIG non-zero (R80). -/
def extBad (x : Nat) : Bool := fld x 80 15 = 0 && fld x 0 80 ≠ 0

/-- The sum of two extended partials, rounded at 80 bits (R82, R244). -/
def extAdd (x y : Nat) : Nat := extPartial (vAdd (extVal x) (extVal y))

/-- The k-th draw from number `d` on (R72). -/
def drawU (d k : Nat) : Nat := (Config.entropy (d + k)).toNat

end Sys2Proof.Machine
end

