-- ==== Sys2Proof/Machine/Flags.lean ====
section
/-! DEFINITION. What atomics and compares compute (R114, R204): the block has no flag register; its predicates and
statuses are computed here and in `Operands`. -/

namespace Sys2Proof.Machine

/-- Bytes of an access of size W (R114). -/
def widthBytes (w : Nat) : Nat := 2 ^ w

/-- The AOP and W of an atomic agree (R204): 0x00 to 0x09 take 4 or 8 bytes, 0x0A 4, 0x0B one byte under W 0. -/
def atomicOk (aop w : Nat) : Bool :=
  if aop ≤ 9 then w = 2 || w = 3 else if aop = 0xA then w = 2 else aop = 0xB && w = 0

/-- Bytes that an atomic reads and writes. -/
def atomicBytes (aop w : Nat) : Nat := if aop = 0xB then 1 else widthBytes w

/-- The value an atomic leaves: `old` and `op` are numbers of its width, `new` the new value of a compare-and-swap, whose
expected value is `op` (R114, R204). -/
def atomicNew (aop w old op new : Nat) : Nat :=
  let n := 8 * atomicBytes aop w
  let m := 2 ^ n
  let op := op % m
  match aop with
  | 0 => (old + op) % m
  | 1 => Nat.land old op
  | 2 => Nat.lor old op
  | 3 => Nat.xor old op
  | 4 => min old op
  | 5 => max old op
  | 6 => if sgn n old ≤ sgn n op then old else op
  | 7 => if sgn n old ≤ sgn n op then op else old
  | 8 => op
  | 9 => if old = op then new % m else old
  | 0xA => (b32Add (BitVec.ofNat 32 old) (BitVec.ofNat 32 op)).toNat
  | _ => if old = op then new % m else old

/-- The scalar compares of class 0x5, OPC 0x00 to 0x05 (R114). -/
def compareOp (opc : Nat) (a b : W64) : Bool :=
  match opc with
  | 0 => a == b
  | 1 => a != b
  | 2 => a.ult b
  | 3 => a.slt b
  | 4 => b.ule a
  | _ => b.sle a

/-- Predicate logic of class 0x5, OPC 0x07 to 0x0A (R114). -/
def predOp (opc : Nat) (a b : Bool) : Bool :=
  match opc with
  | 7 => a && b
  | 8 => a || b
  | 9 => a != b
  | _ => !a

/-- The status that a work item ends with sets the flag DONE: OK, DEGRADED, SHORT and the codes 0x80 to 0xBF of the
operators (R100, R134). -/
def isDoneStatus (st : Nat) : Bool := st = 0 || st = 0xC || st = 0xD || (0x80 ≤ st && st ≤ 0xBF)

end Sys2Proof.Machine
end

