-- ==== Sys2Proof/Machine/Crc.lean ====
section
/-! DEFINITION. CRC-32C, SHA-256 and RSASSA-PSS verification, which records, images and change records name
(R367, R369, R393, R429). The algorithms are those of their published standards. -/

namespace Sys2Proof.Machine

/-- One bit of the reflected CRC-32C, polynomial 0x1EDC6F41. -/
def crcBit (c : Nat) : Nat := if c % 2 = 1 then Nat.xor (c / 2) 0x82F63B78 else c / 2

/-- One byte of CRC-32C. -/
def crcByte (c : Nat) (b : Byte) : Nat :=
  crcBit (crcBit (crcBit (crcBit (crcBit (crcBit (crcBit (crcBit (Nat.xor c b.toNat))))))))

/-- CRC-32C of a list of bytes. -/
def crc32c (bs : List Byte) : Nat := Nat.xor (bs.foldl crcByte 0xFFFFFFFF) 0xFFFFFFFF

/-- The round constants of SHA-256 (FIPS 180-4). -/
def shaK : List W32 :=
  [0x428a2f98, 0x71374491, 0xb5c0fbcf, 0xe9b5dba5, 0x3956c25b, 0x59f111f1, 0x923f82a4, 0xab1c5ed5,
   0xd807aa98, 0x12835b01, 0x243185be, 0x550c7dc3, 0x72be5d74, 0x80deb1fe, 0x9bdc06a7, 0xc19bf174,
   0xe49b69c1, 0xefbe4786, 0x0fc19dc6, 0x240ca1cc, 0x2de92c6f, 0x4a7484aa, 0x5cb0a9dc, 0x76f988da,
   0x983e5152, 0xa831c66d, 0xb00327c8, 0xbf597fc7, 0xc6e00bf3, 0xd5a79147, 0x06ca6351, 0x14292967] ++
  [0x27b70a85, 0x2e1b2138, 0x4d2c6dfc, 0x53380d13, 0x650a7354, 0x766a0abb, 0x81c2c92e, 0x92722c85,
   0xa2bfe8a1, 0xa81a664b, 0xc24b8b70, 0xc76c51a3, 0xd192e819, 0xd6990624, 0xf40e3585, 0x106aa070,
   0x19a4c116, 0x1e376c08, 0x2748774c, 0x34b0bcb5, 0x391c0cb3, 0x4ed8aa4a, 0x5b9cca4f, 0x682e6ff3,
   0x748f82ee, 0x78a5636f, 0x84c87814, 0x8cc70208, 0x90befffa, 0xa4506ceb, 0xbef9a3f7, 0xc67178f2]

/-- The initial hash value of SHA-256. -/
def shaInit : List W32 :=
  [0x6a09e667, 0xbb67ae85, 0x3c6ef372, 0xa54ff53a, 0x510e527f, 0x9b05688c, 0x1f83d9ab, 0x5be0cd19]

/-- One further word of the message schedule, the words so far being held newest first. -/
def shaExtend (ws : List W32) : List W32 :=
  let w15 := nth 0 ws 14; let w2 := nth 0 ws 1
  let s0 := w15.rotateRight 7 ^^^ w15.rotateRight 18 ^^^ (w15 >>> 3)
  let s1 := w2.rotateRight 17 ^^^ w2.rotateRight 19 ^^^ (w2 >>> 10)
  (nth 0 ws 15 + s0 + nth 0 ws 6 + s1) :: ws

/-- One round on the eight working words. -/
def shaRound (v : List W32) (kw : W32 × W32) : List W32 :=
  match v with
  | [a, b, c, d, e, f, g, h] =>
    let t1 := h + (e.rotateRight 6 ^^^ e.rotateRight 11 ^^^ e.rotateRight 25) + ((e &&& f) ^^^ (~~~e &&& g)) + kw.1 + kw.2
    let t2 := (a.rotateRight 2 ^^^ a.rotateRight 13 ^^^ a.rotateRight 22) + ((a &&& b) ^^^ (a &&& c) ^^^ (b &&& c))
    [t1 + t2, a, b, c, d + t1, e, f, g]
  | v => v

/-- One block of 64 bytes. -/
def shaBlock (h : List W32) (blk : List Byte) : List W32 :=
  let ws := ((chunks 4 16 blk).map fun c => BitVec.ofNat 32 (beNat c)).reverse
  let all := ((List.range 48).foldl (fun ws _ => shaExtend ws) ws).reverse
  List.zipWith (· + ·) h ((List.zip shaK all).foldl shaRound h)

/-- SHA-256, as 32 bytes in the order of the standard. -/
def sha256 (bs : List Byte) : List Byte :=
  let n := bs.length
  let padded := bs ++ [0x80] ++ List.replicate ((119 - n % 64) % 64) 0 ++ (natLe 8 (8 * n)).reverse
  ((chunks 64 (padded.length / 64) padded).foldl shaBlock shaInit).flatMap fun w => (natLe 4 w.toNat).reverse

/-- `b` to the power 65,537 modulo `m`. -/
def rsaPublic (m b : Nat) : Nat := ((List.range 16).foldl (fun x _ => x * x % m) (b % m)) * b % m

/-- MGF1 with SHA-256 (RFC 8017), `n` bytes. -/
def mgf1 (seed : List Byte) (n : Nat) : List Byte :=
  ((List.range ((n + 31) / 32)).flatMap fun c => sha256 (seed ++ (natLe 4 c).reverse)).take n

/-- EMSA-PSS verification (RFC 8017 §9.1.2) of a 3,072-bit encoded message, SHA-256, MGF1, salt of 32 bytes. -/
def pssVerify (mHash em : List Byte) : Bool :=
  let masked := em.take 351
  let h := (em.drop 351).take 32
  let db := List.zipWith (· ^^^ ·) masked (mgf1 h 351)
  let db0 := (match db with | x :: xs => (x &&& 0x7F) :: xs | [] => [])
  let salt := db0.drop 319
  em.length = 384 && em.drop 383 == [0xBC] && decide ((masked.headD 0).toNat < 128) &&
    db0.take 318 == List.replicate 318 0 && (db0.drop 318).take 1 == [1] &&
    sha256 (List.replicate 8 0 ++ mHash ++ salt) == h

/-- RSASSA-PSS verification with a 3,072-bit modulus and exponent 65,537. Modulus and signature are numbers. -/
def rsaPssVerify (modulus sig : Nat) (msg : List Byte) : Bool :=
  decide (sig < modulus) && pssVerify (sha256 msg) (natLe 384 (rsaPublic modulus sig)).reverse

end Sys2Proof.Machine
end

