-- ==== Sys2Proof/Machine/Ops.lean ====
section
/-! DEFINITION. The named operations over the parts of the state: each changes one part and leaves every other as it
was. -/

namespace Sys2Proof.Machine

/-- What a meaning answers. -/
abbrev Ans := Host.Outcome State Fault Refusal

/-- `s` with its part `clk` changed by `g`. -/
def onClk (s : State) (g : Clk → Clk) : State := { s with clk := g s.clk }

/-- `s` with its part `pins` changed by `g`. -/
def onPins (s : State) (g : Pins → Pins) : State := { s with pins := g s.pins }

/-- `s` with its part `boot` changed by `g`. -/
def onBoot (s : State) (g : Boot → Boot) : State := { s with boot := g s.boot }

/-- `s` with its part `cfg` changed by `g`. -/
def onCfg (s : State) (g : Cfg → Cfg) : State := { s with cfg := g s.cfg }

/-- `s` with its part `fuse` changed by `g`. -/
def onFuse (s : State) (g : Fuse → Fuse) : State := { s with fuse := g s.fuse }

/-- `s` with its part `auth` changed by `g`. -/
def onAuth (s : State) (g : Auth → Auth) : State := { s with auth := g s.auth }

/-- `s` with its part `ash` changed by `g`. -/
def onAsh (s : State) (g : Ash → Ash) : State := { s with ash := g s.ash }

/-- `s` with its part `hlth` changed by `g`. -/
def onHlth (s : State) (g : Hlth → Hlth) : State := { s with hlth := g s.hlth }

/-- `s` with its part `mtr` changed by `g`. -/
def onMtr (s : State) (g : Mtr → Mtr) : State := { s with mtr := g s.mtr }

/-- `s` with its part `pwr` changed by `g`. -/
def onPwr (s : State) (g : Pwr → Pwr) : State := { s with pwr := g s.pwr }

/-- `s` with its part `mem` changed by `g`. -/
def onMem (s : State) (g : Mem → Mem) : State := { s with mem := g s.mem }

/-- `s` with its part `sites` changed by `g`. -/
def onSites (s : State) (g : Sites → Sites) : State := { s with sites := g s.sites }

/-- `s` with its part `t0` changed by `g`. -/
def onT0 (s : State) (g : T0 → T0) : State := { s with t0 := g s.t0 }

/-- `s` with its part `home` changed by `g`. -/
def onHome (s : State) (g : Homes → Homes) : State := { s with home := g s.home }

/-- `s` with its part `ctx` changed by `g`. -/
def onCtx (s : State) (g : Tab Ctx → Tab Ctx) : State := { s with ctx := g s.ctx }

/-- `s` with its part `sched` changed by `g`. -/
def onSched (s : State) (g : Tab Sched → Tab Sched) : State := { s with sched := g s.sched }

/-- `s` with its part `stv` changed by `g`. -/
def onStv (s : State) (g : Stv → Stv) : State := { s with stv := g s.stv }

/-- `s` with its part `net` changed by `g`. -/
def onNet (s : State) (g : Net → Net) : State := { s with net := g s.net }

/-- `s` with its part `links` changed by `g`. -/
def onLinks (s : State) (g : Links → Links) : State := { s with links := g s.links }

/-- `s` with its part `chim` changed by `g`. -/
def onChim (s : State) (g : Chim → Chim) : State := { s with chim := g s.chim }

/-- `s` with its part `trn` changed by `g`. -/
def onTrn (s : State) (g : Trn → Trn) : State := { s with trn := g s.trn }

/-- `s` with its part `ext` changed by `g`. -/
def onExt (s : State) (g : Exts → Exts) : State := { s with ext := g s.ext }

/-- `s` with its part `cell` changed by `g`. -/
def onCell (s : State) (g : Cell → Cell) : State := { s with cell := g s.cell }

/-- A spontaneous event whose condition does not hold, or an instruction of a thread that cannot issue it: nothing
happens (log 10). -/
def notEnabled (s : State) : Ans := .next s

/-- The next free value; the counter of free values advances (log 7). -/
def draw (s : State) : State × Nat := ({ s with draws := s.draws + 1 }, s.draws)

end Sys2Proof.Machine
end

