-- ==== Sys2Proof/Machine/Ash.lean ====
section
/-! DEFINITION. The Ashpit: writing a record (R429 to R436), its image as bytes, and the site error maps (R441, R442). -/

namespace Sys2Proof.Machine

/-- The 28 bytes of DATA with the given pieces at their byte offsets, the rest zero (R479). -/
def ashData (parts : List (Nat × List Byte)) : List Byte :=
  (parts.foldl (fun bs p => overlay bs p.1 p.2) (List.replicate 28 0)).take 28

/-- Bytes 0 to 59 of a record (R429). -/
def recHead (r : Rec) : List Byte :=
  natLe 1 (2 + 16 * r.sev) ++ natLe 1 r.src ++ natLe 2 r.code ++ natLe 4 r.suppressed ++ natLe 8 r.rno ++
    natLe 8 r.opSec ++ natLe 4 r.pcycles ++ natLe 4 r.pt ++ byteSlice r.data 0 28

/-- The 64 bytes of a record (R429). -/
def recBytes (r : Rec) : List Byte := recHead r ++ natLe 4 (crc32c (recHead r))

/-- The recorder slot of record `n`: 0 to 4,095 the Foundation, 4,096 to 53,247 the Circulating area (R434). -/
def nvmSlot (n : Nat) : Nat := if n < 4096 then n else 4096 + (n - 4096) % 49152

/-- The record written to its slot; a Foundation slot that holds its record is not written again (R434). -/
def nvmStore (s : State) (r : Rec) : State :=
  let k := nvmSlot r.rno
  if k < 4096 && (tget none s.ash.nvm k).isSome && (tget none s.ash.nvm k).any (·.rno = r.rno) then s
  else onAsh s fun a => { a with nvm := tput none a.nvm k (some r) }

/-- Both header copies written with what they hold (R435, R441). -/
def writeHeader (s : State) : State :=
  onAsh s fun a => { a with
    headerRno := a.nextRno, headerLost := a.lostTotal, headerPcycles := s.clk.pcycles, headerOpSec := s.clk.opSec,
    blank := false }

/-- The records with severity `v`, oldest first. -/
def ofSev (rs : List Rec) (v : Nat) : List Rec := rs.filter fun r => r.sev = v

/-- REC_HOLD_N is low and honoured: the Pilot has released the recorder bus (R466). -/
def recHeld (s : State) : Bool := !s.pins.recHoldN && (!s.pins.modResetN || (12 ≤ s.boot.phase && s.boot.phase ≤ 14))

/-- A flush (R436): up to 256 backlog records in descending severity and RNO order within one; the rest are lost. While
the recorder bus is released the flush waits (R466). -/
def flush (s : State) : State :=
  if recHeld s then s else
  let order := [5, 4, 3, 2, 1, 0].flatMap (ofSev s.ash.backlog)
  let s1 := forAll (order.take 256) nvmStore s
  writeHeader (onAsh s1 fun a => { a with
    backlog := [], lostTotal := satInc 64 a.lostTotal (order.length - 256), flushes := satInc 64 a.flushes })

/-- The record appended: the buffer keeps the newest 8,192, newest first; severity 4 and 5 start a flush and
assert SMB_ALERT_N (R436, R470). -/
def ashAppend (s : State) (sev src code : Nat) (data : List Byte) : State :=
  let a := s.ash
  let r : Rec := { sev := sev, src := src, code := code, suppressed := tget 0 a.suppressed code, rno := a.nextRno,
                   opSec := s.clk.opSec, pcycles := s.clk.pcycles % 2 ^ 32, pt := s.clk.pilot % 2 ^ 32, data := data }
  let s1 := onAsh s fun a => { a with
    nextRno := a.nextRno + 1, buffer := (r :: a.buffer).take 8192, backlog := a.backlog ++ [r],
    suppressed := tput 0 a.suppressed code 0, sevMax := max a.sevMax sev,
    sev3 := if 3 ≤ sev then satInc 32 a.sev3 else a.sev3 }
  let s2 := if s1.ash.nextRno % 256 = 0 then writeHeader s1 else s1
  if 4 ≤ sev then flush (onPins s2 fun p => { p with smbAlert := true }) else s2

/-- An exempt event: always recorded (R432, R433). -/
def ashExempt (s : State) (sev src code : Nat) (data : List (Nat × List Byte)) : State :=
  ashAppend s sev src code (ashData data)

/-- A limited event: recorded when its code has a token, otherwise counted as suppressed (R433). Severity 5 is always
exempt (R432). -/
def ashLimited (s : State) (sev src code : Nat) (data : List (Nat × List Byte)) : State :=
  let n := tget 16 s.ash.tokens code
  if sev = 5 then ashExempt s sev src code data
  else if 0 < n then
    ashAppend (onAsh s fun a => { a with tokens := tput 16 a.tokens code (n - 1) }) sev src code (ashData data)
  else onAsh s fun a => { a with
    suppressed := tmod 0 a.suppressed code (satInc 32), suppressedTotal := satInc 64 a.suppressedTotal }

/-- The oldest RNO that the Circulating area holds (R438). -/
def ashOldest (s : State) : Nat := max 4096 (s.ash.nextRno - 49152)

/-- What record `n` reads as, and whether the read adds to ASH_CRC_ERRORS (R438). -/
def ashRead (s : State) (n : Nat) : List Byte × Bool :=
  if s.ash.nextRno ≤ n then (List.replicate 64 0, false)
  else match s.ash.buffer.find? (·.rno = n) with
    | some r => (recBytes r, false)
    | none =>
      if 4096 ≤ n && n < ashOldest s then (List.replicate 64 0, false)
      else match tget none s.ash.nvm (nvmSlot n) with
        | some r => if r.rno = n then (recBytes r, false) else (List.replicate 64 0, true)
        | none => (List.replicate 64 0, true)

/-- Index of a bank entry in `Hlth.banks`: 256 per site, 32 × channel + 16 × rank + bank (R441). -/
def bankIx (site chan rank bank : Nat) : Nat := 256 * site + 32 * chan + 16 * rank + bank

/-- A row entry appended to the site's map, which stops at 256 (R442). -/
def addRowErr (s : State) (site : Nat) (e : RowErr) : State :=
  let rows := tget [] s.hlth.rows site
  if rows.length < 256 then
    onHlth s fun h => { h with rows := tput [] h.rows site (rows ++ [{ e with opSec := s.clk.opSec % 2 ^ 32 }]) }
  else s

/-- A bank entry changed by `f`. -/
def modBankErr (s : State) (k : Nat) (f : BankErr → BankErr) : State :=
  onHlth s fun h => { h with banks := tmod {} h.banks k f }

/-- One more wait of the kind that code 0x0203 or 0x0404 reports once per rate-limit period (R273, R328, R433). -/
def countWait203 (s : State) : State := onAsh s fun a => { a with waits203 := satInc 32 a.waits203 }

/-- One more version-pool wait, in a Hearth (R328). -/
def countWait404 (s : State) (h : Nat) : State := onAsh s fun a => { a with waits404 := satInc 32 a.waits404, waits404H := h }

/-! ## Boot history (R367, R441) -/

/-- The entry of this bring-up as it stands. -/
def bootEntry (s : State) : BootEntry :=
  let b := s.boot
  { opSec := s.clk.opSec, pcycles := s.clk.pcycles, checkA := b.checkA, checkB := b.checkB
    flags := b2n b.slot + 2 * b2n b.fallback + 4 * b2n b.watchdog, failCode := b.failCode
    phase := if b.phase ≤ 11 then b.phase else b.failStep, version := b.imgVersion, readyMs := s.clk.readyMs, hash := b.imgHash }

/-- The last entry takes the highest PHASE and the READY_MS that its bring-up has reached since. -/
def touchBoot (s : State) : State :=
  onHlth s fun h => { h with boots := (h.boots.1, match h.boots.2.getLast? with
    | some e => h.boots.2.dropLast ++ [{ e with
        phase := max e.phase (bootEntry s).phase, readyMs := s.clk.readyMs, failCode := max e.failCode s.boot.failCode }]
    | none => h.boots.2) }

end Sys2Proof.Machine
end

