-- ==== Sys2Proof/Machine/Mem.lean ====
section
/-! DEFINITION. The store: addresses (R21 to R24), the place of a line in DRAM (R24, R36), bytes, poison (R42, R43) and
format tags (R39, R69). -/

namespace Sys2Proof.Machine

/-! ## Addresses -/

/-- Device ID of an MPA (R21). -/
def mpaDev (m : Nat) : Nat := fld m 42 14

/-- LPA of an MPA. -/
def mpaLpa (m : Nat) : Nat := m % 2 ^ 42

/-- Hearth of an LPA (R22). -/
def lpaHearth (a : Nat) : Nat := fld a 39 3

/-- Number of the extent that holds an LPA: 512 × Hearth + slot (R22). -/
def lpaExt (a : Nat) : Nat := a / 2 ^ 30

/-- Line number of an LPA. -/
def lineOf (a : Nat) : Nat := a / 64

/-- Tile number of an LPA. -/
def tileOf (a : Nat) : Nat := a / 16384

/-- The extent table entry that covers an LPA (R22, R309). -/
def extOf (s : State) (a : Nat) : Ext := tget {} s.ext.tab (lpaExt a)

/-- Whether the slot of an LPA holds an extent (R23): it does unless its state reads 0, ABSENT. -/
def extPresent (s : State) (a : Nat) : Bool := (extOf s a).state ≠ 0

/-- Where a line lies in DRAM. -/
structure Place where
  site : Nat := 0
  chan : Nat := 0
  rank : Nat := 0
  bank : Nat := 0
  row : Nat := 0
  slot : Nat := 0
deriving DecidableEq, Repr

/-- The place of the line of an LPA (R24, R36). -/
def placeOf (s : State) (a : Nat) : Place :=
  let e := extOf s a
  let off := a % 2 ^ 30
  let t := off / 16384
  let b := off % 16384
  let u := t / 4
  let w := fld u 9 5 * 16 + fld u 4 4
  let lb := e.pos * 16384 + w * 32 + fld b 9 5
  let per := if e.dense then 31 else 28
  { site := lpaHearth a * 4 + t % 4, chan := fld b 6 3, rank := fld u 8 1, bank := (fld u 0 4).xor (fld u 4 4),
    row := 4096 * e.rowgrp + lb / per, slot := lb % per }

/-! ## Bytes -/

/-- `n` bytes from LPA `a`. -/
def readBytes (s : State) (a n : Nat) : List Byte := upTo n fun i => tget 0 s.mem.cells (a + i)

/-- The cells with bytes written from LPA `a`. -/
def putBytes (c : Tab Byte) (a : Nat) : List Byte → Tab Byte
  | [] => c
  | b :: bs => putBytes (tput 0 c a b) (a + 1) bs

/-- The store with bytes written from LPA `a`; poison is not touched. -/
def writeBytes (s : State) (a : Nat) (bs : List Byte) : State := onMem s fun m => { m with cells := putBytes m.cells a bs }

/-- A little-endian number of `n` bytes at LPA `a`. -/
def readNat (s : State) (a n : Nat) : Nat := leNat (readBytes s a n)

/-- The old bytes with those of `new` laid over where the mask has a one (R204). -/
def maskBytes (mask : Nat) : List Byte → List Byte → List Byte
  | o :: os, n :: ns => (if mask % 2 = 1 then n else o) :: maskBytes (mask / 2) os ns
  | os, _ => os

/-! ## Poison -/

/-- Extent of a line. -/
def lineExt (l : Nat) : Nat := l / 2 ^ 24

/-- Line `l` is poisoned (R42), or lies in an extent that was restored with every line poisoned (R352). -/
def isPoisoned (s : State) (l : Nat) : Bool :=
  s.mem.poison.contains l || (s.mem.void.contains (lineExt l) && !s.mem.filled.contains l)

/-- Insertion into a rising list without repeats. -/
def insertNat (x : Nat) : List Nat → List Nat
  | [] => [x]
  | y :: ys => if x = y then y :: ys else if x < y then x :: y :: ys else y :: insertNat x ys

/-- The line carries the marks of poison. -/
def setPoison (s : State) (l : Nat) : State := onMem s fun m => { m with poison := insertNat l m.poison }

/-- The line carries correct check data again. -/
def clearPoison (s : State) (l : Nat) : State :=
  onMem s fun m => { m with
    poison := m.poison.filter (· ≠ l), filled := if m.void.contains (lineExt l) then insertNat l m.filled else m.filled }

/-- Poisoned lines of a range of LPAs. -/
def poisonedIn (s : State) (lo hi : Nat) : List Nat :=
  if s.mem.void.any fun k => k * 2 ^ 30 < hi && lo < (k + 1) * 2 ^ 30 then
    ((List.range ((hi - lo) / 64)).map (lo / 64 + ·)).filter (isPoisoned s)
  else s.mem.poison.filter fun l => lo ≤ l * 64 && l * 64 < hi

/-- All zeros over a range of bytes (R41): no unlisted byte differs from zero, and no line is poisoned. -/
def zeroRange (s : State) (a n : Nat) : State :=
  onMem s fun m => { m with
    cells := tdropRange m.cells a (a + n), poison := m.poison.filter (fun l => l * 64 < a || a + n ≤ l * 64)
    void := m.void.filter fun k => k * 2 ^ 30 < a || a + n < (k + 1) * 2 ^ 30
    filled := if m.void.any fun k => k * 2 ^ 30 < a + n && a < (k + 1) * 2 ^ 30 then
        ((List.range (n / 64)).foldl (fun x i => if n < 2 ^ 30 then insertNat (a / 64 + i) x else x)
          (m.filled.filter fun l => l * 64 < a || a + n ≤ l * 64))
      else m.filled
    tags := if n % 16384 = 0 then tdropRange m.tags (a / 16384) ((a + n) / 16384) else m.tags }

/-- DATA bytes 0 to 10 of codes 0x0101 and 0x0102 (R479). -/
def errData (p : Place) (sym kind : Nat) : List (Nat × List Byte) :=
  [(0, [BitVec.ofNat 8 p.site]), (1, [BitVec.ofNat 8 p.chan]), (2, [BitVec.ofNat 8 p.rank]),
   (3, [BitVec.ofNat 8 p.bank]), (4, natLe 4 p.row), (8, natLe 2 sym), (10, natLe 1 kind)]

/-- The index of a place's bank in the error maps. -/
def placeBank (p : Place) : Nat := bankIx p.site p.chan p.rank p.bank

/-- Poisoning a line (R42, R442): the marks, one Ashpit record of code 0x0102, a row entry of kind 2 and the bank's
uncorrected count. -/
def poisonLine (s : State) (l : Nat) : State :=
  let p := placeOf s (l * 64)
  let s1 := setPoison s l
  let s2 := ashLimited s1 3 (lpaHearth (l * 64)) 0x0102 (errData p 0 0xFF ++ [(16, natLe 8 (l * 64))])
  let s3 := addRowErr s2 p.site { chan := p.chan, rank := p.rank, bank := p.bank, row := p.row, kind := 2, count := 1 }
  modBankErr s3 (placeBank p) fun b => { b with uncorrected := satInc 16 b.uncorrected, lastRow := p.row }

/-- A corrected error (R37, R441, R442): counted for its bank, one Ashpit record of code 0x0101, a row entry when the row's
corrected count reaches 4. -/
def correctedError (s : State) (p : Place) (h sym : Nat) (dense : Bool) : State :=
  let s1 := modBankErr s (placeBank p) fun b => { b with corrected := satInc 32 b.corrected, lastRow := p.row }
  let s2 := ashLimited s1 0 h 0x0101 (errData p sym (b2n dense))
  let key := placeBank p * 2 ^ 18 + p.row
  let n := tget 0 s2.hlth.rowCounts key + 1
  let s3 := onHlth s2 fun x => { x with rowCounts := tput 0 x.rowCounts key n }
  if n = 4 then
    addRowErr s3 p.site { chan := p.chan, rank := p.rank, bank := p.bank, row := p.row, kind := 1, symbol := sym, count := n }
  else s3

/-- The extent's protection: 0 Plain, 1 Mirrored, 2 Parity (R310). -/
def protOf (s : State) (a : Nat) : Nat := (extOf s a).prot

/-- What the decode of a line's read shows, entered in the error maps; an uncorrected error of a Plain line poisons it
(R42). Of a protected line, the repair takes the place of the marks where it succeeds (R44). -/
def decodeRead (s : State) (l : Nat) (ecc : Ecc) : State :=
  match ecc with
  | .clean => s
  | .corrected sym => correctedError s (placeOf s (l * 64)) (lpaHearth (l * 64)) sym (extOf s (l * 64)).dense
  | .uncorrected => if isPoisoned s l || protOf s (l * 64) ≠ 0 then s else poisonLine s l

/-- The line reads as bad: marked already, or its decode fails now. -/
def badLine (s : State) (l : Nat) (ecc : Ecc) : Bool := isPoisoned s l || ecc = .uncorrected

/-- A whole or part of a line written (R43): all 64 bytes clear the poison. -/
def storeLine (s : State) (l : Nat) (bs : List Byte) : State :=
  let s1 := writeBytes s (l * 64) bs
  if 64 ≤ bs.length then onMem (clearPoison s1 l) fun m => { m with lost := m.lost.filter (· ≠ l) } else s1

/-! ## Tags -/

/-- The tag of a tile's rows (R39). -/
def tagOf (s : State) (tile : Nat) : Tag := tget (.fmt 0) s.mem.tags tile

/-- The tile's rows hold tag `f`. -/
def setTag (s : State) (tile : Nat) (f : Tag) : State := onMem s fun m => { m with tags := tput (.fmt 0) m.tags tile f }

/-- Some line of the tile is poisoned. -/
def tilePoisoned (s : State) (tile : Nat) : Bool :=
  (s.mem.poison.any fun l => l / 256 = tile) ||
    (s.mem.void.contains (lineExt (tile * 256)) && (List.range 256).any fun k => isPoisoned s (tile * 256 + k))

end Sys2Proof.Machine
end

