-- ==== Sys2Proof/Machine/Chan.lean ====
section
/-! DEFINITION. The channels and banks of the memory sites (R46 to R49): which DRAM command goes next and what activations
bring about. What a line holds is decided at its home's order point (R20); a channel decides no value. -/

namespace Sys2Proof.Machine

/-- Number of a place's channel. -/
def chanIx (p : Place) : Nat := 8 * p.site + p.chan

/-- Number of a bank within its channel. -/
def bankOf (rank bank : Nat) : Nat := 16 * rank + bank

/-- A channel changed. -/
def onChan (s : State) (c : Nat) (f : Chan → Chan) : State := onSites s fun x => { x with chans := tmod {} x.chans c f }

/-- A bank of a channel changed. -/
def onBank (s : State) (c b : Nat) (f : Bank → Bank) : State :=
  onSites s fun x => { x with banks := tmod {} x.banks (32 * c + b) f }

/-- A bank of a channel. -/
def bankAt (s : State) (c b : Nat) : Bank := tget {} s.sites.banks (32 * c + b)

/-- The site of a channel. -/
def siteAt (s : State) (site : Nat) : Site := tget {} s.sites.sites site

/-- A refresh or refresh-management command takes RAAIMT off the rolling count and lets activations go on (R48, log 34). -/
def easeBank (s : State) (c b : Nat) : State :=
  let n := (siteAt s (c / 8)).raaimt
  onBank s c b fun x => { x with raa := x.raa - n, blocked := false }

/-- A refresh-management command to a bank. -/
def manageBank (s : State) (c b : Nat) : State := easeBank (onBank s c b fun x => { x with rfms := x.rfms + 1 }) c b

/-- One more activation of a row in the bank's table of 32; a row not in a full table takes the place of the least activated
(log 34). -/
def countRow (row : Nat) (rows : List (Nat × Nat)) : List (Nat × Nat) :=
  if rows.any (·.1 = row) then updFirst (·.1 = row) (fun e => (e.1, e.2 + 1)) rows
  else if rows.length < 32 then rows ++ [(row, 1)]
  else
    let least := rows.foldl (fun m e => Nat.min m e.2) (rows.headD (0, 0)).2
    dropFirst (·.2 = least) rows ++ [(row, 1)]

/-- A row of a bank is activated (R48, R49): the rolling count, the block at RAAMMT, and the refresh of an aggressor with its
count and record. -/
def activate (s : State) (c : Nat) (d : DReq) : State :=
  let b := bankOf d.rank d.bank
  let v := siteAt s (c / 8)
  let s1 := onChan s c fun x => { x with openRow := tput none x.openRow b (some d.row) }
  let s2 := onBank s1 c b fun x => { x with
    raa := x.raa + 1, rows := countRow d.row x.rows, blocked := x.blocked || (v.raammt ≠ 0 && v.raammt ≤ x.raa + 1) }
  let n := (((bankAt s2 c b).rows.find? (·.1 = d.row)).getD (0, 0)).2
  if n < s.cfg.rhThresh then s2
  else
    let s3 := manageBank (onBank s2 c b fun x => { x with rows := x.rows.filter (·.1 ≠ d.row) }) c b
    let s4 := modBankErr s3 (bankIx (c / 8) (c % 8) d.rank d.bank) fun e => { e with aggressor := satInc 32 e.aggressor }
    ashLimited s4 0 (c / 32) 0x0105
      [(0, natLe 1 (c / 8)), (1, natLe 1 (c % 8)), (2, natLe 1 d.rank), (3, natLe 1 d.bank), (4, natLe 4 d.row), (8, natLe 4 n)]

/-- The request finds its row open. -/
def rowHit (x : Chan) (d : DReq) : Bool := tget none x.openRow (bankOf d.rank d.bank) = some d.row

/-- The request may be issued: none to its line came before it, and its bank is not blocked. -/
def mayIssue (s : State) (c : Nat) (x : Chan) (d : DReq) : Bool :=
  !(x.reads ++ x.writes).any (fun e => e.line = d.line && e.no < d.no) && !(bankAt s c (bankOf d.rank d.bank)).blocked

/-- The request that a channel issues next (R46): the one whose wait puts it first, else from the writes while they drain or no
read is queued, row hits before others and the oldest first. -/
def pickReq (s : State) (c : Nat) : Option DReq :=
  let x := tget {} s.sites.chans c
  let drain := if x.reads.isEmpty then true else if 24 ≤ x.writes.length then true else x.draining && 8 < x.writes.length
  let q := (if drain then x.writes else x.reads).filter (mayIssue s c x)
  match (x.reads ++ x.writes).find? (fun d => some d.no = x.urgent && mayIssue s c x d) with
  | some d => some d
  | none => match q.find? (rowHit x) with
    | some d => some d
    | none => match q.head? with
      | some d => some d
      | none => ((if drain then x.reads else x.writes).filter (mayIssue s c x)).head?

/-- The channel issues its next request; nothing where it has none. Banks blocked at RAAMMT take their refresh-management
command first, and with nothing queued those at RAAIMT do (R48). -/
def issueOne (s : State) (c : Nat) : State :=
  let x := tget {} s.sites.chans c
  let n := (siteAt s (c / 8)).raaimt
  let idle := x.reads.isEmpty && x.writes.isEmpty
  let due := (List.range 32).filter fun b => (bankAt s c b).blocked || (idle && n ≠ 0 && n ≤ (bankAt s c b).raa)
  let s1 := forAll due (fun s b => manageBank s c b) s
  match pickReq s1 c with
  | none => s1
  | some d =>
    let s2 := if rowHit x d then s1 else activate s1 c d
    onChan s2 c fun y =>
      let ws := y.writes.filter (·.no ≠ d.no)
      { y with
        reads := y.reads.filter (·.no ≠ d.no)
        writes := ws
        draining := if 24 ≤ y.writes.length then true else y.draining && 8 < ws.length
        urgent := if y.urgent = some d.no then none else y.urgent }

/-- A DRAM access of a line joins its channel's queue of 64 reads or 32 writes; a full queue issues first (R46). -/
def queueDram (s : State) (l : Nat) (isWrite : Bool) : State :=
  let p := placeOf s (l * 64)
  let c := chanIx p
  let x := tget {} s.sites.chans c
  let s1 := if (if isWrite then 32 ≤ x.writes.length else 64 ≤ x.reads.length) then issueOne s c else s
  onChan s1 c fun y =>
    let d : DReq := { line := l, rank := p.rank, bank := p.bank, row := p.row, sincePt := s.clk.pilot, no := y.nextNo }
    { y with
      reads := if isWrite then y.reads else y.reads ++ [d]
      writes := if isWrite then y.writes ++ [d] else y.writes
      nextNo := y.nextNo + 1 }

end Sys2Proof.Machine
end

