-- ==== Sys2Proof/Machine/Codes.lean ====
section
/-! DEFINITION. The numbers that frames carry: request types and their kinds (R203), statuses (R205). -/

namespace Sys2Proof.Machine

/-! Request types (R203). -/
def tHello : Nat := 0x01
def tCtxOpen : Nat := 0x02
def tCtxClose : Nat := 0x03
def tFence : Nat := 0x06
def tRead : Nat := 0x08
def tWrite : Nat := 0x09
def tWritePush : Nat := 0x0A
def tTileRead : Nat := 0x0B
def tTileWrite : Nat := 0x0C
def tAtomic : Nat := 0x10
def tScatter : Nat := 0x18
def tPublish : Nat := 0x19
def tLease : Nat := 0x1A
def tSnap : Nat := 0x1B
def tContrib : Nat := 0x20
def tDeliver : Nat := 0x21
def tCoh : Nat := 0x28
def tInval : Nat := 0x30
def tMgmtRead : Nat := 0x38
def tMgmtWrite : Nat := 0x39
def tCell : Nat := 0x3C

/-! Statuses (R205). -/
def stOk : Nat := 0x00
def stNotReady : Nat := 0x01
def stDenied : Nat := 0x02
def stUnmapped : Nat := 0x03
def stRevoked : Nat := 0x04
def stMoved : Nat := 0x05
def stStaleEpoch : Nat := 0x06
def stConflict : Nat := 0x07
def stBusy : Nat := 0x08
def stUnknown : Nat := 0x09
def stPoison : Nat := 0x0A
def stTimeout : Nat := 0x0B
def stDegraded : Nat := 0x0C
def stShort : Nat := 0x0D
def stNoStage : Nat := 0x0E
def stDisabled : Nat := 0x0F
def stMalformed : Nat := 0x10
def stUnsupported : Nat := 0x11

/-- The types of the table of R203. -/
def listedTypes : List Nat :=
  [0x01, 0x02, 0x03, 0x06, 0x08, 0x09, 0x0A, 0x0B, 0x0C, 0x10, 0x18, 0x19, 0x1A, 0x1B, 0x20, 0x21, 0x28, 0x30, 0x38,
   0x39, 0x3C]

/-- Kind of a type (R203, R211): 0 idempotent, 1 status-kept, 2 non-idempotent, 3 unsequenced. -/
def kindOf (t : Nat) : Nat :=
  if t ∈ [0x06, 0x08, 0x0B, 0x30] then 0
  else if t ∈ [0x09, 0x0A, 0x0C, 0x28] then 1
  else if t ∈ [0x10, 0x18, 0x19, 0x1A, 0x1B, 0x20, 0x21] then 2
  else 3

/-- The types whose class is 7 (R203). -/
def isTc7 (t : Nat) : Bool := t ∈ [0x01, 0x02, 0x03, 0x06, 0x1A, 0x28, 0x30, 0x38, 0x39, 0x3C]

/-- The types a partner leg admits (R203): Partner, Both, Service. -/
def onPartnerLeg (t : Nat) : Bool :=
  t ∈ [0x02, 0x03, 0x06, 0x08, 0x09, 0x0A, 0x0B, 0x0C, 0x10, 0x1A, 0x1B, 0x28, 0x30, 0x38, 0x39]

/-- The types a fabric leg admits (R203). -/
def onFabricLeg (t : Nat) : Bool :=
  t ∈ [0x08, 0x09, 0x0A, 0x0B, 0x0C, 0x10, 0x18, 0x19, 0x1A, 0x1B, 0x20, 0x21, 0x28, 0x3C]

/-- The types that name memory by address and so route by MPA[41:14] (R231), but for COH and CELL. -/
def byAddress (t : Nat) : Bool := t ∈ [0x08, 0x09, 0x0A, 0x0B, 0x0C, 0x10, 0x18, 0x19, 0x1A, 0x1B]

/-- A frame's TYPE has bit 7 set: it is a response. -/
def isResponse (f : Frame) : Bool := 128 ≤ f.typ

/-- The statuses that a fence counts as failures (R219). -/
def isFenceFailure (st : Nat) : Bool := st ∈ [0x0B, 0x09, 0x0E]

end Sys2Proof.Machine
end

