-- ==== Sys2Proof/Machine/Flue.lean ====
section
/-! DEFINITION. What leaves the module: routes (R230 to R233), Damper queues, shapers and gates (R248 to R254), and the
forming of responses (R202) in fragments (R218). -/

namespace Sys2Proof.Machine

/-- The module's own device ID. -/
def selfDev (s : State) : Nat := s.boot.device

/-- The die serial, low 64 bits, as step 3 of bring-up read it from the fuses (R364, R387). -/
def ownSerial (s : State) : Nat := (s.boot.idn.extractLsb' 0 64).toNat

/-- Link `l`. -/
def linkOf (s : State) (l : Nat) : Link := tget {} s.links.tab l

/-- Link `l` changed by `f`. -/
def onLink (s : State) (l : Nat) (f : Link → Link) : State := onLinks s fun x => { x with tab := tmod {} x.tab l f }

/-- Counter `c` of link `l` counts one more (R257). -/
def countLink (s : State) (l c : Nat) : State :=
  onLink s l fun x => { x with ctr := tmod 0 x.ctr c (satInc 64) }

/-- The discards that the spec counts without naming a register: 0 SEQ behind (R211), 1 stray response (R203), 2 UDP
(R199), 3 destination MAC (R198), 4 payload (R200), 5 before HELLO (R207), 6 late contributions (R240, R246). -/
def countDiscard (s : State) (c : Nat) : State := onNet s fun n => { n with discards := tmod 0 n.discards c (satInc 64) }

/-- A link of a service Flue. -/
def isService (l : Nat) : Bool := l = 96 || l = 97

/-- The Flue of a link (R228). -/
def flueOf (l : Nat) : Nat := if l < 96 then l / 4 else l - 72

/-- The Flue entry of a link's Flue. -/
def flueEntry (s : State) (l : Nat) : Flue := tget {} s.cfg.flues (flueOf l)

/-- The role of a link: 0 unused, 1 cell, 2 inter-cell, 3 partner (R374). -/
def linkRole (s : State) (l : Nat) : Nat := fld (flueEntry s l).roles (2 * (l % 4)) 2

/-- The link rate in Gbit/s: a Quartered Flue's link 200, any other 800 (R454). -/
def linkRate (s : State) (l : Nat) : Nat := if l < 96 && (flueEntry s l).quartered then 200 else 800

/-- The source MAC address of a link (R198, R374). -/
def sourceMac (s : State) (l : Nat) : Nat :=
  let dev := if s.boot.device = 0x3FFF || s.boot.role = 1 && !s.cell.served then 0x3FFF else s.boot.device
  0x024432000000 + dev * 256 + (if isService l then l - 96 + 0x60 else if (flueEntry s l).quartered then l % 4 else 0)

/-- The modified EUI-64 link-local address of a service Flue (R374, RFC 4291). -/
def linkLocalAddr (s : State) (l : Nat) : Nat :=
  let m := sourceMac s l
  0xFE80 * 2 ^ 112 + (fld m 24 24).xor 0x020000 * 2 ^ 40 + 0xFFFE * 2 ^ 24 + fld m 0 24

/-- The IPv6 address of service Flue `k` (R374). -/
def serviceAddr (s : State) (k : Nat) : Nat :=
  let a := tget 0 s.cfg.ipv6 k
  if a = 0 then linkLocalAddr s (96 + k) else a

/-- The payload limit of a link (R200, R207): a peer without feature bit 7 takes no payload above 1,024 bytes. -/
def payloadLimit (s : State) (l : Nat) : Nat :=
  if isService l then s.cfg.svcPayload
  else match (linkOf s l).hello with
    | some h => min (if tbit h.features 7 then 4096 else 1024) h.maxpay
    | none => 4096

/-- The largest power of two that does not exceed `n`, for `n` of 64 to 4,096 (R218). -/
def fragSize (n : Nat) : Nat :=
  if 4096 ≤ n then 4096 else if 2048 ≤ n then 2048 else if 1024 ≤ n then 1024 else if 512 ≤ n then 512
  else if 256 ≤ n then 256 else if 128 ≤ n then 128 else 64

/-! ## Length, shapers, gates -/

/-- Bytes of a frame from the destination MAC address through the frame check sequence (R198, R199). -/
def frameBytes (l : Nat) (o : OutFrame) : Nat :=
  14 + 64 + o.f.payload.length + 4 + (if isService l then 48 + (if o.vlan.isSome then 4 else 0) else 0)

/-- The counted length (R250). -/
def countedLength (s : State) (l : Nat) (o : OutFrame) : Nat := frameBytes l o + (flueEntry s l).overhead

/-- One byte in the unit of shapers and policers. -/
def tokenByte : Nat := 8 * 10000 * 1024

/-- Tokens gained at `rate` Mbit/s between two Chimney counts. -/
def gained (rate since now : Nat) : Nat := rate * 8 * (now - since)

/-- The shaper of class `c` (8: the link's own): as set, or the default, in which class 7 takes 10% of the link rate
and every other shaper is unshaped with a full bucket (R250). -/
def shaperOf (s : State) (l c : Nat) : Shaper :=
  match tget none (linkOf s l).shapers c with
  | some x => x
  | none => { rate := if c = 7 then linkRate s l * 100 else 0, tokens := 16384 * tokenByte, lastCyc := s.clk.chimney1024 }

/-- The bucket's tokens now. -/
def shaperTokens (s : State) (x : Shaper) : Nat :=
  min (x.burst * tokenByte) (x.tokens + gained x.rate x.lastCyc s.clk.chimney1024)

/-- The shaper lets a frame of `n` counted bytes go. -/
def shaperAllows (s : State) (x : Shaper) (n : Nat) : Bool := x.rate = 0 || n * tokenByte ≤ shaperTokens s x

/-- The shaper after a frame of `n` counted bytes. -/
def shaperTake (s : State) (x : Shaper) (n : Nat) : Shaper :=
  { x with tokens := shaperTokens s x - n * tokenByte, lastCyc := s.clk.chimney1024 }

/-- The cycles for which class `c` stays open from entry `i` of the gate list; at most one whole cycle (R253). -/
def openCycles (list : List (Nat × Nat)) (c i : Nat) : Nat :=
  let turned := list.drop i ++ list.take i
  ((turned.takeWhile fun e => tbit e.1 c).map Prod.snd).sum

/-- The gate of class `c` lets a transmission of `n` counted bytes start now: it ends while the class stays open. -/
def gateAllows (s : State) (l c n : Nat) : Bool :=
  let g := tget {} s.chim.gates (flueOf l)
  if g.list.isEmpty then true
  else if g.list.all fun e => tbit e.1 c then true
  else
    let now := max g.curCyc (s.clk.chimney1024 / 1024)
    let dur := (n * 10 + linkRate s l - 1) / linkRate s l
    tbit (nth (0, 0) g.list g.cur).1 c && now + dur ≤ g.curCyc + openCycles g.list c g.cur

/-- The Chimney's domain PD27 is powered (R14, R405). -/
def chimneyOn (s : State) : Bool := s.pwr.domains.getLsbD 27

/-- Class `c` of link `l` may start its first frame (R249); on entry into sleep the service Flues' transmitters stop (R412). -/
def classReady (s : State) (l c : Nat) : Bool :=
  match tget [] (linkOf s l).q c with
  | [] => false
  | o :: _ =>
    let n := countedLength s l o
    !(isService l && (s.pwr.state = 1 || s.pwr.state = 3)) &&
      gateAllows s l c n && shaperAllows s (shaperOf s l c) n && shaperAllows s (shaperOf s l 8) n

/-- The quantum of a class (R250). -/
def quantumOf (s : State) (l c : Nat) : Nat := (shaperOf s l c).quantum

/-- The deficits once the turn has come to class `c`: it gains its quantum where it may start. -/
def turnTo (s : State) (l c : Nat) (d : Tab Nat) : Tab Nat :=
  if classReady s l c then tput 0 d c (tget 0 d c + quantumOf s l c) else d

/-- The deficit round robin over classes 0 to 6 (R249): the class that sends next, with the deficits then and the class
whose turn it stays. A class that may not start keeps its deficit; an empty class has none. -/
def drrPick (s : State) (l : Nat) : Nat → Nat → Tab Nat → Option (Nat × Tab Nat)
  | 0, _, _ => none
  | fuel + 1, c, d =>
    let c' := (c + 1) % 7
    match tget [] (linkOf s l).q c with
    | [] => drrPick s l fuel c' (turnTo s l c' (tput 0 d c 0))
    | o :: _ =>
      let n := countedLength s l o
      if classReady s l c && n ≤ tget 0 d c then some (c, tput 0 d c (tget 0 d c - n))
      else drrPick s l fuel c' (turnTo s l c' d)

/-- The frame at the head of class `c` begins transmission. -/
def beginTx (s : State) (l c : Nat) : State :=
  match tget [] (linkOf s l).q c with
  | [] => s
  | o :: rest =>
    let n := countedLength s l o
    onLink s l fun x => { x with
      q := tput [] x.q c rest, tx := some (c, o),
      shapers := tput none (tput none x.shapers c (some (shaperTake s (shaperOf s l c) n))) 8
        (some (shaperTake s (shaperOf s l 8) n)) }

/-- Frames can leave a link that is up, and one that a HELLO keeps down, which still answers HELLO (R206, R207). -/
def linkLives (x : Link) : Bool := x.up || x.refused

/-- The link's scheduler chooses the next frame when none is in transmission (R249). -/
def startNext (s : State) (l : Nat) : State :=
  let x := linkOf s l
  if x.tx.isSome || !linkLives x || x.dozing || !chimneyOn s then s
  else if classReady s l 7 then beginTx s l 7
  else match drrPick s l 64 x.turn x.deficit with
    | some (c, d) => beginTx (onLink s l fun x => { x with deficit := d, turn := c }) l c
    | none => s

/-! ## Queues -/

/-- Bytes queued in a class. -/
def queuedBytes (l : Nat) (q : List OutFrame) : Nat := (q.map (frameBytes l)).sum

/-- The guarantee of a class (R248). -/
def guarantee (c : Nat) : Nat := if c = 7 then 65536 else 16384

/-- The links of a link's Flue. -/
def flueLinks (s : State) (l : Nat) : List Nat :=
  if l < 96 && (flueEntry s l).quartered then upTo 4 (fun k => 4 * (l / 4) + k) else [l]

/-- Bytes that the Flue's classes hold above their guarantees. -/
def sharedUsed (s : State) (l : Nat) : Nat :=
  ((flueLinks s l).map fun m => ((upTo 8 fun c => queuedBytes m (tget [] (linkOf s m).q c) - guarantee c)).sum).sum

/-- Room for one more frame of class `c`: within the guarantee, or within the part of the 2 MiB that no guarantee
takes (R248). -/
def hasRoom (s : State) (l c : Nat) (o : OutFrame) : Bool :=
  let used := queuedBytes l (tget [] (linkOf s l).q c)
  let after := used + frameBytes l o
  let shared := 2097152 - (flueLinks s l).length * (7 * 16384 + 65536)
  after ≤ guarantee c || sharedUsed s l + (after - max used (guarantee c)) ≤ shared

/-- The frame joins the egress queue of its class, and the scheduler looks. -/
def enqueue (s : State) (l : Nat) (o : OutFrame) : State :=
  startNext (onLink s l fun x => { x with q := tmod [] x.q o.f.tc (· ++ [o]) }) l

/-- A frame that is no request put on a link: without room, or on a link that is down, it is discarded and counted
(R233, R248). -/
def sendOn (s : State) (l : Nat) (o : OutFrame) : State :=
  if !linkLives (linkOf s l) then countLink s l 7
  else if hasRoom s l o.f.tc o then enqueue s l o else countLink s l 6

/-! ## Routes -/

/-- The route entry for a destination (R230). -/
def routeEntry (s : State) (dst : Nat) : BitVec 32 :=
  if dst / 64 = s.boot.cell then tget 0x7F7F7F7F s.chim.posTab (dst % 64) else tget 0x7F7F7F7F s.chim.cellTab (dst / 64)

/-- A link that may carry frames: up, with HELLO exchanged on a fabric link (R207, R233). -/
def linkUsable (s : State) (l : Nat) : Bool := (linkOf s l).up && (isService l || (linkOf s l).hello.isSome)

/-- The usable paths of a route entry in field order (R231). -/
def usablePaths (s : State) (e : BitVec 32) : List Nat :=
  (upTo 4 fun i => (fld e.toNat (8 * i) 7, e.getLsbD (8 * i + 7))).filterMap fun p =>
    if p.2 && linkUsable s p.1 then some p.1 else none

/-- The routing key (R231): MPA[41:14] of a request that names memory by address, SEQ of every other frame. -/
def routeKey (f : Frame) : Nat :=
  let addressed := !isResponse f && (byAddress f.typ ||
    f.typ = tCoh && (fld f.opa.toNat 0 8) ∈ [1, 2, 3, 4] ||
    f.typ = tCell && (fld f.opa.toNat 0 8) ∈ [0x0A, 0x0B, 0x0E])
  if addressed then fld f.mpa.toNat 14 28 else f.seq.toNat

/-- The link by which a frame leaves, none where no path is usable (R231). -/
def pickLink (s : State) (f : Frame) : Option Nat :=
  let ps := usablePaths s (routeEntry s f.dstDev)
  if ps.isEmpty then none else some (nth 0 ps ((routeKey f + f.dstDev) % ps.length))

/-- What became of a frame that was to leave. -/
inductive Went where
  | sent | noRoute | noRoom (link : Nat) | hopLimit
deriving DecidableEq, Repr

/-- A wake pattern on a dozing link, at most once in 1,024 pt (R419). -/
def wakeLink (s : State) (l : Nat) : State :=
  let due := match (linkOf s l).wokePt with
    | some t => decide (t + 1024 ≤ s.clk.pilot)
    | none => true
  if (linkOf s l).dozing && due then
    onLinks (onLink s l fun x => { x with wokePt := some s.clk.pilot }) fun x => { x with
      patterns := x.patterns ++ [(l, s.clk.pilot)] }
  else s

/-- The valid paths of a route entry (R230). -/
def validPaths (e : BitVec 32) : List Nat :=
  (upTo 4 fun i => (fld e.toNat (8 * i) 7, e.getLsbD (8 * i + 7))).filterMap fun p => if p.2 then some p.1 else none

/-- A frame found no usable path (R231, R419): NOROUTE counts on the link it arrived on, for a frame of this module on
the first valid path's link (log 11); dozing paths are woken. -/
def noPath (s : State) (f : Frame) (came : Option Nat) : State :=
  let ps := validPaths (routeEntry s f.dstDev)
  let s1 := match came, ps with
    | some l, _ => countLink s l 7
    | none, l :: _ => countLink s l 7
    | none, [] => s
  forAll ps wakeLink s1

/-- A frame passes the Chimney and is queued on the link of its route (R202, R231, R248). `came` is the link on which a
frame in transit arrived. -/
def route (s : State) (f : Frame) (came : Option Nat := none) : State × Went :=
  if s.cfg.hopsMax ≤ f.hops then
    ((match came with | some l => countLink s l 8 | none => s), .hopLimit)
  else match pickLink s f with
    | none => (noPath s f came, .noRoute)
    | some l =>
      let o : OutFrame := { f := { f with hops := f.hops + 1 } }
      if hasRoom s l f.tc o then (enqueue s l o, .sent) else (countLink s l 6, .noRoom l)

/-- A response, snoop or other frame that nobody answers BUSY: it is sent, or discarded and counted. -/
def sendRouted (s : State) (f : Frame) : State := (route s f).1

/-! ## Responses -/

/-- The epoch of this module's map, low 8 bits. -/
def ownEpoch (s : State) : Nat := s.cell.map.epoch % 256

/-- The response to a request (R202, R221). The sender of a partner-leg request that this module has filled in has no device
ID. An answer that another module formed keeps that module's SRC_DEV and EPOCH (log 48). -/
def mkResponse (s : State) (f : Frame) (a : Answer) : Frame :=
  { rev := f.rev, tc := f.tc, typ := f.typ + 128, leg := f.leg, status := a.status
    dstDev := if !f.leg && f.srcDev = selfDev s then 0 else f.srcDev
    srcDev := (a.origin.map (·.1)).getD (selfDev s), srcCtx := f.srcCtx, job := f.job
    epoch := (a.origin.map (·.2)).getD (if f.cell = s.boot.cell || !f.leg then ownEpoch s else f.epoch)
    cell := f.cell, seq := f.seq, tag := f.tag, fragsM1 := f.fragsM1, jva := a.result, mpa := a.hint, opa := a.info,
    payload := a.payload, len := a.payload.length }

/-- A frame cut into fragments of `fs` bytes (R218); a frame whose payload fits stays as it is. -/
def fragment (fs : Nat) (f : Frame) : List Frame :=
  if f.payload.length ≤ fs then [f]
  else
    let parts := chunks fs 256 f.payload
    (List.zip (List.range parts.length) parts).map fun p =>
      { f with frag := p.1, fragsM1 := parts.length - 1, payload := p.2, len := p.2.length }

/-- A response leaves: on the partner leg by the link the request came in on, to its requester (R199); on the fabric
leg by the route to the request's sender. -/
def sendResponse (s : State) (r : Req) (a : Answer) : State :=
  let f := mkResponse s r.f a
  if r.f.leg then
    let fs := match pickLink s f with
      | some l => fragSize (payloadLimit s l)
      | none => 4096
    forAll (fragment fs f) sendRouted s
  else
    forAll (fragment (fragSize (payloadLimit s r.a.link)) f)
      (fun s f => sendOn s r.a.link { f := { f with hops := 1 }, ip := r.a.ip, port := r.a.port, vlan := r.a.vlan }) s

/-- An answer that holds a status alone. -/
def plain (st : Nat) : Answer := { status := st }

end Sys2Proof.Machine
end

