-- ==== Sys2Proof/Machine/Seq.lean ====
section
/-! DEFINITION. Sequence windows and deduplication (R210 to R213), what fences count (R219), and the module's own requests
(R210, R213, R216). -/

namespace Sys2Proof.Machine

/-- Sequence number `a` is after `b` (R210). -/
def seqAfter (a b : BitVec 32) : Bool := 1 ≤ (a - b).toNat && (a - b).toNat < 2 ^ 31

/-- How a window judges a number (R211). -/
inductive Verdict where
  | fresh | progress | replay (e : Seen) | behind
deriving DecidableEq, Repr

/-- A sequenced number judged by its window (R211). -/
def judge (w : SeqWin) (n : BitVec 32) : Verdict :=
  if (w.h - n).toNat ≤ 255 then
    match w.seen.find? (·.seq = n) with
    | some e => if e.busy then .progress else .replay e
    | none => .fresh
  else if seqAfter n w.h then .fresh else .behind

/-- The window with number `n` marked seen and in progress (R211). -/
def markSeen (w : SeqWin) (n : BitVec 32) (typ now : Nat) : SeqWin :=
  let h := if seqAfter n w.h then n else w.h
  { h := h, lastPt := now,
    seen := (w.seen.filter fun e => e.seq ≠ n && (h - e.seq).toNat ≤ 255) ++
      [{ seq := n, kind := kindOf typ, busy := true, typ := typ }] }

/-- The window after number `n` is answered: BUSY removes the mark, any other status ends it and is stored (R211). -/
def settleSeen (w : SeqWin) (n : BitVec 32) (a : Answer) : SeqWin :=
  if a.status = stBusy then { w with seen := w.seen.filter (·.seq ≠ n) }
  else { w with seen := w.seen.map fun e =>
    if e.seq = n then { e with busy := false, status := a.status, result := a.result, info := a.info } else e }

/-- The device for which a fabric number was issued (R211). -/
def issuedFor (f : Frame) : Nat := if f.fwd then f.fwdFrom else f.dstDev

/-- Window `w` is the one that the key of `f` names. -/
def fwinMatches (f : Frame) (w : FWin) : Bool := w.src = f.srcDev && w.ctx = f.srcCtx && w.dev = issuedFor f

/-- The fabric-leg window of a frame's key. -/
def fwinOf (s : State) (f : Frame) : Option FWin := s.net.fwin.find? (fwinMatches f)

/-- The fabric-leg window of a key changed. -/
def onFwin (s : State) (f : Frame) (g : SeqWin → SeqWin) : State :=
  onNet s fun n => { n with fwin := updFirst (fwinMatches f) (fun w => { w with win := g w.win }) n.fwin }

/-- The partner-leg window of a context. -/
def pwinOf (s : State) (c : Nat) : Option SeqWin := tget none s.net.pwin c

/-- The partner-leg window of a context changed. -/
def onPwin (s : State) (c : Nat) (g : SeqWin → SeqWin) : State :=
  onNet s fun n => { n with pwin := tmod none n.pwin c fun w => w.map g }

/-- Stored results in use (R212): one for each seen number of a status-kept or non-idempotent request. -/
def resultsUsed (s : State) : Nat :=
  ((s.net.fwin.map fun w => (w.win.seen.filter (1 ≤ ·.kind)).length).sum) +
  ((s.net.pwin.map fun e => match e.2 with
    | some w => (w.seen.filter (1 ≤ ·.kind)).length
    | none => 0).sum)

/-- A fabric-leg window that may be dropped: idle for 1,048,576 pt with no request in progress (R212). -/
def idleWin (s : State) (w : FWin) : Bool :=
  w.win.lastPt + 1048576 ≤ s.clk.pilot && w.win.seen.all (!·.busy)

/-- The idle window whose last request is oldest. -/
def oldestIdle (s : State) : Option FWin :=
  (s.net.fwin.filter (idleWin s)).foldl (fun m w => match m with
    | none => some w
    | some x => if w.win.lastPt < x.win.lastPt then some w else some x) none

/-- The oldest idle window dropped, where there is one (R212). -/
def dropIdle (s : State) : State :=
  match oldestIdle s with
  | some w => onNet s fun n => { n with fwin := dropFirst (· == w) n.fwin }
  | none => s

/-- Room for one more fabric-leg window, after dropping an idle one if need be (R212). -/
def makeWindowRoom (s : State) : State × Bool :=
  if s.net.fwin.length < 16384 then (s, true)
  else let s1 := dropIdle s; (s1, s1.net.fwin.length < 16384)

/-- Room for one more stored result (R212). -/
def makeResultRoom (s : State) (typ : Nat) : State × Bool :=
  if kindOf typ = 0 || resultsUsed s < 262144 then (s, true)
  else let s1 := dropIdle s; (s1, resultsUsed s1 < 262144)

/-! ## Fences -/

/-- A partner-leg request enters what fences count (R219, R220): the last 256 numbers of its context. -/
def addLeg (s : State) (f : Frame) : State :=
  onNet s fun n => { n with
    legs := tmod [] n.legs f.srcCtx fun ls => lastN 256 (ls.filter (·.seq ≠ f.seq) ++ [{ seq := f.seq, tag := f.tag }]) }

/-- Entry of a partner-leg request changed. -/
def onLeg (s : State) (ctx : Nat) (q : BitVec 32) (g : Leg → Leg) : State :=
  onNet s fun n => { n with legs := tmod [] n.legs ctx (updFirst (·.seq = q) g) }

/-- The destination that a partner-leg request counts against (R219). -/
def legDest (s : State) (f : Frame) (dev : Nat) : State := onLeg s f.srcCtx f.seq fun l => { l with dev := some dev }

/-- A partner-leg request stops counting (R219); one answered BUSY was not executed and does not count any more. -/
def endLeg (s : State) (f : Frame) (st : Nat) : State :=
  if st = stBusy then onNet s fun n => { n with legs := tmod [] n.legs f.srcCtx fun ls => ls.filter (·.seq ≠ f.seq) }
  else onLeg s f.srcCtx f.seq fun l => { l with ended := true, failed := isFenceFailure st }

/-! ## The module's own requests -/

/-- The sequence space of a context toward a device (R210). -/
def spaceOf (s : State) (ctx dev : Nat) : Space :=
  (s.net.spaces.find? fun x => x.ctx = ctx && x.dev = dev).getD { ctx := ctx, dev := dev }

/-- A sequence space set. -/
def setSpace (s : State) (x : Space) : State :=
  onNet s fun n => { n with spaces := n.spaces.filter (fun y => !(y.ctx = x.ctx && y.dev = x.dev)) ++ [x] }

/-- The requests of a space that are outstanding. -/
def spaceOuts (s : State) (ctx dev : Nat) : List Out :=
  s.net.outs.filter fun o => o.f.srcCtx = ctx && issuedFor o.f = dev && kindOf o.f.typ ≠ 3

/-- A fresh SYNC is due (R213): the first request, after UNKNOWN_OUTCOME, or after 524,288 pt without sending. -/
def syncDue (s : State) (x : Space) : Bool := x.needSync || x.lastPt + 524288 ≤ s.clk.pilot

/-- Whether a request of the space may be sent now: number n − 256 of the space is not outstanding (R210); a fresh SYNC
goes only while none is outstanding, and requests behind it wait for its answer (R213). -/
def maySend (s : State) (ctx dev : Nat) : Bool :=
  let x := spaceOf s ctx dev
  let os := spaceOuts s ctx dev
  if syncDue s x then os.isEmpty
  else os.all (fun o => !o.f.sync) && os.all fun o => o.f.seq ≠ x.next - 256

/-- The frame goes out as request number `nextOut`, in fragments where its payload needs them (R216, R218). -/
def transmit (s : State) (o : Out) : State :=
  let fs := match pickLink s o.f with
    | some l => fragSize (payloadLimit s l)
    | none => 4096
  forAll (fragment fs o.f) (fun s f => (route s f).1) s

/-- A fabric request of this module sent with the next number of its space (R210, R213, R216, R221), or held until it may
be sent. SEQ of an unsequenced request is the request's own number, by which its response is known (log 30). -/
def sendFabric (s : State) (f : Frame) (who : Issuer) : State :=
  if kindOf f.typ = 3 then
    let o : Out := { num := s.net.nextOut, f := { f with seq := BitVec.ofNat 32 s.net.nextOut }, issuer := who,
                     sentPt := s.clk.pilot }
    transmit (onNet s fun n => { n with outs := n.outs ++ [o], nextOut := n.nextOut + 1 }) o
  else if maySend s f.srcCtx (issuedFor f) then
    let x := spaceOf s f.srcCtx (issuedFor f)
    let f1 := { f with seq := x.next, sync := syncDue s x }
    let o : Out := { num := s.net.nextOut, f := f1, issuer := who, sentPt := s.clk.pilot }
    let s0 := match who with
      | .partner r => onLeg s r.f.srcCtx r.f.seq fun l => { l with fseq := some f1.seq }
      | _ => s
    let s1 := setSpace s0 { x with next := x.next + 1, lastPt := s.clk.pilot, needSync := false }
    transmit (onNet s1 fun n => { n with outs := n.outs ++ [o], nextOut := n.nextOut + 1 }) o
  else onNet s fun n => { n with waitSync := n.waitSync ++ [(issuedFor f, f, who)] }

/-- Requests held for their space are tried again, in order. -/
def releaseHeld (s : State) : State :=
  let w := s.net.waitSync
  forAll w (fun s x => sendFabric s x.2.1 x.2.2) (onNet s fun n => { n with waitSync := [] })

/-- The epoch this module last learned for a cell (R221). -/
def epochOf (s : State) (cell : Nat) : Nat :=
  if cell = s.boot.cell then ownEpoch s else tget 0 s.net.epochs cell % 256

/-- The header of a fabric request of this module to the owner of an MPA (R201, R215, R221). -/
def fabricHead (s : State) (ctx job typ tag : Nat) (jva mpa : W64) : Frame :=
  let dev := mpaDev mpa.toNat
  { typ := typ, leg := true, tc := if isTc7 typ then 7 else 0, dstDev := dev, srcDev := selfDev s, srcCtx := ctx,
    job := job, cell := dev / 64, epoch := epochOf s (dev / 64), tag := tag, jva := jva, mpa := mpa }

end Sys2Proof.Machine
end

