-- ==== Sys2Proof/Machine/Journal.lean ====
section
/-! DEFINITION. The journal of R350, entry by entry, and the one operation that answers a request and ends it (R202, R211). The
encoding of an entry is the model's own (log 41). -/

namespace Sys2Proof.Machine

/-! ## CELL frames (R341) -/

/-- Device ID of a cell position. -/
def posDev (s : State) (p : Nat) : Nat := s.boot.cell * 64 + p

/-- A CELL frame (R341). -/
def cellFrame (s : State) (dev cop : Nat) : Frame :=
  { typ := tCell, leg := true, tc := 7, dstDev := dev, srcDev := selfDev s, cell := dev / 64,
    epoch := epochOf s (dev / 64), opa := BitVec.ofNat 64 (cop + 256 * (if s.boot.role = 1 && !s.cell.served then 0x3F else s.boot.pos)),
    opb := BitVec.ofNat 64 s.cell.map.epoch }

/-- The next update number toward a receiver (R341). -/
def nextUpd (s : State) (dev : Nat) : Nat := tget 0 s.cell.updNext dev

/-- A CELL frame that carries an update number, and the state that has issued it. -/
def updFrame (s : State) (dev cop : Nat) : Frame × State :=
  let u := nextUpd s dev
  let f := cellFrame s dev cop
  ({ f with opb := f.opb + BitVec.ofNat 64 (u * 2 ^ 32) },
    onCell s fun c => { c with updNext := tput 0 c.updNext dev ((u + 1) % 2 ^ 32) })

/-! ## The journal (R350) -/

/-- BUDDY of a position in a cell of `n` positions (R339). -/
def buddyOf (n p : Nat) : Nat := if p.xor 1 < n then p.xor 1 else p - 1

/-- An extent table entry, but for what is no part of the journal. -/
def extBytes (e : Ext) : List Byte :=
  natLe 1 e.state ++ natLe 1 (b2n e.dense + 2 * e.prot + 8 * b2n e.vpool) ++ natLe 1 e.rowgrp ++ natLe 1 e.pos ++ natLe 4 e.job ++
    natLe 4 e.leaseNo ++ natLe 2 e.holderDev ++ natLe 2 e.holderCtx ++ natLe 4 e.gen ++ natLe 4 e.term

/-- The entry from its bytes; an extent whose lease was live has its lease. -/
def extFrom (bs : List Byte) : Ext :=
  let f := leAt bs 1 1
  { state := leAt bs 0 1, dense := tbit f 0, prot := fld f 1 2, vpool := tbit f 3, rowgrp := leAt bs 2 1, pos := leAt bs 3 1
    job := leAt bs 4 4, leaseNo := leAt bs 8 4, holderDev := leAt bs 12 2, holderCtx := leAt bs 14 2, gen := leAt bs 16 4
    term := leAt bs 20 4 }

/-- A snapshot lease with its term and holder. -/
def snapBytes (l : SLease) : List Byte :=
  natLe 4 l.no ++ natLe 4 l.job ++ natLe 2 l.dev ++ natLe 2 l.ctx ++ natLe 4 l.region ++ natLe 4 l.version ++ natLe 4 l.term

/-- The snapshot lease from its bytes. -/
def snapFrom (bs : List Byte) : SLease :=
  { no := leAt bs 0 4, job := leAt bs 4 4, dev := leAt bs 8 2, ctx := leAt bs 10 2, region := leAt bs 12 4,
    version := leAt bs 16 4, term := leAt bs 20 4 }

/-- A version with its block pointer. -/
def verBytes (v : Version) : List Byte :=
  natLe 4 v.num ++ natLe 1 (b2n v.lost + 2 * b2n v.block.isSome) ++ natLe 6 (v.block.getD 0)

/-- The version from its bytes. -/
def verFrom (bs : List Byte) : Version :=
  { num := leAt bs 0 4, lost := tbit (leAt bs 4 1) 0, block := if tbit (leAt bs 4 1) 1 then some (leAt bs 5 6) else none }

/-- A region with its versions. -/
def regionBytes (r : Region) : List Byte :=
  natLe 4 r.job ++ natLe 1 (b2n r.exported + 2 * b2n r.destroying) ++ natLe 4 r.current ++ r.versions.flatMap verBytes

/-- The region from its bytes. -/
def regionFrom (bs : List Byte) : Region :=
  { job := leAt bs 0 4, exported := tbit (leAt bs 4 1) 0, destroying := tbit (leAt bs 4 1) 1, current := leAt bs 5 4
    versions := (chunks 11 256 (bs.drop 9)).map verFrom }

/-- Number of a journal entry: its kind (0 row-group mode, 1 job, 2 extent, 3 snapshot lease, 4 region, 5 an extent
that is being zeroed) and its own number. -/
def jKey (kind n : Nat) : Nat := kind * 2 ^ 32 + n

/-- What this member's journal holds when it is up to date (R350): an entry that is not listed is empty. -/
def journalTab (s : State) : Tab (List Byte) :=
  let a := forAll s.ext.rowModes (fun t e => tput [] t (jKey 0 e.1) (natLe 1 e.2)) []
  let b := forAll s.trn.jobs (fun t e => tput [] t (jKey 1 e.1) (natLe 64 e.2.toNat)) a
  let c := forAll s.ext.tab (fun t e => tput [] t (jKey 2 e.1) (extBytes e.2)) b
  let d := forAll s.ext.snaps (fun t l => tput [] t (jKey 3 l.no) (snapBytes l)) c
  let z := forAll s.ext.zeroing (fun t e => match e.2 with
    | some j => tput [] t (jKey 5 e.1) (natLe 4 j.1 ++ natLe 4 j.2)
    | none => t) d
  forAll s.ext.regions (fun t e => match e.2 with
    | some r => tput [] t (jKey 4 e.1) (regionBytes r)
    | none => t) z

/-- A live member, or a spare that serves, whose BUDDY holds its journal. -/
def journalOn (s : State) : Bool :=
  s.cell.journalOk && s.boot.phase = 11 && s.cell.map.epoch ≠ 0 && (s.boot.role = 0 || s.cell.served)

/-- Every entry that has changed since it was sent goes to the BUDDY (R350). -/
def syncJournal (s : State) : State :=
  if !journalOn s then s
  else
    let new := journalTab s
    let old := s.cell.journaled
    let changed := (new.filter fun e => tget [] old e.1 ≠ e.2) ++
      (old.filter fun e => tget [] new e.1 = []).map fun e => (e.1, [])
    let dev := posDev s (buddyOf s.cell.map.nmem s.boot.pos)
    forAll changed (fun s e =>
      let (f, s1) := updFrame s dev 0x0C
      let s2 := onCell s1 fun c => { c with journaled := tput [] c.journaled e.1 e.2, journalSent := c.journalSent + 1 }
      sendFabric s2 { f with jva := BitVec.ofNat 64 e.1, payload := e.2, len := e.2.length } (.journal s2.cell.journalSent)) s

/-! ## Answering -/

/-- A request no longer counts in its extent's ADMITTED (R310, R314). -/
def endAdmitted (s : State) (r : Req) : State :=
  if r.adm then onExt s fun x => { x with
    tab := tmod {} x.tab (lpaExt (mpaLpa r.f.mpa.toNat)) fun e => { e with admitted := e.admitted - 1 } }
  else s

/-- The device's own write to a line of its memory, ordered like any other (R285): it has no sender to answer. -/
def isInternal (f : Frame) : Bool := f.srcCtx = 0xFFFF

/-- A request that came here by a forward and was served is answered MOVED with this module in HINT (R202, R222). -/
def movedAnswer (s : State) (f : Frame) (a : Answer) : Answer :=
  if f.fwd && (a.status = stOk || a.status = stMoved) then
    { a with
      status := stMoved, hint := BitVec.ofNat 64 (selfDev s + s.boot.cell * 2 ^ 56),
      info := if a.info = 0 then BitVec.ofNat 64 s.cell.map.epoch else a.info }
  else a

/-- A request is answered (R202, R211): its window is settled, its counts in fences and in its extent end, and the
response leaves. -/
def answerNow (s : State) (r : Req) (a0 : Answer) : State :=
  let s0 := endAdmitted s r
  let a := movedAnswer s r.f a0
  if isInternal r.f then s0
  else
    let s1 :=
      if kindOf r.f.typ = 3 then s0
      else if r.f.leg then onFwin s0 r.f fun w => settleSeen w r.f.seq a
      else endLeg (onPwin s0 r.f.srcCtx fun w => settleSeen w r.f.seq a) r.f a.status
    sendResponse s1 r a

/-- A request is answered; one whose effect the journal must show is answered once the BUDDY holds it (R350). -/
def answer (s : State) (r : Req) (a : Answer) : State :=
  if r.f.typ = tLease || r.f.typ = tSnap || r.f.typ = tPublish then
    let s1 := syncJournal s
    if s1.cell.journalSent = s.cell.journalSent then answerNow s1 r a
    else onCell s1 fun c => { c with journalWait := c.journalWait ++ [(r, a, c.journalSent)] }
  else answerNow s r a

/-- Answered with a status alone. -/
def refuse (s : State) (r : Req) (st : Nat) : State := answer s r (plain st)

/-- Answered without a window: a request that was not admitted (R200, R203, R223). -/
def turnAway (s : State) (r : Req) (st : Nat) : State := sendResponse s r (plain st)


end Sys2Proof.Machine
end

