-- ==== Sys2Proof/Machine/Filter.lean ====
section
/-! DEFINITION. The home slices' snoop filters (R281, R287 to R291): who holds a line, the ways that entries take, and
the agents. Lines are named by their number, LPA / 64. -/

namespace Sys2Proof.Machine

/-- The Hearth of a line. -/
def lineHearth (l : Nat) : Nat := lpaHearth (l * 64)

/-- A home slice. -/
def sliceAt (s : State) (h : Nat) : HSlice := tget {} s.home.slices h

/-- A home slice changed. -/
def onSlice (s : State) (h : Nat) (f : HSlice → HSlice) : State :=
  onHome s fun x => { x with slices := tmod {} x.slices h f }

/-- A coherence counter of a Hearth counts `n` more (R308). -/
def countCoh (s : State) (h c : Nat) (n : Nat := 1) : State :=
  onSlice s h fun x => { x with ctr := tmod 0 x.ctr c fun v => satInc 64 v n }

/-- The filter entry of a line. -/
def entryOf (s : State) (l : Nat) : Option FEntry := (sliceAt s (lineHearth l)).filter.find? (·.line = l)

/-- The home state of a line; none is I (R287). -/
def homeOf (s : State) (l : Nat) : Option HomeSt := (entryOf s l).map (·.st)

/-- The owner of a line in X. -/
def ownerOf (s : State) (l : Nat) : Option Holder :=
  match homeOf s l with
  | some (.x o) => some o
  | _ => none

/-- The ways an entry takes (R288). -/
def waysOf : HomeSt → Nat
  | .s hs => if hs.length ≤ 2 then 1 else 2
  | .sc _ => 2
  | .x _ => 1

/-- The set of a line: LPA[20:6] (R288). -/
def setOf (l : Nat) : Nat := l % 2 ^ 15

/-- The filter entries of a line's set. -/
def setEntries (s : State) (l : Nat) : List FEntry :=
  (sliceAt s (lineHearth l)).filter.filter fun e => setOf e.line = setOf l

/-- Way `w` of a line's set is taken by an entry other than the line's own. -/
def wayTaken (s : State) (l w : Nat) : Bool :=
  (setEntries s l).any fun e => e.line ≠ l && e.way ≤ w && w < e.way + waysOf e.st

/-- A free way, or a free pair's first way, for an entry of `n` ways; its own place is kept where it fits. -/
def freeWay (s : State) (l n : Nat) : Option Nat :=
  let own := match entryOf s l with
    | some e => [if n = 1 then e.way else e.way / 2 * 2]
    | none => []
  let cands := own ++ (if n = 1 then List.range 16 else upTo 8 (2 * ·))
  cands.find? fun w => (List.range n).all fun k => !wayTaken s l (w + k)

/-- Filter ways in use in a Hearth (R291, R308). -/
def waysInUse (s : State) (h : Nat) : Nat := ((sliceAt s h).filter.map fun e => waysOf e.st).sum

/-- The line's entry set, with its allocation order; an S entry without holders, or an SC entry without positions, is I. -/
def setHome (s : State) (l : Nat) (st : Option HomeSt) : State :=
  let drop := match st with
    | none => true
    | some (.s []) => true
    | some (.sc v) => v = 0
    | some _ => false
  let rest := fun (x : HSlice) => x.filter.filter (·.line ≠ l)
  match st with
  | none => onSlice s (lineHearth l) fun x => { x with filter := rest x }
  | some v =>
    if drop then onSlice s (lineHearth l) fun x => { x with filter := rest x }
    else
      let way := (freeWay s l (waysOf v)).getD 0
      let keep := match entryOf s l with
        | some e => if e.way = way && waysOf e.st = waysOf v then some e.alloc else none
        | none => none
      onSlice s (lineHearth l) fun x => { x with
        filter := rest x ++ [{ line := l, st := v, way := way, alloc := keep.getD x.nextAlloc }],
        nextAlloc := if keep.isSome then x.nextAlloc else x.nextAlloc + 1 }

/-! ## Agents -/

/-- The cell position of an agent. -/
def agentPos (a : Nat) : Nat := a / 128

/-- The agent ID of a request's sender (R281). -/
def agentOf (s : State) (f : Frame) : Option Nat :=
  if f.srcLink < 96 && f.srcDev / 64 = s.boot.cell && f.srcDev ≠ 0x3FFF then some (f.srcDev % 64 * 128 + f.srcLink) else none

/-- The agents that a home state records by name. -/
def holdersOf : Option HomeSt → List Holder
  | some (.s hs) => hs
  | some (.x o) => [o]
  | _ => []

/-- The positions marked in a coarse vector. -/
def markedPos (v : BitVec 64) : List Nat := (List.range 64).filter fun p => v.getLsbD p

/-- The line is recorded as held by the agent. -/
def holds (s : State) (l a : Nat) : Bool := (holdersOf (homeOf s l)).any (·.agent = a)

/-- The agent taken off a line without a snoop. -/
def removeHolder (s : State) (l a : Nat) : State :=
  match homeOf s l with
  | some (.s hs) => setHome s l (some (.s (hs.filter (·.agent ≠ a))))
  | some (.x o) => if o.agent = a then setHome s l none else s
  | _ => s

/-- The agent with one more mark in an SC vector, or one more name in an S list (R289). A fifth holder turns S into SC. -/
def addSharer (st : Option HomeSt) (r : Holder) : HomeSt :=
  match st with
  | some (.sc v) => .sc (v ||| BitVec.ofNat 64 (2 ^ agentPos r.agent))
  | some (.s hs) =>
    let hs' := hs.filter (·.agent ≠ r.agent) ++ [r]
    if hs'.length ≤ 4 then .s hs'
    else .sc (hs'.foldl (fun v h => v ||| BitVec.ofNat 64 (2 ^ agentPos h.agent)) 0)
  | some (.x o) => if o.agent = r.agent then .s [r] else .s [o, r]
  | none => .s [r]

/-- An agent is cut off (R305): its mark lasts 1,048,576 pt. -/
def isCutOff (s : State) (a : Nat) : Bool :=
  match tget none s.home.cutoff a with
  | some t => s.clk.pilot < t
  | none => false

/-- The coherence context of a link: the first context opened on it (R282). -/
def cohCtx (s : State) (link : Nat) : Option (Nat × Ctx) := s.ctx.find? fun e => e.2.isOpen && e.2.coh && e.2.link = link

/-- A caching agent stands on a link: native or Forerunner coherence was negotiated and its coherence context is open
(R281, R282). -/
def hasAgent (s : State) (link : Nat) : Bool :=
  link < 96 && (match (linkOf s link).hello with
    | some h => tbit h.features 3 || tbit h.features 4
    | none => false) && (cohCtx s link).isSome

/-- The line's active transaction. -/
def txOf (s : State) (l : Nat) : Option Tx := (sliceAt s (lineHearth l)).txs.find? (·.line = l)

/-- The row lock that covers a line. -/
def lockOf (s : State) (l : Nat) : Option RowLock :=
  (sliceAt s (lineHearth l)).locks.find? fun k => k.lines.contains l

/-- The line's transaction changed. -/
def onTx (s : State) (l : Nat) (f : Tx → Tx) : State :=
  onSlice s (lineHearth l) fun x => { x with txs := updFirst (·.line = l) f x.txs }

/-- A free tracker of a slice (R285, R286). -/
def trackerFree (s : State) (l : Nat) : Bool := (sliceAt s (lineHearth l)).txs.length < 4096

end Sys2Proof.Machine
end

