-- ==== Sys2Proof/Machine/Trn.lean ====
section
/-! DEFINITION. Job-table entries (R258), the decisions of a walk (R264 to R267), the translation cache (R268) and
translations that raise no fault. -/

namespace Sys2Proof.Machine

/-! ## Job table -/

/-- Field of a job-table entry. -/
def jobFld (e : BitVec 512) (lo w : Nat) : Nat := fld e.toNat lo w

def jobValid (e : BitVec 512) : Bool := e.getLsbD 4
def jobId (e : BitVec 512) : Nat := jobFld e 16 20
def jobSv57 (e : BitVec 512) : Bool := jobFld e 8 4 = 0xA
def jobAdUpd (e : BitVec 512) : Bool := e.getLsbD 12
def jobRemote (e : BitVec 512) : Bool := e.getLsbD 13
def jobRemap (e : BitVec 512) : Bool := e.getLsbD 14
def jobFuncs (e : BitVec 512) : Nat := jobFld e 40 7
def jobQuota (e : BitVec 512) : Nat := jobFld e 48 11
def jobRoot (e : BitVec 512) : Nat := jobFld e 64 44
def jobRing (e : BitVec 512) : Nat := jobFld e 128 64
def jobRingSlots (e : BitVec 512) : Nat := jobFld e 192 11
def jobTto (e : BitVec 512) : Nat := jobFld e 208 16
def jobPapBase (e : BitVec 512) : Nat := jobFld e 224 44
def jobPapPages (e : BitVec 512) : Nat := jobFld e 288 32

/-- Number and contents of the entry that admits a job: VALID with that job ID (R258, R261 check 3). -/
def jobEntry (s : State) (job : Nat) : Option (Nat × BitVec 512) :=
  s.trn.jobs.find? fun e => jobValid e.2 && jobId e.2 = job

/-- The functions of FUNCS, in its bit order (R258). -/
def fnMove : Nat := 0
def fnEmbed : Nat := 1
def fnSearch : Nat := 2
def fnDecode : Nat := 3
def fnTier : Nat := 4
def fnSnap : Nat := 5
def fnKernel : Nat := 6

/-- A function is enabled for a job (R259). -/
def funcEnabled (s : State) (job f : Nat) : Bool :=
  match jobEntry s job with
  | some (_, e) => tbit (jobFuncs e) f && tbit s.auth.funcs f
  | none => false

/-- Translation timeout in Pilot ticks (R258, R273). -/
def ttoPt (s : State) (job : Nat) : Nat :=
  match jobEntry s job with
  | some (_, e) => (if jobTto e = 0 then s.cfg.ttoMs else jobTto e) * 1024
  | none => s.cfg.ttoMs * 1024

/-- Physical page number `p` lies in the job's partner aperture (R260). -/
def inAperture (e : BitVec 512) (p : Nat) : Bool := jobPapBase e ≤ p && p < jobPapBase e + jobPapPages e

/-! ## Cache -/

/-- A translation counter counts one more (R279). -/
def countTrn (s : State) (c : Nat) (n : Nat := 1) : State :=
  onTrn s fun t => { t with ctr := tmod 0 t.ctr c fun v => satInc 64 v n }

/-- A leaf entry of the cache covers a JVA of a job. -/
def leafCovers (job jva : Nat) (l : Leaf) : Bool := l.job = job && jva / 2 ^ l.lg = l.vpn

/-- The cached leaf for a JVA. -/
def cachedLeaf (s : State) (job jva : Nat) : Option Leaf := s.trn.leaves.find? (leafCovers job jva)

/-- The MPA that a leaf gives a JVA. -/
def leafMpa (l : Leaf) (jva : Nat) : Nat := l.page + jva % 2 ^ l.lg

/-- A leaf enters the cache as the most recently used; the least recently used leave when the cache is full (R268). -/
def fillLeaf (s : State) (l : Leaf) : State :=
  onTrn s fun t => { t with
    leaves := (l :: t.leaves.filter fun x => !(x.job = l.job && x.lg = l.lg && x.vpn = l.vpn)).take
      (65536 - t.nonleaves.length) }

/-- The leaf becomes the most recently used. -/
def touchLeaf (s : State) (l : Leaf) : State := onTrn s fun t => { t with leaves := l :: t.leaves.filter (· ≠ l) }

/-- A non-leaf entry enters the cache, which holds at most 8,192 of them (R268). -/
def fillNonLeaf (s : State) (x : NonLeaf) : State :=
  onTrn s fun t => { t with
    nonleaves := (x :: t.nonleaves.filter fun y => !(y.job = x.job && y.level = x.level && y.prefx = x.prefx)).take 8192 }

/-- Bits of a JVA above the part that the table at level `lv` indexes: the tag of a non-leaf entry that names it. -/
def jvaPrefix (jva lv : Nat) : Nat := fld jva (12 + 9 * (lv + 1)) (45 - 9 * lv)

/-- Where a walk of a JVA starts: the lowest table that the cache names, else the root (R265, R268). -/
def walkStart (s : State) (e : BitVec 512) (jva : Nat) : Nat × Nat :=
  let top := if jobSv57 e then 4 else 3
  match (List.range top).find? (fun lv => s.trn.nonleaves.any fun x =>
      x.job = jobId e && x.level = lv && x.prefx = jvaPrefix jva lv) with
  | some lv =>
    match s.trn.nonleaves.find? (fun x => x.job = jobId e && x.level = lv && x.prefx = jvaPrefix jva lv) with
    | some x => (lv, x.ppn)
    | none => (top, jobRoot e)
  | none => (top, jobRoot e)

/-- Canonical under the job's mode: the bits above the virtual address repeat its highest bit (R265 step 1). -/
def canonical (e : BitVec 512) (jva : Nat) : Bool :=
  let n := if jobSv57 e then 56 else 47
  jva / 2 ^ n = 0 || jva / 2 ^ n = 2 ^ (64 - n) - 1

/-! ## The walk's decisions -/

/-- What one table entry decides (R265 steps 2 to 6). -/
inductive PteStep where
  | stop (cause : Nat)
  | descend (ppn : Nat)
  | leaf (l : Leaf)
deriving DecidableEq, Repr

/-- The leaf that an entry at a level names for a JVA; a leaf above 1 GiB gives its 1 GiB piece (R268). -/
def leafFrom (job jva lv pte : Nat) : Leaf :=
  let ppn := fld pte 10 44
  let n := tbit pte 63
  let lg := if n then 16 else if 2 ≤ lv then 30 else 12 + 9 * lv
  let base := if n then ppn / 16 * 16 * 4096 else ppn * 4096
  { job := job, lg := lg, vpn := jva / 2 ^ lg, page := base + (if 3 ≤ lv then jva % 2 ^ (12 + 9 * lv) / 2 ^ 30 * 2 ^ 30 else 0),
    r := tbit pte 1, w := tbit pte 2, x := tbit pte 3, u := tbit pte 4, pbmt := fld pte 61 2, a := tbit pte 6, d := tbit pte 7 }

/-- One entry at level `lv` (R265). -/
def pteStep (job jva lv pte : Nat) : PteStep :=
  let v := tbit pte 0; let r := tbit pte 1; let w := tbit pte 2; let x := tbit pte 3; let n := tbit pte 63
  let isLeaf := r || x
  if !v || (w && !r) then .stop 1
  else if fld pte 54 7 ≠ 0 || fld pte 61 2 = 3 || (n && !isLeaf) then .stop 4
  else if !isLeaf then (if lv = 0 then .stop 4 else .descend (fld pte 10 44))
  else if 0 < lv && fld pte 10 (9 * lv) ≠ 0 then .stop 5
  else if n && !(lv = 0 && fld pte 10 4 = 8) then .stop 4
  else .leaf (leafFrom job jva lv pte)

/-- What a leaf says of an access, A and D apart (R260, R264, R266): the access may go, is answered DENIED (IO), or faults
with a cause. PBMT is judged first (R266). -/
inductive LeafJudge where
  | ok | io | cause (c : Nat)
deriving DecidableEq, Repr

/-- The rights of R264 for an access: 0 read, 1 write, 2 atomic, 3 code read. -/
def leafJudge (e : BitVec 512) (l : Leaf) (mpa acc : Nat) : LeafJudge :=
  if l.pbmt = 2 then .io
  else if inAperture e (mpa / 4096) then .cause 6
  else if l.u && l.r && (acc = 0 || (acc = 3 && l.x) || ((acc = 1 || acc = 2) && l.w)) then .ok
  else .cause 2

/-- The access needs an A or D update of the leaf (R267). -/
def needsAd (l : Leaf) (acc : Nat) : Bool := !l.a || ((acc = 1 || acc = 2) && !l.d)

/-! ## Reading a table entry -/

/-- Where an extent has gone: device and LPA extent number of its forwarding entry (R222). -/
def forwardOf (s : State) (a : Nat) : Option (Nat × Nat) := tget none s.ext.fwd (lpaExt a)

/-- The extent of an LPA admits walker requests of a job: ASSIGNED, LEASED or REVOKING with that job (R261). -/
def admitsWalker (s : State) (a job : Nat) : Bool :=
  let e := extOf s a
  (e.state = 2 || e.state = 3 || e.state = 4) && e.job = job

/-- What reading one table entry meets. -/
inductive TableRead where
  | entry (v : Nat)
  | poison
  | denied
  | blocked (line : Nat)
  | remote (mpa : Nat)
deriving DecidableEq, Repr

/-- The line cannot be read yet: an owner must be snooped, a transaction or a row lock is under way, or a protected line
is to be re-formed (R44, R285, R295). -/
def readBlocked (s : State) (l : Nat) : Bool :=
  (txOf s l).isSome || (lockOf s l).isSome || (ownerOf s l).isSome || (protOf s (l * 64) ≠ 0 && !s.mem.lost.contains l &&
    (isPoisoned s l || (s.cell.units.contains (l / 1024) && !s.cell.freshLines.contains l)))

/-- The 8 bytes of the table entry at an MPA, for a job's walk (R260, R265). Lines of other modules are looked up among
those that came in answer to walker reads. -/
def tableRead (s : State) (job : Nat) (e : BitVec 512) (mpa : Nat) : TableRead :=
  if inAperture e (mpa / 4096) then .denied
  else
    let fetched := fun m => match s.trn.tableLines.find? (·.1 = m / 64 * 64) with
      | some x => if x.2.length = 1 then (if leNat x.2 = stPoison then TableRead.poison else .denied)
        else .entry (leAt x.2 (m % 64) 8)
      | none => .remote m
    if mpaDev mpa = selfDev s then
      let a := mpaLpa mpa
      if extPresent s a && (extOf s a).state ≠ 6 then
        if !admitsWalker s a job then .denied
        else if readBlocked s (lineOf a) then .blocked (lineOf a)
        else if isPoisoned s (lineOf a) then .poison
        else .entry (readNat s a 8)
      else match forwardOf s a with
        | some (dev, ext) => fetched (dev * 2 ^ 42 + ext * 2 ^ 30 + a % 2 ^ 30)
        | none => .denied
    else fetched mpa

/-- The MPA of the entry for a JVA in the table page `ppn` of level `lv`. -/
def entryMpa (ppn jva lv : Nat) : Nat := ppn * 4096 + 8 * fld jva (12 + 9 * lv) 9

/-! ## Translations without a fault -/

/-- The outcome of a walk that raises no fault: a leaf with the level and entry read last, a stop, or what must come
first. `fills` are non-leaf entries read on the way, `reads` the table lines read. -/
inductive WalkEnd where
  | leaf (l : Leaf) (level pte entryMpa : Nat)
  | stop (cause level pte : Nat)
  | need (r : TableRead)
deriving DecidableEq, Repr

/-- A walk from the table `ppn` of level `lv` (R265). -/
def walkFrom (s : State) (e : BitVec 512) (jva : Nat) : Nat → Nat → WalkEnd × List NonLeaf × Nat
  | lv, ppn =>
    let m := entryMpa ppn jva lv
    match tableRead s (jobId e) e m with
    | .entry v =>
      match pteStep (jobId e) jva lv v with
      | .stop c => (.stop c lv v, [], 1)
      | .leaf l => (.leaf l lv v m, [], 1)
      | .descend p =>
        match lv with
        | 0 => (.stop 4 0 v, [], 1)
        | k + 1 =>
          let (r, fs, n) := walkFrom s e jva k p
          (r, { job := jobId e, level := k, prefx := jvaPrefix jva k, ppn := p } :: fs, n + 1)
    | .poison => (.stop 7 lv 0, [], 1)
    | .denied => (.stop 4 lv 0, [], 0)
    | r => (.need r, [], 0)
termination_by structural lv => lv

/-- The outcome of a translation that raises no fault. -/
inductive Xl where
  | ok (mpa : Nat) (l : Leaf)
  | none' (cause : Nat)
  | bad (status : Nat)
  | need (r : TableRead)
deriving DecidableEq, Repr

/-- A leaf judged for an access that ignores A and D. -/
def xlLeaf (e : BitVec 512) (l : Leaf) (jva acc : Nat) : Xl :=
  match leafJudge e l (leafMpa l jva) acc with
  | .ok => .ok (leafMpa l jva) l
  | .io => .bad stDenied
  | .cause c => .none' c

/-- A translation by the cache or by a walk that neither raises a fault nor updates A or D, with the state in which the
cache holds what was read (R262, R268, R277). -/
def xlate (s : State) (job jva acc : Nat) : Xl × State :=
  match jobEntry s job with
  | none => (.bad stDenied, s)
  | some (_, e) =>
    if !canonical e jva then (.bad stMalformed, s)
    else
      let s := countTrn s 0
      match cachedLeaf s job jva with
      | some l => (xlLeaf e l jva acc, touchLeaf s l)
      | none =>
        let st := walkStart s e jva
        let (r, fs, n) := walkFrom s e jva st.1 st.2
        match r with
        | .need t => (.need t, s)
        | .stop c _ _ => (.none' c, countTrn (countTrn (forAll fs fillNonLeaf s) 1) 2 n)
        | .leaf l _ _ _ =>
          (xlLeaf e l jva acc, fillLeaf (countTrn (countTrn (forAll fs fillNonLeaf s) 1) 2 n) l)

/-- Every leaf of a job that overlaps a range of JVAs, and every non-leaf entry of the job, leaves the cache; a walk of
the job that is running will walk again (R274). -/
def invalRange (s : State) (job lo hi : Nat) : State :=
  onTrn s fun t => { t with
    leaves := t.leaves.filter fun l => !(l.job = job && l.vpn * 2 ^ l.lg < hi && lo < (l.vpn + 1) * 2 ^ l.lg),
    nonleaves := t.nonleaves.filter (·.job ≠ job),
    walks := t.walks.map fun w => if w.job = job then { w with stale := true } else w }

end Sys2Proof.Machine
end

