-- ==== Sys2Proof/Machine/Meter.lean ====
section
/-! DEFINITION. Metering as work is done (R446 to R449): counters of a job's record and the weighted activity of the
interval. -/

namespace Sys2Proof.Machine

/-- Weight of one operation of a format in units of 1/8 pJ (R449). -/
def opWeight (f : Nat) : Nat :=
  if f = 0 then 16 else if f ≤ 2 then 4 else if f = 3 || f = 4 || f = 7 || f = 8 then 2 else 1

/-- Weight of one counted unit of counter `c`: 12 pJ per T1 byte, 8 pJ per T2 byte, else none (R449). -/
def ctrWeight (c : Nat) : Nat := if c = 1 then 96 else if c = 2 then 64 else 0

/-- A record's counter `c` raised by `n`. -/
def recAdd (r : MtrRec) (c n : Nat) : MtrRec := { r with ctr := tmod 0 r.ctr c fun v => satInc 64 v n }

/-- Counter `c` of a job's record raised by `n`; without an entry for the job, the unattributed record's (R446). -/
def meter (s : State) (job c n : Nat) : State :=
  match jobEntry s job with
  | some (i, _) => onMtr s fun m => { m with
      recs := tmod {} m.recs i fun r => recAdd r c n, act := tmod 0 m.act i (· + ctrWeight c * n) }
  | none => onMtr s fun m => { m with un := recAdd m.un c n, unAct := m.unAct + ctrWeight c * n }

/-- `n` units of counter `c` in the unattributed record (R448). -/
def meterUn (s : State) (c n : Nat) : State :=
  onMtr s fun m => { m with un := recAdd m.un c n, unAct := m.unAct + ctrWeight c * n }

/-- `n` operations of a format (R448). -/
def meterOps (s : State) (job f n : Nat) : State :=
  match jobEntry s job with
  | some (i, _) => onMtr s fun m => { m with
      recs := tmod {} m.recs i fun r => { r with ops := tmod 0 r.ops f fun v => satInc 64 v n },
      act := tmod 0 m.act i (· + opWeight f * n) }
  | none => s

end Sys2Proof.Machine
end

