-- ==== Sys2Proof/Machine/Tier0.lean ====
section
/-! DEFINITION. Tier 0 (R53 to R59): residence of tiles, promotion, the clock hand, hot tiles and borrowed copies. The
bytes of a line are held once, in `Mem.cells`: tier 0 never changes what a line holds (R60), but for the writes held
while a tile fills (R56). -/

namespace Sys2Proof.Machine

/-- The tier-0 slice of a Hearth. -/
def t0Slice (s : State) (h : Nat) : Slice := tget {} s.t0.slices h

/-- A tier-0 slice changed. -/
def onT0Slice (s : State) (h : Nat) (f : Slice → Slice) : State :=
  onT0 s fun t => { t with slices := tmod {} t.slices h f }

/-- Hearth of a tile number of the LPA. -/
def tileHearth (t : Nat) : Nat := lpaHearth (t * 16384)

/-- The tier-0 entry of a tile. -/
def t0Tile (s : State) (t : Nat) : Option T0Tile := (t0Slice s (tileHearth t)).tiles.find? (·.tile = t)

/-- A tile's tier-0 entry changed. -/
def onT0Tile (s : State) (t : Nat) (f : T0Tile → T0Tile) : State :=
  onT0Slice s (tileHearth t) fun x => { x with tiles := updFirst (·.tile = t) f x.tiles }

/-- The tier-0 quadrant of a Hearth is powered (R57): PD16 to PD19, one for two Hearths. -/
def quadrantOn (s : State) (h : Nat) : Bool := s.pwr.domains.getLsbD (16 + h / 2)

/-- The tile fills (R56). -/
def isFilling (s : State) (t : Nat) : Bool :=
  match t0Tile s t with
  | some { status := .filling _, .. } => true
  | _ => false

/-- Tier 0 serves the tile's lines: it is whole, or its write-back has not completed (R56). -/
def inTier0 (s : State) (t : Nat) : Bool :=
  match t0Tile s t with
  | some { status := .filling _, .. } => false
  | some _ => true
  | none => false

/-- Pinned tiles of a slice (R54). -/
def pinnedCount (x : Slice) : Nat := (x.tiles.filter (·.pinned)).length

/-- Places of the promotion pool (R54). -/
def poolSize (x : Slice) : Nat := 2048 - 256 - pinnedCount x

/-- Places of the pool in use: promoted tiles that are not on their way out, and borrowed copies (R53, R58). -/
def poolUsed (x : Slice) : Nat :=
  (x.tiles.filter fun t => !t.pinned && t.status ≠ .evicting).length + x.borrowed.length

/-- Tiles that count against a job's quota in a Hearth (R55, R58). -/
def quotaUsed (x : Slice) (job : Nat) : Nat :=
  (x.tiles.filter fun t => !t.pinned && t.status ≠ .evicting && t.job = job).length +
    (x.borrowed.filter (·.job = job)).length

/-- A job's tile quota in a Hearth: 0 means the pool's size (R55, R258). -/
def quotaOf (s : State) (x : Slice) (job : Nat) : Nat :=
  match jobEntry s job with
  | some (_, e) => if jobQuota e = 0 then poolSize x else jobQuota e
  | none => poolSize x

/-- The tiles that live handles name: they are never evicted (R116). -/
def heldTiles (s : State) : List Nat :=
  s.stv.items.flatMap fun it => it.threads.flatMap fun t => t.2.handles.filterMap fun h => match h.kind with
    | .home k => some k
    | _ => none

/-- The clock hand passes over the tiles from the head of the list: a candidate of age 0 is the victim, another loses one
of its age and goes to the end (R55). `only` confines it to one job's tiles; `kept` are held by handles (R116). -/
def clockHand (only : Option Nat) (kept : List Nat) : Nat → List T0Tile → Option (T0Tile × List T0Tile)
  | 0, _ => none
  | _, [] => none
  | n + 1, t :: ts =>
    let cand := !t.pinned && t.status = .whole && !kept.contains t.tile && (match only with | some j => t.job = j | none => true)
    if cand && t.age = 0 then some (t, ts)
    else clockHand only kept n (ts ++ [if cand then { t with age := t.age - 1 } else t])

/-- One tile evicted (R55, R56): a clean one is gone, a dirty one serves until its write-back completes. -/
def evictOne (s : State) (h : Nat) (only : Option Nat) : State × Bool :=
  let x := t0Slice s h
  match clockHand only (heldTiles s) (4 * x.tiles.length + 4) x.tiles with
  | some (v, rest) =>
    let s1 := if v.dirty then s else forAll v.under setPoison s
    (onT0Slice s1 h fun y => { y with tiles := if v.dirty then rest ++ [{ v with status := .evicting }] else rest }, true)
  | none => (s, false)

/-- Room for one more tile of a job in a Hearth, evicting if need be: a job at its quota evicts only its own (R55). -/
def makeT0Room (s : State) (h job : Nat) : State × Bool :=
  let x := t0Slice s h
  if quotaOf s x job ≤ quotaUsed x job then evictOne s h (some job)
  else if poolSize x ≤ poolUsed x then evictOne s h none
  else (s, true)

/-- A promotion begins (R55, R56): the tile starts to fill. Nothing happens where it is present, its quadrant is gated, or
no place can be made. -/
def promote (s : State) (t job : Nat) : State :=
  let h := tileHearth t
  if (t0Tile s t).isSome || !quadrantOn s h || !extPresent s (t * 16384) then s
  else match makeT0Room s h job with
    | (s1, true) =>
      onT0Slice s1 h fun x => { x with
        tiles := x.tiles ++ [{ tile := t, status := .filling s.clk.pilot, age := 3, job := job }] }
    | (s1, false) => s1

/-- A partner's line access counts in the Hearth's hot-tile table of 4,096 entries, and the sixteenth in one period
promotes the tile (R55); a page under NC is not counted (R266). -/
def countHot (s : State) (l job : Nat) (nc : Bool) : State :=
  let t := l / 256
  let h := lineHearth l
  let x := t0Slice s h
  let n := tget 0 x.hot t
  if nc || (t0Tile s t).isSome || (n = 0 && 4096 ≤ x.hot.length) then s
  else
    let s1 := onT0Slice s h fun y => { y with hot := tput 0 y.hot t (n + 1) }
    if n + 1 = 16 then promote s1 t job else s1

/-- An access to a tile that tier 0 serves gives it its full age again. -/
def touchT0 (s : State) (t : Nat) : State := if inTier0 s t then onT0Tile s t fun x => { x with age := 3 } else s

/-- A line access of a job is metered in the tier that serves it, `n` bytes (R448): 64 for a read, 128 for a read with the
write that follows it, whose DRAM read is queued here. -/
def meterLine (s : State) (l job n : Nat) : State :=
  let s1 := touchT0 s (l / 256)
  if inTier0 s (l / 256) then meter s1 job 0 n
  else meter (if n = 0 then s1 else queueDram s1 l false) job 1 n

/-- A write of a line metered: a whole line needs no read. -/
def meterStore (s : State) (l job : Nat) (full : Bool) : State :=
  if full then meter (touchT0 s (l / 256)) job (if inTier0 s (l / 256) then 0 else 1) 64 else meterLine s l job 128

/-- A job's borrowed copies in a Hearth: room for one more (R58). -/
def makeBorrowRoom (s : State) (h job : Nat) : State × Bool :=
  let x := t0Slice s h
  if 512 ≤ x.borrowed.length then
    match x.borrowed.find? (·.version) with
    | some b => (onT0Slice s h fun y => { y with borrowed := dropFirst (· == b) y.borrowed }, true)
    | none => (s, false)
  else makeT0Room s h job

end Sys2Proof.Machine
end

