-- ==== Sys2Proof/Machine/Items.lean ====
section
/-! DEFINITION. Access to contexts, windows, schedulers, work items and threads, and the flag changes that the home sees
(R87 to R96, R125). -/

namespace Sys2Proof.Machine

/-- A partner context. -/
def ctxOf (s : State) (c : Nat) : Ctx := tget {} s.ctx c

/-- A partner context changed. -/
def onCtxN (s : State) (c : Nat) (f : Ctx → Ctx) : State := onCtx s fun t => tmod {} t c f

/-- A context's window changed. -/
def onWin (s : State) (c : Nat) (f : Win → Win) : State := onCtxN s c fun x => { x with win := x.win.map f }

/-- The scheduler of a Hearth. -/
def schedOf (s : State) (h : Nat) : Sched := tget {} s.sched h

/-- The scheduler of a Hearth changed. -/
def onSchedN (s : State) (h : Nat) (f : Sched → Sched) : State := onSched s fun t => tmod {} t h f

/-- A TAKEN item. -/
def itemOf (s : State) (i : ItemId) : Option Item := s.stv.items.find? (·.id = i)

/-- An item changed. -/
def onItem (s : State) (i : ItemId) (f : Item → Item) : State :=
  onStv s fun x => { x with items := updFirst (·.id = i) f x.items }

/-- A thread of an item's crew. -/
def threadOf (s : State) (t : ThreadRef) : Thread :=
  match itemOf s t.item with
  | some it => tget {} it.threads t.n
  | none => {}

/-- A thread changed. -/
def onThread (s : State) (t : ThreadRef) (f : Thread → Thread) : State :=
  onItem s t.item fun it => { it with threads := tmod {} it.threads t.n f }

/-! ## Windows -/

/-- LPA of byte `o` of a window. -/
def winLpa (w : Win) (o : Nat) : Nat := nth 0 w.pages (o / 4096) + o % 4096

/-- LPA of byte 0 of slot `i` of a window: its flag byte (R87, R90). -/
def slotLpa (w : Win) (i : Nat) : Nat := winLpa w (256 * (i + 1))

/-- Bytes of a window (R87). -/
def winBytes (w : Win) : Nat := (w.nslots + 1) * 256

/-- The Hearth of a window. -/
def winHearth (w : Win) : Nat := lpaHearth (nth 0 w.pages 0)

/-- The place of a page of the window that holds an LPA. -/
def pageIndex (a : Nat) : List Nat → Nat → Option Nat
  | [], _ => none
  | p :: ps, i => if p / 4096 = a / 4096 then some i else pageIndex a ps (i + 1)

/-- The offset of an LPA in a window. -/
def winOffset (w : Win) (a : Nat) : Option Nat :=
  match pageIndex a w.pages 0 with
  | some i => if i * 4096 + a % 4096 < winBytes w then some (i * 4096 + a % 4096) else none
  | none => none

/-- The open window and slot whose flag line a line is: the home watches it (R95). -/
def flagLine (s : State) (l : Nat) : Option (Nat × Nat) :=
  s.ctx.findSome? fun e => match e.2.win with
    | some w =>
      if w.state ≠ 1 then none
      else match winOffset w (l * 64) with
        | some o => if o % 256 = 0 && 256 ≤ o then some (e.1, o / 256 - 1) else none
        | none => none
    | none => none

/-- Some window, whatever its state, holds the line. -/
def windowLine (s : State) (l : Nat) : Bool :=
  s.ctx.any fun e => match e.2.win with
    | some w => w.state ≠ 0 && (winOffset w (l * 64)).isSome
    | none => false

/-- The slot's queue entry wherever it stands. -/
def unqueue (x : Sched) (c i : Nat) : Sched :=
  { x with queue := x.queue.filter (fun q => !(q.ctx = c && q.slot = i)),
           pend := x.pend.filter (fun q => !(q.ctx = c && q.slot = i)) }

/-- Pending slots in window order, then slot order (R96). -/
def insertPend (q : QSlot) : List QSlot → List QSlot
  | [] => [q]
  | p :: ps => if q.ctx < p.ctx || (q.ctx = p.ctx && q.slot < p.slot) then q :: p :: ps else p :: insertPend q ps

/-- Pending slots enter the queue as entries free (R96). -/
def admitPend (x : Sched) : Sched :=
  { x with queue := x.queue ++ x.pend.take (4096 - x.queue.length), pend := x.pend.drop (4096 - x.queue.length) }

/-- A slot becomes POSTED (R95, R96): its detection count is the Pilot count; it is queued once, as detected last; a gated
Stove domain of the Hearth starts to return. -/
def detectPost (s : State) (c i : Nat) (w : Win) : State :=
  let h := winHearth w
  let q : QSlot := { ctx := c, slot := i, detect := s.clk.pilot % 2 ^ 32 }
  let s1 := onSchedN s h fun x =>
    let y := unqueue x c i
    if y.queue.length < 4096 && y.pend.isEmpty then { y with queue := y.queue ++ [q], running := true }
    else { y with pend := insertPend q y.pend, running := true }
  if s1.pwr.domains.getLsbD h || (tget none s1.pwr.returning h).isSome then s1
  else onPwr s1 fun p => { p with returning := tput none p.returning h (some s1.clk.pilot) }

/-- The items that run for a slot. -/
def slotItem (s : State) (c i : Nat) : Option Item := s.stv.items.find? fun it => it.ctx = c && it.slot = i

/-- CANCEL seen over POSTED or TAKEN (R95, R102). -/
def signalCancel (s : State) (c i h old : Nat) : State :=
  if old = 1 then
    onWin (onSchedN s h fun x => unqueue x c i) c fun w => { w with cancelQ := w.cancelQ ++ [i] }
  else match slotItem s c i with
    | some it => onItem s it.id fun x => { x with cancelled := true }
    | none => s

/-- The home examines the old and new flag byte of a write to a watched flag line (R95). -/
def examineFlag (s : State) (l old new : Nat) : State :=
  match flagLine s l with
  | none => s
  | some (c, i) =>
    match (ctxOf s c).win with
    | none => s
    | some w =>
      if old = new then s
      else if (old = 0 || old = 3 || old = 4) && new = 1 then detectPost s c i w
      else if (old = 1 || old = 2) && new = 5 then signalCancel s c i (winHearth w) old
      else if old = 1 || old = 2 || old = 5 then
        let s1 := onWin s c fun x => { x with viol := satInc 32 x.viol, changed := true }
        ashLimited s1 2 (winHearth w) 0x0201 [(0, natLe 4 (ctxOf s c).job), (4, natLe 2 c), (6, natLe 2 i),
          (8, natLe 1 old), (9, natLe 1 new)]
      else s

/-! ## FLAGWAIT watches -/

/-- A FLAGWAIT ends: the predicate takes the outcome and the thread goes on (R114). -/
def endFlagWait (s : State) (t : ThreadRef) (dst : Nat) (matched : Bool) : State :=
  let s1 := onThread s t fun x => { x with
    wait := .none, pc := x.pc + 1,
    p := if matched then x.p ||| BitVec.ofNat 8 (2 ^ (dst % 8)) else x.p &&& ~~~(BitVec.ofNat 8 (2 ^ (dst % 8))) }
  onHome s1 fun h => { h with
    slices := tmapAll {} (fun x => { x with watches := x.watches.filter (·.2 ≠ t) }) h.slices }

/-- A write ordered to a line wakes the threads that watch it, which check their byte (R125). -/
def wakeWatchers (s : State) (l : Nat) : State :=
  forAll (((sliceAt s (lineHearth l)).watches.filter (·.1 = l)).map Prod.snd) (fun s t =>
    match (threadOf s t).wait with
    | .flag jva value dst _ _ _ =>
      if (tget 0 s.mem.cells (l * 64 + jva % 64)).toNat = value then endFlagWait s t dst true else s
    | _ => s) s

end Sys2Proof.Machine
end

