-- ==== Sys2Proof/Machine/Snap.lean ====
section
/-! DEFINITION. Snapshot regions and versions (R322 to R332) and the admission of requests by extents (R313). -/

namespace Sys2Proof.Machine

/-- Number of the 2 MiB region of an LPA. -/
def regionOf (a : Nat) : Nat := a / 2 ^ 21

/-- The region that holds an LPA, if one was created. -/
def regionAt (s : State) (a : Nat) : Option Region := tget none s.ext.regions (regionOf a)

/-- A region changed. -/
def onRegion (s : State) (k : Nat) (f : Region → Region) : State :=
  onExt s fun x => { x with regions := tmod none x.regions k fun r => r.map f }

/-- Some live version shares the working copy's storage (R327). -/
def regionShared (r : Region) : Bool := r.versions.any fun v => v.block.isNone && !v.lost

/-- The snapshot lease by which a view key holds a version of a region open (R329). -/
def viewLease (s : State) (k job dev ctx : Nat) : Option SLease :=
  s.ext.snaps.find? fun l => l.region = k && l.job = job && l.dev = dev && l.ctx = ctx

/-- Where a version's bytes for an LPA of its region lie: its block, or the working copy while it shares (R327). -/
def versionLpa (s : State) (a num : Nat) : Option Nat :=
  match regionAt s a with
  | none => none
  | some r => match r.versions.find? (·.num = num) with
    | none => none
    | some v => if v.lost then none else match v.block with
      | some b => some (b + a % 2 ^ 21)
      | none => some a

/-- Version blocks in use. -/
def blocksInUse (s : State) : List Nat :=
  s.ext.regions.flatMap fun e => match e.2 with
    | some r => r.versions.filterMap (·.block) ++ r.copying.toList
    | none => []

/-- Extents of the version pool by number, lowest first (R327, R372). -/
def poolExtents (s : State) : List (Nat × Ext) := s.ext.tab.filter fun e => e.2.vpool && e.2.state ≠ 0

/-- A free block of the Hearth and MODE of an extent: 2 MiB of a pool extent, 512 in each (R327). -/
def freeBlock (s : State) (a : Nat) : Option Nat :=
  let used := blocksInUse s
  ((poolExtents s).filter fun e => e.1 / 512 = lpaHearth a && e.2.dense = (extOf s a).dense).findSome? fun e =>
    (upTo 512 fun i => e.1 * 2 ^ 30 + i * 2 ^ 21).find? fun b => !used.contains b

/-- A line that a write or a grant of X may change lies in a shared region: it must be copied first (R327). -/
def needsCopy (s : State) (a : Nat) : Bool :=
  match regionAt s a with
  | some r => regionShared r
  | none => false

/-- A copy of the region begins, the access waiting; one that runs already gains a waiter (R327). Without a free block the
access waits: a Stove's is tried again, any other is answered BUSY (R328). -/
def startCopy (s : State) (a : Nat) (w : Option Req) : State :=
  match regionAt s a with
  | none => s
  | some r =>
    match r.copying with
    | some _ => onRegion s (regionOf a) fun x => { x with waiters := x.waiters ++ w.toList }
    | none =>
      match freeBlock s a with
      | some b => onRegion s (regionOf a) fun x => { x with copying := some b, waiters := x.waiters ++ w.toList }
      | none =>
        let s1 := countWait404 (onExt s fun x => { x with ctr := tmod 0 x.ctr 8 (satInc 64) }) (lpaHearth a)
        match w with
        | some q => answer s1 q (plain stBusy)
        | none => s1

/-- A version that is neither current nor open is freed; a region being destroyed goes with its last one (R331, R332). -/
def freeVersions (s : State) (k : Nat) : State :=
  match tget none s.ext.regions k with
  | none => s
  | some r =>
    let isOpen := fun n => s.ext.snaps.any fun l => l.region = k && l.version = n
    let keep := r.versions.filter fun v => (!r.destroying && v.num = r.current) || isOpen v.num
    if r.destroying && keep.isEmpty && r.copying.isNone then
      onExt s fun x => { x with regions := tput none x.regions k none }
    else onRegion s k fun x => { x with versions := keep }

/-! ## Admission -/

/-- The outcome of check 8 of R261 for a request of a view key to an LPA (R313): none admits it. -/
def admission (s : State) (a job dev ctx : Nat) (isRead : Bool) : Option Nat :=
  let e := extOf s a
  let view := viewLease s (regionOf a) job dev ctx
  match view with
  | some l =>
    if isRead then (if (versionLpa s a l.version).isSome then none else some stRevoked) else some stDenied
  | none =>
    if e.state = 3 && e.job = job then none
    else if e.state = 5 then some stBusy
    else if e.job = job && (e.state = 2 || e.state = 4) then some stRevoked
    else some stDenied

/-- Where a read of a view key finds its bytes: the version it holds open, else the working copy (R330). -/
def viewLpa (s : State) (a job dev ctx : Nat) : Nat :=
  match viewLease s (regionOf a) job dev ctx with
  | some l => (versionLpa s a l.version).getD a
  | none => a

end Sys2Proof.Machine
end

