-- ==== Sys2Proof/Machine/Home.lean ====
section
/-! DEFINITION. The home slices (R285 to R308, R480): every change to a line, the order of requests to it, snoops, and the
service of memory and coherence requests. -/

namespace Sys2Proof.Machine

/-! ## A change to a line -/

/-- MPA of an LPA of this module. -/
def ownMpa (s : State) (a : Nat) : Nat := selfDev s * 2 ^ 42 + a

/-- The group of the placement map that covers an LPA's slot (R340). -/
def groupOf (s : State) (a : Nat) : Option Group :=
  s.cell.map.groups.find? fun g => g.kind ≠ 0 && g.hearth = lpaHearth a && g.first ≤ fld a 30 9 && fld a 30 9 < g.first + g.nslots &&
    (g.pos.take (g.k + 1)).contains s.boot.pos

/-- The position that holds the copy of an LPA's slot (R340). -/
def copyPos (g : Group) (a : Nat) : Nat := nth 0 g.pos ((fld a 30 9 - g.first) % (g.k + 1))

/-- Bytewise exclusive or. -/
def xorBytes (a b : List Byte) : List Byte := List.zipWith (· ^^^ ·) a b

/-- The copy member learns a change to a line of a protected extent (R345); the line's transaction stays until it has
acknowledged. `tag` tells a change of the tile's format tag: 16 plus the tag, or of a parity stripe 16 plus the exclusive or of
old and new (log 15). -/
def sendCopy (s : State) (l : Nat) (old new : List Byte) (tag : Nat := 0) : State :=
  match groupOf s (l * 64) with
  | none => s
  | some g =>
    let dev := posDev s (copyPos g (l * 64))
    let (f, s1) := updFrame s dev (if g.kind = 1 then 0x0A else 0x0B)
    let f1 := { f with
      mpa := BitVec.ofNat 64 (dev * 2 ^ 42 + l * 64)
      payload := if g.kind = 1 then new else xorBytes old new, len := 64
      jva := BitVec.ofNat 64 tag }
    let s2 := if (txOf s1 l).isSome then s1
      else onSlice s1 (lineHearth l) fun x => { x with txs := x.txs ++ [{ line := l }] }
    sendFabric (onTx s2 l fun t => { t with copies := t.copies + 1 }) f1 (.copyUpd l)

/-- A tile's tag as a number: its FMT, or 15 where its rows disagree (R39). -/
def tagCode (s : State) (tile : Nat) : Nat :=
  match tagOf s tile with
  | .fmt f => f
  | .mixed => 15

/-- The tag that a number stands for. -/
def tagFrom (n : Nat) : Tag := if n = 15 then .mixed else .fmt n

/-- The rows of line `l`'s tile take a tag, of which the copy member of a protected extent hears with that line (R39, R345,
log 15). -/
def setTagAt (s : State) (l : Nat) (f : Tag) : State :=
  let tile := l / 256
  let s1 := setTag s tile f
  if protOf s (l * 64) = 0 || tagOf s tile = f then s1
  else
    let bs := readBytes s (l * 64) 64
    sendCopy s1 l bs bs (16 + (if protOf s (l * 64) = 1 then tagCode s1 tile else (tagCode s tile).xor (tagCode s1 tile)))

/-- Number of the stripe unit of an LPA among all units: 64 KiB each (R340). -/
def unitOf (a : Nat) : Nat := a / 65536

/-- The line's stripe unit is marked unprotected (R346). -/
def markUnprot (s : State) (l : Nat) : State := onMem s fun m => { m with unprot := insertNat (unitOf (l * 64)) m.unprot }

/-- A write to an extent that holds primary tiles clears the valid flag of their pairings (R61). -/
def clearPairings (s : State) (l : Nat) : State :=
  let hit := fun (p : Pairing) => p.valid && p.prim.any fun k => lpaExt (k * 16384) = lpaExt (l * 64)
  let s1 := forAll (s.t0.pairs.filter hit) (fun s p =>
    ashLimited s 0 (lineHearth l) 0x0106 [(0, natLe 8 (p.prim.headD 0 * 16384))]) s
  onT0 s1 fun t => { t with pairs := t.pairs.map fun p => if hit p then { p with valid := false } else p }

/-- The line holds a fault record: of a ring as translated, or one raised before an INVAL of its page (R270). -/
def ringRecord (s : State) (l : Nat) : Bool :=
  (s.trn.rings.any fun e => match e.2 with
    | some r => r.lpas.contains (l * 64)
    | none => false) || s.trn.faults.any fun p => p.recLpa = some (l * 64)

/-- The partner's answer in a record's FLAG reaches the fault (R272 steps 2 and 3). -/
def markAnswer (s : State) (l new : Nat) : State :=
  onTrn s fun t => { t with
    faults := updFirst (fun p => p.recLpa = some (l * 64)) (fun p => { p with answer := some (new = 2) }) t.faults }

/-- Everything that a change to a line brings about (R42, R51, R56, R61, R95, R125, R345): bytes, poison, tier 0's dirty mark, a
scrub write-back overtaken, pairings, watches, a move that must copy again (R353), the copy. `full` writes all 64 bytes; `seen` has the home examine the flag
byte, as it does for every write but the device's own to its windows and rings. A unit changed while its site is out of service is
unprotected (R401), and so is one whose old parity cannot be had (R346, R352). -/
def homeStore (s : State) (l : Nat) (new : List Byte) (full seen : Bool) : State :=
  let old := readBytes s (l * 64) 64
  let s1 := writeBytes s (l * 64) new
  let s2 := if full then clearPoison s1 l else s1
  let s3 := if inTier0 s (l / 256) then onT0Tile s2 (l / 256) fun t => { t with dirty := true } else queueDram s2 l true
  let s4 := onSites s3 fun x => { x with
    sites := tmod {} x.sites (placeOf s (l * 64)).site fun v => { v with scrubbed := v.scrubbed.filter (· ≠ l) } }
  let s5 := if seen then examineFlag s4 l (old.headD 0).toNat (new.headD 0).toNat else s4
  let s6 := onCell (clearPairings (wakeWatchers s5 l) l) fun c => { c with sent := c.sent.filter (· ≠ lpaExt (l * 64)) }
  if protOf s (l * 64) = 0 then s6
  else
    let s7 := if !(tget {} s.sites.sites (placeOf s (l * 64)).site).inService then markUnprot s6 l else s6
    if s.mem.lost.contains l && protOf s (l * 64) = 2 then
      onMem (markUnprot s7 l) fun m => { m with lost := m.lost.filter (· ≠ l) }
    else sendCopy s7 l old new

/-- A partner write to a fault record's line: it is applied only where it changes FLAG from RAISED to RETRY or DECLINE, and
is otherwise ignored and counted (R272). -/
def ringWrite (s : State) (l : Nat) (new : List Byte) (full : Bool) : State :=
  let old := (readBytes s (l * 64) 1).headD 0
  let fl := new.headD 0
  if isPoisoned s l then homeStore s l new full false
  else if old = 1 && (fl = 2 || fl = 3) then markAnswer (homeStore s l new full false) l fl.toNat
  else countTrn s 11

/-- A write that a partner, an agent or a Stove makes (R95, R272). -/
def applyWrite (s : State) (l : Nat) (new : List Byte) (full : Bool) : State :=
  if ringRecord s l then ringWrite s l new full else homeStore s l new full true

/-! ## Snoops -/

/-- The snoop frame to an agent, or to every link of a member position under LINK 0x7F (R292, R294). -/
def snoopFrame (s : State) (l msg target : Nat) (coarse : Bool) (id : BitVec 16) (arg : W64) : Frame :=
  let pos := if coarse then target else agentPos target
  let link := if coarse then 0x7F else target % 128
  let dev := posDev s pos
  { typ := tCoh, leg := true, tc := 7, dstDev := dev, srcDev := selfDev s, cell := dev / 64, epoch := epochOf s (dev / 64),
    mpa := BitVec.ofNat 64 (ownMpa s (l * 64)), opa := BitVec.ofNat 64 (msg + id.toNat * 2 ^ 32 + link * 2 ^ 48), opb := arg }

/-- A snoop given to one link of this module in its coherence context (R294, R297). -/
def deliverOn (s : State) (f : Frame) (link : Nat) : State :=
  match cohCtx s link with
  | some (c, x) => sendOn s link { f := { f with leg := false, srcCtx := c, job := x.job, hops := f.hops + 1 } }
  | none => s

/-- A link's agent is answered for by its entry module: the link is down, has no coherence context, or a delivery to it
timed out (R298, R305). -/
def answeredFor (s : State) (link : Nat) : Bool :=
  !(linkOf s link).up || (cohCtx s link).isNone ||
    (match tget none s.home.memberCut link with
      | some t => s.clk.pilot < t
      | none => false)

/-- The snoop needs no answer from outside: the agent is cut off, or stands on a link of this module that answers for it. -/
def selfAcked (s : State) (a : Nat) (coarse : Bool) : Bool :=
  !coarse && (isCutOff s a || (agentPos a = s.boot.pos && answeredFor s (a % 128)))

/-- The first transmission of a snoop, or a later one. -/
def transmitSnoop (s : State) (l : Nat) (x : Snoop) : State :=
  let f := snoopFrame s l x.msg x.agent x.coarse x.id x.arg
  if f.dstDev = selfDev s then deliverOn s f (x.agent % 128) else sendRouted s f

/-- One snoop sent and entered in the line's transaction; one that is answered at once leaves no trace but its holder's. -/
def sendSnoop (s : State) (l msg : Nat) (arg : W64) (t : Nat × Bool) : State :=
  if selfAcked s t.1 t.2 then
    (if isCutOff s t.1 then removeHolder s l t.1 else removeHolder (countCoh s (lineHearth l) 1) l t.1)
  else
    let id := (sliceAt s (lineHearth l)).nextSnoop
    let x : Snoop := { id := id, msg := msg, agent := t.1, coarse := t.2, sentPt := s.clk.pilot, arg := arg }
    let s1 := countCoh (onSlice s (lineHearth l) fun v => { v with nextSnoop := id + 1 }) (lineHearth l) 1
    transmitSnoop (onTx s1 l fun v => { v with snoops := v.snoops ++ [x] }) l x

/-- Whom SNP_INV to every holder but `skip` names (R295): named agents, members by position, this member's own agents one by
one. -/
def snoopTargets (s : State) (l : Nat) (skip : List Nat) : List (Nat × Bool) :=
  match homeOf s l with
  | none => []
  | some (.s hs) => (hs.filter fun h => !skip.contains h.agent).map fun h => (h.agent, false)
  | some (.x o) => if skip.contains o.agent then [] else [(o.agent, false)]
  | some (.sc v) => (markedPos v).flatMap fun p =>
      if p = s.boot.pos then ((List.range 96).filter fun k => !answeredFor s k).map fun k => (p * 128 + k, false)
      else [(p, true)]

/-- A transaction on a line with its snoops sent (R285). -/
def openTx (s : State) (l : Nat) (cur : Option Req) (rest : List Req) (msg : Nat) (arg : W64) (ts : List (Nat × Bool)) : State :=
  let s1 := onSlice s (lineHearth l) fun x => { x with txs := x.txs ++ [{ line := l, cur := cur, waiters := rest }] }
  forAll ts (fun s t => sendSnoop s l msg arg t) s1

/-- The line's transaction gone. -/
def dropTx (s : State) (l : Nat) : State :=
  onSlice s (lineHearth l) fun x => { x with txs := dropFirst (·.line = l) x.txs }

/-- Requests join the end of a transaction's waiters. -/
def addWaiters (s : State) (l : Nat) (rs : List Req) : State :=
  onTx s l fun t => { t with waiters := t.waiters ++ rs }

/-! ## Re-forming a line (R44, R351) -/

/-- The other positions whose units re-form an LPA's line: the mirror, or the rest of the stripe. -/
def repairFrom (s : State) (a : Nat) : List Nat :=
  match groupOf s a with
  | none => []
  | some g => (g.pos.take (g.k + 1)).filter (· ≠ s.boot.pos)

/-- REBUILD_READ of a line from one position. -/
def sendRebuildRead (s : State) (l pos : Nat) : State :=
  let f := cellFrame s (posDev s pos) 0x0E
  sendFabric s { f with mpa := BitVec.ofNat 64 (posDev s pos * 2 ^ 42 + l * 64) } (.rebuild pos (l * 64))

/-- The line's transaction fetches what re-forms it. -/
def startRepair (s : State) (l : Nat) (cur : Option Req) (rest : List Req) : State :=
  let ps := repairFrom s (l * 64)
  let s1 := onSlice s (lineHearth l) fun x => { x with
    txs := x.txs ++ [{ line := l, stage := .repairing ps (List.replicate 65 0), cur := cur, waiters := rest }] }
  forAll ps (fun s p => sendRebuildRead s l p) s1

/-- The line stands in a unit that a serving spare has still to rebuild, and is not itself rebuilt (R351). -/
def notRebuilt (s : State) (l : Nat) : Bool :=
  s.cell.units.contains (unitOf (l * 64)) && !s.cell.freshLines.contains l

/-- The line's site is held in self-refresh or out of service, and tier 0 does not serve the line (R47, R401). -/
def siteDown (s : State) (l : Nat) : Bool :=
  let v := tget {} s.sites.sites (placeOf s (l * 64)).site
  (v.held || !v.inService) && !inTier0 s (l / 256)

/-- A line of a protected extent that its site cannot serve, and of which the home has not yet learned the contents from the
copy or the stripe (R44, R47, R401). -/
def downUnknown (s : State) (l : Nat) : Bool := siteDown s l && !s.cell.freshLines.contains l

/-- The line is marked rebuilt, or known while its site is down (R351, R401). -/
def markFresh (s : State) (l : Nat) : State :=
  if s.cell.units.contains (unitOf (l * 64)) || (siteDown s l && protOf s (l * 64) ≠ 0) then onCell s fun c => { c with freshLines := insertNat l c.freshLines } else s

/-! ## Serving -/

/-- The MSG of a COH frame (R292). -/
def cohMsg (f : Frame) : Nat := fld f.opa.toNat 0 8

/-- The request reads and changes nothing. -/
def isReadReq (f : Frame) : Bool := f.typ = tRead || f.typ = tTileRead

/-- The request serves a whole tile, line by line. -/
def isTileReq (f : Frame) : Bool := f.typ = tTileRead || f.typ = tTileWrite

/-- The LPA of the line that a request serves next: a read of a view key finds its version's bytes (R330). -/
def reqLpa (s : State) (r : Req) : Nat :=
  let a := mpaLpa r.f.mpa.toNat + 64 * r.part
  if isReadReq r.f then viewLpa s a r.f.job r.f.srcDev r.f.srcCtx else a

/-- The line that a request serves next. -/
def reqLine (s : State) (r : Req) : Nat := lineOf (reqLpa s r)

/-- A request of the transport's memory writes or atomics, which leaves no partner a copy (R295). -/
def isWriteReq (f : Frame) : Bool :=
  f.typ = tWrite || f.typ = tWritePush || f.typ = tTileWrite || f.typ = tAtomic || f.typ = tScatter

/-- A COH request that asks for the line exclusive, or applies an atomic. -/
def wantsX (f : Frame) : Bool := f.typ = tCoh && (cohMsg f = 2 || cohMsg f = 3 || cohMsg f = 4)

/-- AOP and W of an ATOMIC or a COH ATOM (R204, R292). -/
def reqAop (f : Frame) : Nat := if f.typ = tCoh then fld f.opa.toNat 8 8 else fld f.opa.toNat 0 8
def reqW (f : Frame) : Nat := if f.typ = tCoh then fld f.opa.toNat 16 2 else fld f.opa.toNat 8 2

/-- Index of a line's predictor counter (R304). -/
def predIndex (l : Nat) : Nat := (fld (l * 64) 6 16).xor (fld (l * 64) 22 16)

/-- A line watched for a window, a fault ring or a FLAGWAIT (R303). -/
def isWatched (s : State) (l : Nat) : Bool :=
  (flagLine s l).isSome || ringRecord s l || (sliceAt s (lineHearth l)).watches.any (·.1 = l)

/-- A COH ATOM is served far (R303). -/
def atomFar (s : State) (r : Req) (l : Nat) : Bool :=
  2 ≤ tget 0 s.home.pred (predIndex l) || (match homeOf s l with | some (.sc _) => true | _ => false) ||
    isWatched s l || r.nc || r.f.rev = 1

/-- The line is held by some agent other than `a`. -/
def heldByOther (s : State) (l : Nat) (a : Option Nat) : Bool :=
  match homeOf s l with
  | some (.sc _) => true
  | st => (holdersOf st).any fun h => some h.agent ≠ a

/-- What a request does to the predictor when it is ordered (R304). -/
def updPredictor (s : State) (r : Req) (l : Nat) : State :=
  let k := predIndex l
  let n := tget 0 s.home.pred k
  if !wantsX r.f then s
  else if heldByOther s l (agentOf s r.f) then onHome s fun h => { h with pred := tput 0 h.pred k (min 3 (n + 1)) }
  else if cohMsg r.f = 4 then onHome s fun h => { h with pred := tput 0 h.pred k (n - 1) }
  else s

/-- Members of the batch that follow an atomic among the waiters (R237). -/
def sameBatch (a b : Req) : Bool :=
  a.f.typ = tAtomic && b.f.typ = tAtomic && a.f.mpa = b.f.mpa && reqAop a.f = reqAop b.f && reqW a.f = reqW b.f &&
    reqAop a.f ≤ 7 && !a.f.nocomb && !b.f.nocomb

/-- The agents removed without a snoop when a request is served: its own, and those of its batch (R237, R295). -/
def ownAgents (s : State) (r : Req) (rest : List Req) : List Nat :=
  (r :: rest.takeWhile (sameBatch r)).filterMap fun x => agentOf s x.f

/-- COH response INFO (R292). -/
def cohInfo (grant : Nat) (near fwd : Bool) : W64 := BitVec.ofNat 64 (grant + 4 * b2n near + 8 * b2n fwd)

/-- A grant with the line's data. -/
def grantData (s : State) (l grant : Nat) (near : Bool) : Answer :=
  { info := cohInfo grant near false, payload := readBytes s (l * 64) 64 }

/-- The owner and the requester form a Forerunner pair (R296). -/
def forePair (s : State) (l : Nat) (owner : Nat) (r : Req) : Bool :=
  tget false (sliceAt s (lineHearth l)).fore owner && r.f.fore && (agentOf s r.f).isSome

/-- What must happen before a request can be served at the head of its line's order. -/
inductive Before where
  | nothing
  | snoop (msg : Nat) (targets : List (Nat × Bool))
  | forward (owner : Nat) (msg : Nat)
  | copyRegion
  | hold
  | siteWait
  | reform
  | evict (line : Nat)
  | waitFor (line : Nat)
deriving DecidableEq, Repr

/-- The victim that makes room for a new or growing entry: the least recently allocated of the set whose line has no
active transaction; none of them free, the request waits for one of the set's transactions (R290). -/
def roomStep (s : State) (l n : Nat) : Before :=
  if (freeWay s l n).isSome then .nothing
  else
    let es := (setEntries s l).filter (·.line ≠ l)
    match (es.filter fun e => (txOf s e.line).isNone && (lockOf s e.line).isNone).foldl (fun m e => match m with
        | none => some e
        | some x => if e.alloc < x.alloc then some e else some x) (none : Option FEntry) with
    | some v => .evict v.line
    | none => match es.find? fun e => (txOf s e.line).isSome with
      | some e => .waitFor e.line
      | none => .nothing

/-- The room that a grant needs (R288, R289). -/
def grantWays (s : State) (r : Req) (l : Nat) : Nat :=
  match agentOf s r.f with
  | none => 0
  | some a =>
    if cohMsg r.f = 1 then waysOf (addSharer (homeOf s l) { agent := a }) else 1

/-- The steps that come before service (R44, R56, R285, R290, R295, R327, R351, R480). -/
def beforeServe (s : State) (r : Req) (rest : List Req) (l : Nat) (far : Bool) : Before :=
  let a := l * 64
  let f := r.f
  let me := agentOf s f
  let writes := isWriteReq f || wantsX f && !(r.nc && cohMsg f ≠ 4)
  let fullWrite := f.typ = tWritePush || f.typ = tTileWrite || (f.typ = tWrite && f.opa = BitVec.allOnes 64)
  let emptyWrite := f.typ = tWrite && f.opa = 0
  let bad := badLine s l (if r.part = 0 && !inTier0 s (l / 256) then r.a.ecc else .clean)
  if emptyWrite then .nothing
  else if siteDown s l && protOf s a = 0 then .siteWait
  else if protOf s a ≠ 0 && (bad || notRebuilt s l || downUnknown s l) && !(fullWrite && (protOf s a = 1 || s.mem.lost.contains l)) &&
      !(repairFrom s a).isEmpty then .reform
  else if f.typ = tCoh && isPoisoned s l then .nothing
  else if writes && needsCopy s a then .copyRegion
  else if isWriteReq f && isFilling s (l / 256) then .hold
  else
    match homeOf s l with
    | some (.x o) =>
      if isWriteReq f then
        (if (ownAgents s r rest).contains o.agent then .nothing else .snoop 0x20 [(o.agent, false)])
      else if f.typ = tCoh && !r.nc then
        (if me = some o.agent then .nothing
         else if cohMsg f = 1 then
           (if forePair s l o.agent r then .forward o.agent 0x22 else .snoop 0x21 [(o.agent, false)])
         else if cohMsg f = 2 || cohMsg f = 3 || (cohMsg f = 4 && !far) then
           (if forePair s l o.agent r then .forward o.agent 0x23 else .snoop 0x20 [(o.agent, false)])
         else if cohMsg f = 4 then .snoop 0x20 [(o.agent, false)]
         else .nothing)
      else if f.typ = tCoh then
        (if cohMsg f = 4 then (if me = some o.agent then .nothing else .snoop 0x20 [(o.agent, false)])
         else if cohMsg f ≤ 3 && me ≠ some o.agent then .snoop 0x21 [(o.agent, false)] else .nothing)
      else if me = some o.agent then .nothing else .snoop 0x21 [(o.agent, false)]
    | _ =>
      if writes then
        let ts := snoopTargets s l (ownAgents s r rest)
        if ts.isEmpty then (if wantsX f && !far then roomStep s l 1 else .nothing) else .snoop 0x20 ts
      else if f.typ = tCoh && cohMsg f = 1 && !r.nc then roomStep s l (grantWays s r l)
      else .nothing

/-- The requester's own entry goes without a snoop, and an SC line whose positions were invalidated is I (R289, R295). -/
def dropOwn (s : State) (l : Nat) (own : List Nat) : State :=
  match homeOf s l with
  | some (.sc _) => setHome s l none
  | _ => forAll own (fun s a => removeHolder s l a) s

/-- A line's bytes, 64. -/
def lineBytes (s : State) (l : Nat) : List Byte := readBytes s (l * 64) 64

/-- An atomic applied to a line: the old value, and the state (R204, R295). `o` is the offset in the line. -/
def applyAtomic (s : State) (l o aop w op new : Nat) : Nat × State :=
  let n := atomicBytes aop w
  let bs := lineBytes s l
  let old := leAt bs o n
  let v := atomicNew aop w old op new
  (old, applyWrite s l (overlay bs o (natLe n v)) false)

/-- The operand and new value of an atomic request. -/
def atomicArgs (f : Frame) : Nat × Nat := (f.opb.toNat, leNat (f.payload.take 8))

/-- The requester granted a line (R295), with the number that granted it. -/
def grantTo (s : State) (l : Nat) (r : Req) (excl : Bool) : State :=
  match agentOf s r.f with
  | none => s
  | some a =>
    let h : Holder := { agent := a, seq := r.f.seq }
    let st : HomeSt := if excl then .x h else addSharer (homeOf s l) h
    let turned := match st, homeOf s l with | .sc _, some (.s _) => true | _, _ => false
    setHome (if turned then countCoh s (lineHearth l) 5 else s) l (some st)

/-- A device's tile store on another module brings the tile's tag with it; a partner's sets none (R69, log 15). -/
def writeTag (s : State) (r : Req) (l : Nat) : State :=
  if r.f.typ = tTileWrite && r.f.leg && r.f.opa.getLsbD 63 then setTagAt s l (.fmt (fld r.f.opa.toNat 0 4)) else s

/-- RESULT of a read on the fabric leg: the tag of the tile, by which the reader knows its format (log 15). -/
def readResult (s : State) (r : Req) (l : Nat) : W64 := if r.f.leg then BitVec.ofNat 64 (tagCode s (l / 256)) else 0

/-- The service of one line of a request whose turn has come and before which nothing stands: the state, and the answer or
none where a tile request goes on (R43, R295, R303, R480). -/
def applyReq (s : State) (r : Req) (rest : List Req) (l : Nat) (far : Bool) : State × Option Answer :=
  let f := r.f
  let own := ownAgents s r rest
  let poisoned := isPoisoned s l
  if f.typ = tRead then
    (meterLine s l f.job 64, some (if poisoned then plain stPoison else { payload := lineBytes s l, result := readResult s r l }))
  else if f.typ = tTileRead then
    (meterLine s l f.job 64, if poisoned then some (plain stPoison) else none)
  else if f.typ = tWrite then
    if f.opa = 0 then (s, some (plain stOk))
    else
      let full := f.opa = BitVec.allOnes 64
      if poisoned && !full then (s, some (plain stPoison))
      else
        let new := maskBytes f.opa.toNat (lineBytes s l) (byteSlice f.payload 0 64)
        (applyWrite (meterStore (dropOwn s l own) l f.job full) l new full, some (plain stOk))
  else if f.typ = tWritePush then
    (applyWrite (meterStore (dropOwn s l own) l f.job true) l (byteSlice f.payload 0 64) true, some (plain stOk))
  else if f.typ = tTileWrite then
    (applyWrite (meterStore (dropOwn s l own) l f.job true) l (byteSlice f.payload (64 * r.part) 64) true, none)
  else if f.typ = tAtomic then
    if poisoned then (s, some (plain stPoison))
    else
      let s1 := meter (meterLine (dropOwn s l own) l f.job 128) f.job 3 1
      let (old, s2) := applyAtomic s1 l (f.mpa.toNat % 64) (reqAop f) (reqW f) (atomicArgs f).1 (atomicArgs f).2
      (s2, some { result := BitVec.ofNat 64 old })
  else
    -- COH requests and evictions
    let m := cohMsg f
    let s := if m ≤ 4 then countCoh s (lineHearth l) 0 else s
    if m ≤ 4 && poisoned then
      (match agentOf s f with | some a => removeHolder s l a | none => s, some (plain stPoison))
    else if m = 1 then
      if r.nc then (meterLine s l f.job 64, some (grantData s l 0 false))
      else (grantTo (meterLine s l f.job 64) l r false, some (grantData s l 1 false))
    else if m = 2 then
      if r.nc then (meterLine s l f.job 64, some (grantData s l 0 false))
      else (grantTo (meterLine (dropOwn s l own) l f.job 64) l r true, some (grantData s l 2 false))
    else if m = 3 then
      if r.nc then (meterLine s l f.job 64, some (grantData s l 0 false))
      else
        let had := own.any fun a => (match homeOf s l with | some (.s hs) => hs.any (·.agent = a) | _ => false)
        let a : Answer := if had then { info := cohInfo 2 false false } else grantData s l 2 false
        (grantTo (meterLine (dropOwn s l own) l f.job (if had then 0 else 64)) l r true, some a)
    else if m = 4 then
      let s1 := meter s f.job 3 1
      if far then
        let s2 := meterLine (dropOwn (countCoh s1 (lineHearth l) 8) l own) l f.job 128
        let (old, s3) := applyAtomic s2 l (f.mpa.toNat % 64) (reqAop f) (reqW f) (atomicArgs f).1 (atomicArgs f).2
        (s3, some { result := BitVec.ofNat 64 old })
      else
        let s2 := countCoh s1 (lineHearth l) 7
        (grantTo (meterLine (dropOwn s2 l own) l f.job 64) l r true, some (grantData s2 l 2 true))
    else if m = 5 then
      (match agentOf s f, homeOf s l with
        | some a, some (.s _) => removeHolder s l a
        | _, _ => s, some (plain stOk))
    else if m = 6 then
      (if (ownerOf s l).any (fun o => some o.agent = agentOf s f) then setHome s l none else s, some (plain stOk))
    else if m = 7 then
      if (ownerOf s l).any (fun o => some o.agent = agentOf s f) then
        (applyWrite (meterStore (setHome s l none) l f.job true) l (byteSlice f.payload 0 64) true, some (plain stOk))
      else (countCoh s (lineHearth l) 10, some (plain stOk))
    else
      -- FETCH (R301)
      let held := (holdersOf (homeOf s l)).find? fun h => some h.agent = agentOf s f
      match held with
      | some _ => (s, some (grantData s l (match homeOf s l with | some (.x _) => 2 | _ => 1) false))
      | none => (s, some { info := cohInfo 0 false false })

/-- The answer of a served request is given at once, or once the copy of a protected change is acknowledged (R345). -/
def conclude (s : State) (l : Nat) (r : Req) (rest : List Req) (a : Answer) : State :=
  match txOf s l with
  | some _ => onTx s l fun t => { t with stage := .awaitCopy a, cur := some r, waiters := rest }
  | none => answer s r a

/-- Marks of a request that has been ordered at its line, with the choice of near or far (R303, R304): 1 ordered, 2 far. -/
def orderReq (s : State) (r : Req) (l : Nat) : State × Req :=
  if r.stage ≠ 0 then (s, r)
  else
    let far := r.f.typ = tCoh && cohMsg r.f = 4 && atomFar s r l
    let s1 := updPredictor s r l
    let s2 := match agentOf s r.f with
      | some a => onSlice s1 (lineHearth l) fun x => { x with fore := tput false x.fore a r.f.fore }
      | none => s1
    let s3 := if inTier0 s2 (l / 256) then s2 else decodeRead s2 l r.a.ecc
    (if isInternal r.f || (r.f.typ = tRead || r.f.typ = tAtomic) && r.f.opa.getLsbD 63 then s3 else countHot s3 l r.f.job r.nc, { r with stage := if far then 2 else 1 })

/-- One attempt at serving the line that comes next in a request at the head of its line's order; `rest` waits behind it.
A tile request goes on to its next line with the fuel left. -/
def serveOne : Nat → State → Req → List Req → State
  | 0, s, r, _ => refuse s r stBusy
  | n + 1, s, r, rest =>
    let l := reqLine s r
    let (s, r) := orderReq s r l
    let far := r.stage = 2
    match beforeServe s r rest l far with
    | .snoop msg ts =>
      let s1 := openTx s l (some r) rest msg 0 ts
      match txOf s1 l with
      | some t => if t.snoops.isEmpty then serveOne n (dropTx s1 l) r rest else s1
      | none => s1
    | .forward owner msg =>
      let r1 := grantTo (setHome s l (if msg = 0x22 then some (.s (holdersOf (homeOf s l))) else none)) l r (msg = 0x23)
      let arg := match agentOf s r.f with | some a => BitVec.ofNat 64 a | none => 0
      let s1 := countCoh (openTx r1 l (some r) rest msg arg [(owner, false)]) (lineHearth l) 6
      let s2 := onTx s1 l fun t => { t with stage := .forwarding }
      answer (countCoh s2 (lineHearth l) 0) r { info := cohInfo (if msg = 0x22 then 1 else 2) false true }
    | .copyRegion => startCopy s (l * 64) (some r)
    | .hold => onT0Tile s (l / 256) fun t => { t with held := t.held ++ [r] }
    | .siteWait => onSites s fun x => { x with waits := x.waits ++ [(r, s.clk.pilot)] }
    | .reform => startRepair s l (some { r with a := { r.a with ecc := .clean } }) rest
    | .evict v =>
      let s1 := openTx (countCoh s (lineHearth v) 4) v none [r] 0x20 0 (snoopTargets s v [])
      match txOf s1 v with
      | some t => if t.snoops.isEmpty then serveOne n (setHome (dropTx s1 v) v none) r rest else s1
      | none => s1
    | .waitFor v => addWaiters s v [r]
    | .nothing =>
      let (s1, a) := applyReq s r rest l far
      match a with
      | some ans => conclude (markFresh s1 l) l r rest ans
      | none =>
        let r1 := { r with part := r.part + 1, acc := if isReadReq r.f then r.acc ++ lineBytes s1 l else [], stage := 0,
                           a := { r.a with ecc := .clean } }
        if r1.part = 256 then
          conclude (writeTag s1 r l) l r rest (if isReadReq r.f then { payload := r1.acc, result := readResult s1 r l } else plain stOk)
        else if (txOf s1 l).isSome then onTx s1 l fun t => { t with cur := some r1, waiters := rest }
        else
          let l' := reqLine s1 r1
          if (txOf s1 l').isSome then addWaiters s1 l' [r1]
          else match lockOf s1 l' with
            | some _ => onSlice s1 (lineHearth l') fun x => { x with
                locks := updFirst (fun k => k.lines.contains l') (fun k => { k with waiters := k.waiters ++ [r1] }) x.locks }
            | none => serveOne n s1 r1 []

/-- Steps that one request may take at its home: at most one victim or instant snoop round for each of 256 lines. -/
def serveFuel : Nat := 4096

/-- A read joins a leader among the waiters of its line, or an atomic a batch, behind it (R236, R237). -/
def joinGroup (r : Req) : List Req → Option (List Req)
  | [] => none
  | w :: ws =>
    let same := fun (x : Req) => sameBatch x r || (x.f.typ = r.f.typ && isReadReq r.f && x.f.mpa = r.f.mpa &&
      !x.f.nocomb && !r.f.nocomb && x.part = 0)
    if same w then
      let grp := ws.takeWhile same
      if grp.length < 63 then some (w :: grp ++ [r] ++ ws.drop grp.length) else none
    else (joinGroup r ws).map (w :: ·)

/-- A write that the device itself makes within one line of its memory. -/
def ownWrite (a : Nat) (bs : List Byte) : Req :=
  { f := { typ := tWrite, leg := true, srcCtx := 0xFFFF, mpa := BitVec.ofNat 64 (a / 64 * 64),
           opa := BitVec.ofNat 64 ((2 ^ bs.length - 1) * 2 ^ (a % 64)),
           payload := List.replicate (a % 64) 0 ++ bs ++ List.replicate (64 - a % 64 - bs.length) 0, len := 64 } }

/-- A request reaches its home (R285, R286): it waits behind its line's transaction or lock, joining a leader or batch where
it may; without a free tracker it is answered BUSY; else it is served. -/
def serveHome (s : State) (r : Req) : State :=
  let l := reqLine s r
  match txOf s l with
  | some t =>
    match joinGroup r t.waiters with
    | some ws => countLink (onTx s l fun v => { v with waiters := ws }) r.a.link (if r.f.typ = tAtomic then 10 else 9)
    | none => addWaiters s l [r]
  | none =>
    match lockOf s l with
    | some _ => onSlice s (lineHearth l) fun x => { x with
        locks := updFirst (fun k => k.lines.contains l) (fun k => { k with waiters := k.waiters ++ [r] }) x.locks }
    | none => if trackerFree s l then serveOne serveFuel s r [] else refuse s r stBusy

/-- Waiting requests are served in order until one of them takes the line again (R285). -/
def drainLine (s : State) (l : Nat) : List Req → State
  | [] => s
  | r :: rs =>
    if reqLine s r ≠ l then drainLine (serveHome s r) l rs
    else
      let s1 := serveOne serveFuel s r rs
      if (txOf s1 l).isSome then
        (match txOf s1 l with
          | some t => if t.waiters.isEmpty then addWaiters s1 l rs else s1
          | none => s1)
      else drainLine s1 l rs

/-- A transaction whose snoops are answered and copies acknowledged ends (R285): its request is served, or answered, and
then those that wait. -/
def progressTx (s : State) (l : Nat) : State :=
  match txOf s l with
  | none => s
  | some t =>
    if !t.snoops.isEmpty || t.copies ≠ 0 then s
    else
      let s1 := dropTx s l
      match t.stage with
      | .awaitCopy a =>
        (match t.cur with
          | some r => drainLine (answer s1 r a) l t.waiters
          | none => drainLine s1 l t.waiters)
      | .snooping =>
        (match t.cur with
          | some r =>
            if (match homeOf s1 l with | some (.sc _) => !(isReadReq r.f) | _ => false) then
              drainLine (setHome s1 l none) l (r :: t.waiters)
            else drainLine s1 l (r :: t.waiters)
          | none => drainLine s1 l t.waiters)
      | .forwarding => drainLine s1 l t.waiters
      | .repairing _ _ => s

/-! ## The device's own accesses -/

/-- A line of a protected extent has to be re-formed before it is read (R44, R351). -/
def mustRepair (s : State) (l : Nat) : Bool :=
  protOf s (l * 64) ≠ 0 && (isPoisoned s l || notRebuilt s l || downUnknown s l) && !(repairFrom s (l * 64)).isEmpty

/-- A Plain line of a site held in self-refresh waits (R47). -/
def siteWaits (s : State) (l : Nat) : Bool := siteDown s l && protOf s (l * 64) = 0

/-- The failure to re-form a line has been met. -/
def forgetLost (s : State) (l : Nat) : State := onMem s fun m => { m with lost := m.lost.filter (· ≠ l) }

/-- The device or a Stove wants to read a line: ready, or the owner is snooped, or the line re-formed, and it will try
again (R295). -/
def prepRead (s : State) (l : Nat) : State × Bool :=
  if (txOf s l).isSome || (lockOf s l).isSome || siteWaits s l then (s, false)
  else if mustRepair s l then
    (if s.mem.lost.contains l then (forgetLost s l, true) else (startRepair s l none [], false))
  else match ownerOf s l with
    | some o =>
      let s1 := openTx s l none [] 0x21 0 [(o.agent, false)]
      (match txOf s1 l with
        | some t => if t.snoops.isEmpty then (dropTx s1 l, true) else (s1, false)
        | none => (s1, true))
    | none => (s, true)

/-- The device or a Stove wants to change a line: ready when no agent holds it, no copy of its region is due and its tile
does not fill; else what must come first is begun, and it will try again (R56, R295, R327). -/
def prepWrite (s : State) (l : Nat) (full : Bool) : State × Bool :=
  if (txOf s l).isSome || (lockOf s l).isSome || siteWaits s l || isFilling s (l / 256) then (s, false)
  else if !(full && protOf s (l * 64) = 1) && mustRepair s l && !s.mem.lost.contains l then (startRepair s l none [], false)
  else if needsCopy s (l * 64) then (startCopy s (l * 64) none, false)
  else match homeOf s l with
    | none => (s, true)
    | some _ =>
      let s1 := openTx s l none [] 0x20 0 (snoopTargets s l [])
      (match txOf s1 l with
        | some t => if t.snoops.isEmpty then (setHome (dropTx s1 l) l none, true) else (s1, false)
        | none => (s1, true))

/-- Every line of a list made ready for reading; true when all were. -/
def prepReads (s : State) : List Nat → State × Bool
  | [] => (s, true)
  | l :: ls =>
    let (s1, a) := prepRead s l
    let (s2, b) := prepReads s1 ls
    (s2, a && b)

/-- Every line of a list made ready for writing; true when all were. -/
def prepWrites (s : State) (full : Bool) : List Nat → State × Bool
  | [] => (s, true)
  | l :: ls =>
    let (s1, a) := prepWrite s l full
    let (s2, b) := prepWrites s1 full ls
    (s2, a && b)

/-- The device writes bytes inside one line that is ready; `seen` as in `homeStore`. -/
def devStore (s : State) (a : Nat) (bs : List Byte) (seen : Bool) : State :=
  homeStore s (lineOf a) (overlay (lineBytes s (lineOf a)) (a % 64) bs) (64 ≤ bs.length) seen

end Sys2Proof.Machine
end

