-- ==== Sys2Proof/Machine/Walks.lean ====
section
/-! DEFINITION. Translation at the entry module: the multi-step walks that raise faults (R264 to R268), the faults and their
ring (R270 to R273). A walk answers with the accesses that may now go on. -/

namespace Sys2Proof.Machine

/-- The outcome of a translation at the entry module: a leaf, a wait for a walk or a fault, or a status. -/
inductive Xr where
  | ok (mpa : Nat) (l : Leaf)
  | wait
  | fail (status : Nat)
deriving DecidableEq, Repr

/-- A waiting access is this one of this item. -/
def sameWait (who : Waiter) (jva : Nat) (w : Waiting) : Bool := w.who = who && w.jva / 4096 = jva / 4096

/-- The access waits already, for a walker, in a walk or in a fault. -/
def isWaiting (s : State) (who : Waiter) (jva : Nat) : Bool :=
  s.trn.waiting.any (sameWait who jva) || s.trn.walks.any (fun w => w.waiters.any (sameWait who jva)) ||
    s.trn.faults.any fun p => p.waiters.any (sameWait who jva)

/-- The context that a waiting access's own frames carry (R215). -/
def waiterCtx (s : State) (w : Waiting) : Nat :=
  match w.who with
  | .req r => r.f.srcCtx
  | .item i _ _ => match itemOf s i with
    | some it => it.ctx
    | none => 0

/-- A walk by its number. -/
def walkOf (s : State) (k : Nat) : Option Walk := s.trn.walks.find? (·.num = k)

/-- A walk changed. -/
def onWalk (s : State) (k : Nat) (f : Walk → Walk) : State :=
  onTrn s fun t => { t with walks := updFirst (·.num = k) f t.walks }

/-- The MPA of the entry that a walk reads next. -/
def walkEntry (w : Walk) : Nat := entryMpa w.table w.jva w.level

/-- A walk's next table line, where another module holds it, is asked for with a walker request (R204, R265). -/
def askTable (s : State) (k : Nat) : State :=
  match walkOf s k with
  | none => s
  | some w =>
    match jobEntry s w.job with
    | none => s
    | some (_, e) =>
      match tableRead s w.job e (walkEntry w) with
      | .remote m =>
        let ctx := match w.waiters with | x :: _ => waiterCtx s x | [] => 0
        let f := fabricHead s ctx w.job tRead 0 0 (BitVec.ofNat 64 (m / 64 * 64))
        sendFabric (onWalk s k fun w => { w with asked := true }) { f with opa := BitVec.ofNat 64 (2 ^ 63) } (.walk k)
      | _ => s

/-- A walk begins for an access, where one of the 32 walkers is free (R268). -/
def startWalk (s : State) (e : BitVec 512) (w : Waiting) : State :=
  let st := walkStart s e w.jva
  let k := s.trn.nextWalk
  let s1 := onTrn s fun t => { t with
    nextWalk := k + 1,
    walks := t.walks ++ [{ num := k, job := w.job, jva := w.jva, acc := w.acc, level := st.1, table := st.2, waiters := [w] }] }
  askTable s1 k

/-- An access that needs a walk joins one for its page, takes a walker, or waits for one. -/
def needWalk (s : State) (e : BitVec 512) (w : Waiting) : State :=
  let s1 := countTrn s 1
  match s.trn.walks.find? fun x => x.job = w.job && x.jva / 4096 = w.jva / 4096 && x.acc = w.acc && x.held.isNone with
  | some x => onWalk s1 x.num fun y => { y with waiters := y.waiters ++ [w] }
  | none =>
    if s.trn.walks.length < 32 then startWalk s1 e w
    else onTrn s1 fun t => { t with waiting := t.waiting ++ [w] }

/-- An access is translated under R25: by the cache, or by a walk for which it waits. A cached leaf that does not grant the
access, or whose A or D bit must be set first, is walked again (R267, R269). -/
def translate (s : State) (who : Waiter) (job jva acc since : Nat) : State × Xr :=
  match jobEntry s job with
  | none => (s, .fail stDenied)
  | some (_, e) =>
    if !canonical e jva then (s, .fail stMalformed)
    else if isWaiting s who jva then (s, .wait)
    else
      let s1 := countTrn s 0
      let w : Waiting := { who := who, job := job, jva := jva, acc := acc, since := since }
      match cachedLeaf s job jva with
      | none => (needWalk s1 e w, .wait)
      | some l =>
        match leafJudge e l (leafMpa l jva) acc with
        | .io => (touchLeaf s1 l, .fail stDenied)
        | .ok => if needsAd l acc then (needWalk s1 e w, .wait) else (touchLeaf s1 l, .ok (leafMpa l jva) l)
        | .cause _ => (needWalk s1 e w, .wait)

/-! ## Faults -/

/-- The status with which a declined fault fails its waiters (R272). -/
def declineStatus (cause : Nat) : Nat := if cause = 2 then stDenied else if cause = 7 then stPoison else stUnmapped

/-- A waiting access fails: a partner request is answered, a Stove's item meets the status at its next attempt. -/
def failWaiter (s : State) (st : Nat) (w : Waiting) : State :=
  match w.who with
  | .req r => refuse s r st
  | .item i _ _ => onItem s i fun it => { it with badPages := it.badPages ++ [(w.jva / 4096, st)] }

/-- Waiters of a declined fault fail; the count of declined faults rises by one (R272, R279). -/
def declineAll (s : State) (cause : Nat) (ws : List Waiting) : State :=
  forAll ws (fun s w => failWaiter s (declineStatus cause) w) (countTrn s 4)

/-- The Ashpit record of code 0x0202: a fault declined for want of a usable ring (R270, R479). -/
def recordDecline (s : State) (job cause : Nat) : State :=
  ashLimited s 3 0x32 0x0202 [(0, natLe 4 job), (4, natLe 1 cause)]

/-- The line lies in an open window of this module. -/
def inOpenWindow (s : State) (l : Nat) : Bool :=
  s.ctx.any fun e => match e.2.win with
    | some w => w.state = 1 && (winOffset w (l * 64)).isSome
    | none => false

/-- The job's fault ring as it translates now (R270): the LPA of each record; none where what the translation needs must
come first. -/
def ringRecords (s : State) (e : BitVec 512) : Nat → Nat → List Nat → Option (List Nat)
  | 0, _, acc => some acc.reverse
  | n + 1, i, acc =>
    match (xlate s (jobId e) (jobRing e + 64 * i) 1).1 with
    | .ok mpa _ => if mpaDev mpa = selfDev s then ringRecords s e n (i + 1) (mpaLpa mpa :: acc) else some []
    | .need _ => none
    | _ => some []

/-- The ring of a job: usable with its records, not usable with the cause of R479, or not yet known (R270). -/
inductive RingNow where
  | ready (r : Ring)
  | never (cause : Nat)
  | unknown
deriving DecidableEq, Repr

/-- Judgement of the job's ring (R270): it has a ring that translates into one extent of this module, shares no line with an
open window, and its extent is LEASED to the job. -/
def ringNow (s : State) (i : Nat) (e : BitVec 512) : RingNow :=
  let judged := fun (r : Ring) =>
    let a := r.lpas.headD 0
    if r.lpas.isEmpty || !(r.lpas.all fun x => lpaExt x = lpaExt a) || r.lpas.any (fun x => inOpenWindow s (lineOf x))
    then RingNow.never 2
    else if (extOf s a).state ≠ 3 || (extOf s a).job ≠ jobId e then .never 3
    else .ready r
  if jobRingSlots e = 0 then .never 1
  else
    let r := (tget none s.trn.rings i).getD {}
    if !r.lpas.isEmpty then judged r
    else match ringRecords s e (jobRingSlots e) 0 [] with
      | none => .unknown
      | some ls => judged { r with lpas := ls }

/-- The bit of an access in ACCESS (R271). -/
def accBit (a : Nat) : Nat := 2 ^ a

/-- A fault is raised for a walk's page (R272 step 1): it joins the page's fault, or takes an entry of the queue, or is
declined at once while the ring is not usable (R270). True where the walk ends; false where it keeps its walker for want of
an entry (R273). -/
def raiseFault (s : State) (w : Walk) (cause level pte : Nat) : State × Bool :=
  let page := w.jva / 4096 * 4096
  match s.trn.faults.find? fun p => p.job = w.job && p.page = page && p.answer.isNone with
  | some p =>
    (onTrn s fun t => { t with
      faults := updFirst (·.id = p.id) (fun x => { x with
        waiters := x.waiters ++ w.waiters, accs := Nat.lor x.accs (accBit w.acc) }) t.faults }, true)
  | none =>
    match jobEntry s w.job with
    | none => (forAll w.waiters (fun s x => failWaiter s stDenied x) s, true)
    | some (i, e) =>
      let r := ringNow s i e
      let why := match r with | .never c => c | _ => 0
      if why ≠ 0 then
        (declineAll (recordDecline (countTrn s 3) w.job why) cause w.waiters, true)
      else if 1024 ≤ s.trn.faults.length then
        (onWalk (countWait203 (countTrn s 5)) w.num fun x => { x with held := some (cause, level, pte) }, false)
      else
        let s0 := match r with
          | .ready q => onTrn s fun t => { t with rings := tput none t.rings i (some q) }
          | _ => s
        let id := s0.trn.nextFault
        (onTrn (countTrn s0 3) fun t => { t with
          nextFault := if (id + 1) % 2 ^ 32 = 0 then 1 else (id + 1) % 2 ^ 32,
          faults := t.faults ++ [{ id := id, job := w.job, page := page, cause := cause, level := level, accs := accBit w.acc,
                                   pte := pte, raisedPt := s.clk.pilot, waiters := w.waiters }] }, true)

/-- The walk's place is free. -/
def dropWalk (s : State) (k : Nat) : State := onTrn s fun t => { t with walks := t.walks.filter (·.num ≠ k) }

/-- A free walker serves the access that has waited longest for one (R268, R273). -/
def useWalker (s : State) : State :=
  match s.trn.waiting with
  | [] => s
  | w :: ws =>
    if s.trn.walks.length < 32 then
      let s1 := onTrn s fun t => { t with waiting := ws }
      match jobEntry s w.job with
      | some (_, e) => startWalk s1 e w
      | none => failWaiter s1 stDenied w
    else s

/-- A walk stops with a fault's cause (R265, R272): its waiters wait for the fault, or have failed. -/
def stopWalk (s : State) (w : Walk) (cause level pte : Nat) : State :=
  let (s1, done) := raiseFault s w cause level pte
  if done then useWalker (dropWalk s1 w.num) else s1

/-- Walks that were held for a fault-queue entry raise their faults as entries come free (R273). -/
def raiseHeld (s : State) : State :=
  if 1024 ≤ s.trn.faults.length then s
  else match s.trn.walks.find? (·.held.isSome) with
    | some w => match w.held with
      | some (c, l, p) => stopWalk (onWalk s w.num fun x => { x with held := none }) { w with held := none } c l p
      | none => s
    | none => s

/-- A walk ends and its waiters go on; it fills the cache unless an INVAL came meanwhile (R274). -/
def endWalk (s : State) (w : Walk) (l : Option Leaf) : State × List Waiting :=
  let s1 := dropWalk s w.num
  let s2 := match l with
    | some x => if w.stale then s1 else fillLeaf s1 x
    | none => s1
  (useWalker s2, w.waiters)

/-- A walk's accesses end with a status and no fault (R265, R266). -/
def abandonWalk (s : State) (w : Walk) (st : Nat) : State :=
  useWalker (forAll w.waiters (fun s x => failWaiter s st x) (dropWalk s w.num))

/-- The walk starts again from the root (R267, R274). -/
def restartWalk (s : State) (e : BitVec 512) (k : Nat) : State :=
  askTable (onWalk s k fun w => { w with
    level := if jobSv57 e then 4 else 3, table := jobRoot e, line := none, asked := false, update := none, stale := false }) k

/-- The entry with A set, and D too for a write or an atomic (R267). -/
def adSet (pte acc : Nat) : Nat := Nat.lor pte (if acc = 1 || acc = 2 then 0xC0 else 0x40)

/-- The walk has its leaf (R264 to R267): the access goes on, ends, faults, or waits for its A and D update. -/
def leafReached (s : State) (e : BitVec 512) (w : Walk) (l : Leaf) (level pte mpa : Nat) : State × List Waiting :=
  match leafJudge e l (leafMpa l w.jva) w.acc with
  | .io => (abandonWalk s w stDenied, [])
  | .cause c => (stopWalk s w c level pte, [])
  | .ok =>
    if !needsAd l w.acc then endWalk s w (some l)
    else if !jobAdUpd e then (stopWalk s w 3 level pte, [])
    else
      let s1 := onWalk s w.num fun x => { x with update := some pte, line := none }
      match tableRead s w.job e mpa with
      | .remote m =>
        let ctx := match w.waiters with | x :: _ => waiterCtx s x | [] => 0
        let f := fabricHead s ctx w.job tAtomic 0 0 (BitVec.ofNat 64 m)
        (sendFabric (countTrn s1 8) { f with
          opa := BitVec.ofNat 64 (2 ^ 63 + 9 + 3 * 256), opb := BitVec.ofNat 64 pte, payload := natLe 8 (adSet pte w.acc),
          len := 8 } (.adUpdate w.num), [])
      | _ => (s1, [])

/-- A table entry has been read (R265). -/
def entryRead (s : State) (e : BitVec 512) (w : Walk) (v : Nat) : State × List Waiting :=
  let s := countTrn s 2
  match pteStep w.job w.jva w.level v with
  | .stop c => (stopWalk s w c w.level v, [])
  | .leaf l => leafReached s e w l w.level v (walkEntry w)
  | .descend p =>
    let s1 := if w.stale then s else
      fillNonLeaf s { job := w.job, level := w.level - 1, prefx := jvaPrefix w.jva (w.level - 1), ppn := p }
    (askTable (onWalk s1 w.num fun x => { x with level := w.level - 1, table := p, line := none, asked := false }) w.num, [])

/-- The A or D update of a leaf on this module: a compare-and-swap at the home, after which the walk ends, or starts again
where the entry has changed (R267). -/
def localUpdate (s : State) (e : BitVec 512) (w : Walk) (old : Nat) : State × List Waiting :=
  let a := mpaLpa (walkEntry w)
  let (s1, ok) := prepWrite s (lineOf a) false
  if !ok then (s1, [])
  else if readNat s1 a 8 ≠ old then (restartWalk (countTrn s1 8) e w.num, [])
  else
    let v := adSet old w.acc
    endWalk (devStore (countTrn s1 8) a (natLe 8 v) true) w (some (leafFrom w.job w.jva w.level v))

/-- One read of a walk completes (R265): a line of this module is read at its home, another module's is the one that
came in answer. `ecc` is what the DRAM decode of a line of this module shows. -/
def walkRead (s : State) (k : Nat) (ecc : Ecc) : State × List Waiting :=
  match walkOf s k with
  | none => (s, [])
  | some w =>
    match jobEntry s w.job with
    | none => (abandonWalk s w stDenied, [])
    | some (_, e) =>
      if w.held.isSome then (s, [])
      else match w.update, w.line with
        | none, some (_, bs) => entryRead s e w (leAt bs (walkEntry w % 64) 8)
        | some old, _ =>
          (match tableRead s w.job e (walkEntry w) with
            | .remote _ => (s, [])
            | _ => localUpdate s e w old)
        | none, none =>
          match tableRead s w.job e (walkEntry w) with
          | .remote _ => (s, [])
          | .denied => (stopWalk s w 4 w.level 0, [])
          | .blocked l => ((prepRead s l).1, [])
          | .poison => (stopWalk (countTrn s 2) w 7 w.level 0, [])
          | .entry v =>
            let l := lineOf (mpaLpa (walkEntry w))
            let s1 := if inTier0 s (l / 256) then s else decodeRead s l ecc
            if isPoisoned s1 l then (stopWalk (countTrn s1 2) w 7 w.level 0, []) else entryRead s1 e w v

/-! ## Records of faults -/

/-- The 64 bytes of a fault record (R271). -/
def faultRecord (s : State) (p : PFault) : List Byte :=
  let w := p.waiters.headD {}
  let (ctx, stove, by_) := match w.who with
    | .req r => (r.f.srcCtx, 0, 0)
    | .item _ st c => (c, st, 1)
  natLe 1 1 ++ natLe 1 (2 + 16 * p.cause) ++ natLe 2 (p.level + 16 * p.accs) ++ natLe 4 p.id ++ natLe 8 p.page ++
    natLe 4 (min p.waiters.length (2 ^ 32 - 1)) ++ natLe 4 (p.raisedPt % 2 ^ 32) ++
    natLe 8 (ctx % 4096 + stove % 32 * 4096 + by_ * 2 ^ 17) ++ natLe 8 p.pte ++ List.replicate 24 0

/-- A fault's entry of the queue is free (R272 step 5). -/
def dropFault (s : State) (id : Nat) : State :=
  raiseHeld (onTrn s fun t => { t with faults := t.faults.filter (·.id ≠ id) })

/-- Every raised fault of a job is declined, with one record: its ring became unusable (R270, R280, log 53). -/
def declineJob (s : State) (job why : Nat) : State :=
  let ps := s.trn.faults.filter fun p => p.job = job && p.answer.isNone
  if ps.isEmpty then s
  else forAll ps (fun s p => dropFault (declineAll s p.cause p.waiters) p.id) (recordDecline s job why)

/-- Faults raised on a job whose entry is deleted: every waiter fails with DENIED (R280). -/
def denyJob (s : State) (job : Nat) : State :=
  let s1 := forAll (s.trn.faults.filter (·.job = job)) (fun s p =>
    dropFault (forAll p.waiters (fun s w => failWaiter s stDenied w) s) p.id) s
  let s2 := forAll (s1.trn.walks.filter (·.job = job)) (fun s w => abandonWalk s w stDenied) s1
  let ws := s2.trn.waiting.filter (·.job = job)
  forAll ws (fun s w => failWaiter s stDenied w)
    (onTrn s2 fun t => { t with waiting := t.waiting.filter (·.job ≠ job) })

/-- Faults whose job's ring has become unusable are declined (R270). -/
def checkRings (s : State) : State :=
  forAll s.trn.jobs (fun s j =>
    if (tget none s.trn.rings j.1).any (fun r => !r.lpas.isEmpty) && jobValid j.2 then
      match ringNow s j.1 j.2 with
      | .never c => declineJob s (jobId j.2) c
      | _ => s
    else s) s

/-! ## What a translation without a fault waits for -/

/-- What such a translation needs first is begun: a line of this module is taken back from its owner, one of another module is
asked for with a walker request (R262, R265). -/
def fetchNeed (s : State) (job ctx : Nat) (t : TableRead) : State :=
  match t with
  | .blocked l => (prepRead s l).1
  | .remote m =>
    let who : Issuer := .table (m / 64 * 64)
    if s.net.outs.any (fun o => o.issuer == who) || s.net.waitSync.any (fun w => w.2.2 == who) then s
    else
      let f := fabricHead s ctx job tRead 0 0 (BitVec.ofNat 64 (m / 64 * 64))
      sendFabric s { f with opa := BitVec.ofNat 64 (2 ^ 63) } who
  | _ => s

/-- Table lines that came in answer have been used. -/
def dropTables (s : State) : State := onTrn s fun t => { t with tableLines := [] }

/-- A translation without a fault, tried once: none where it must wait for what it has begun to read. -/
def xlateTry (s : State) (job ctx jva acc : Nat) : State × Option Xl :=
  match xlate s job jva acc with
  | (.need t, s1) => (fetchNeed s1 job ctx t, none)
  | (x, s1) => (dropTables s1, some x)

end Sys2Proof.Machine
end

