-- ==== Sys2Proof/Machine/Entry.lean ====
section
/-! DEFINITION. What every arriving request passes: the link (R200, R203, R207, R223), the policers (R252), the partner leg's
checks (R208), the owning module's checks (R261), the windows (R211 to R213), fragments (R218), the epoch (R221) and the
forward (R222). -/

namespace Sys2Proof.Machine

/-- The module is at Ready: PHASE 0xB (R261 check 2, R383). -/
def atReady (s : State) : Bool := s.boot.phase = 11

/-! ## Policers -/

/-- A policing colour (R252). -/
inductive Colour where
  | green | yellow | red
deriving DecidableEq, Repr

/-- The single-rate marker of RFC 2697 over a frame of `n` counted bytes: tokens overflow from the committed to the excess
bucket. -/
def mark2697 (p : Policer) (n now : Nat) (inp : Colour) : Colour × Policer :=
  let g := gained p.cir p.lastCyc now
  let c := min (p.cbs * tokenByte) (p.tc + g)
  let e := min (p.ebs * tokenByte) (p.te + (p.tc + g - c))
  let b := n * tokenByte
  let q := { p with tc := c, te := e, lastCyc := now }
  if (!p.aware || inp = .green) && b ≤ c then (.green, { q with tc := c - b })
  else if (!p.aware || inp ≠ .red) && b ≤ e then (.yellow, { q with te := e - b })
  else (.red, q)

/-- The two-rate marker of RFC 2698; `te` is the peak bucket. -/
def mark2698 (p : Policer) (n now : Nat) (inp : Colour) : Colour × Policer :=
  let c := min (p.cbs * tokenByte) (p.tc + gained p.cir p.lastCyc now)
  let e := min (p.ebs * tokenByte) (p.te + gained p.pir p.lastCyc now)
  let b := n * tokenByte
  let q := { p with tc := c, te := e, lastCyc := now }
  if (p.aware && inp = .red) || e < b then (.red, q)
  else if (p.aware && inp = .yellow) || c < b then (.yellow, { q with te := e - b })
  else (.green, { q with tc := c - b, te := e - b })

/-- One policer; off passes the colour on. -/
def runPolicer (p : Policer) (n now : Nat) (inp : Colour) : Colour × Policer :=
  if p.mode = 1 then mark2697 p n now inp else if p.mode = 2 then mark2698 p n now inp else (inp, p)

/-- The policing stages of a request at ingress (R252): the context's on the partner leg, then the link's and class's. True
where the request is red. -/
def police (s : State) (a : Arrival) (f : Frame) : State × Bool :=
  let n := countedLength s a.link { f := f, vlan := a.vlan }
  let now := s.clk.chimney1024
  let p1 := tget {} s.links.polCtx f.srcCtx
  let on1 := !f.leg && p1.mode ≠ 0
  let p2 := tget {} (linkOf s a.link).pols f.tc
  if f.tc = 7 || (!on1 && p2.mode = 0) then (s, false)
  else
    let c0 : Colour := if isService a.link && a.vlan.isSome && a.dei then .yellow else .green
    let (c1, q1) := if on1 then runPolicer p1 n now c0 else (.green, p1)
    let s1 := if on1 then onLinks s fun x => { x with polCtx := tput {} x.polCtx f.srcCtx q1 } else s
    if c1 = .red then (countLink s1 a.link 5, true)
    else
      let (c2, q2) := runPolicer p2 n now c1
      let s2 := if p2.mode = 0 then s1 else onLink s1 a.link fun x => { x with pols := tput {} x.pols f.tc q2 }
      match c2 with
      | .green => (countLink s2 a.link 3, false)
      | .yellow => (countLink s2 a.link 4, false)
      | .red => (countLink s2 a.link 5, true)

/-! ## The link -/

/-- The features in force on a link: those both sides advertise, and all of this module's on a service Flue (R206, R207). -/
def ownFeatures : Nat := 0xFF

/-- A feature was negotiated on a link. -/
def hasFeature (s : State) (l b : Nat) : Bool :=
  if isService l then tbit ownFeatures b
  else match (linkOf s l).hello with
    | some h => tbit h.features b && tbit ownFeatures b
    | none => false

/-- The feature that a request type needs (R206, R207). -/
def neededFeature (t : Nat) : Option Nat :=
  if t = tTileRead || t = tTileWrite then some 1
  else if t = tLease || t = tSnap || t = tPublish then some 5
  else if t = tContrib || t = tDeliver then some 0
  else if t = tMgmtRead || t = tMgmtWrite then some 6
  else none

/-- The negotiated features admit a request type; COH needs native or Forerunner coherence (R207, R282). -/
def featureOk (s : State) (l t : Nat) : Bool :=
  if t = tCoh then hasFeature s l 3 || hasFeature s l 4
  else match neededFeature t with
    | some b => hasFeature s l b
    | none => true

/-- REV judged (R32, R207): none where it is served. -/
def revStatus (s : State) (l rev : Nat) : Option Nat :=
  if rev = 0 then some stMalformed
  else if rev = 2 then none
  else if rev = 1 && (match (linkOf s l).hello with | some h => h.maxrev = 1 | none => false) then none
  else some stUnsupported

/-- REV, and the address field, whose bits [63:56] must be zero (R21, log 47). -/
def headStatus (s : State) (l : Nat) (f : Frame) : Option Nat :=
  match revStatus s l f.rev with
  | some st => some st
  | none => if f.mpa.toNat < 2 ^ 56 then none else some stUnsupported

/-- The leg and Flue that the Legs column of R203 admits for a type. A frame with LEG set on a partner link or a service Flue
is on no leg that the table admits (log 13). -/
def legOk (s : State) (l : Nat) (f : Frame) : Bool :=
  if f.leg then onFabricLeg f.typ && !isService l && linkRole s l ≠ 3
  else onPartnerLeg f.typ && (isService l || !(f.typ = tMgmtRead || f.typ = tMgmtWrite))

/-- The class that a request travels in from here (R203): a partner's TC 7 on a type of another class is carried at TC 6. -/
def classFix (f : Frame) : Frame := if !f.leg && f.tc = 7 && !isTc7 f.typ then { f with tc := 6 } else f

/-- A request arrives on a link and meets the checks of its frame (R200, R202, R203, R207, R223, R252, R412): none where it is
discarded or answered here. -/
def arrive (s : State) (a : Arrival) (f0 : Frame) : State × Option Req :=
  let l := a.link
  let f := classFix f0
  let r : Req := { a := a, f := f }
  if !(linkOf s l).up then (s, none)
  else
    let s := countLink s l 1
    if !isService l && (linkOf s l).hello.isNone then (countDiscard s 5, none)
    else if f.len ≠ f.payload.length || payloadLimit s l < f.len then (turnAway (countDiscard s 4) r stMalformed, none)
    else if s.cfg.hopsMax ≤ f.hops then (countLink s l 8, none)
    else
      match headStatus s l f with
      | some st => (turnAway s r st, none)
      | none =>
        if !legOk s l f then (turnAway s r stDenied, none)
        else if !atReady s then (turnAway s r stNotReady, none)
        else if s.pwr.state ≠ 0 then (turnAway s r stBusy, none)
        else if !featureOk s l f.typ then (turnAway s r stUnsupported, none)
        else
          match police s a f with
          | (s1, true) => (turnAway s1 r stBusy, none)
          | (s1, false) => (s1, some r)

/-! ## The partner leg -/

/-- The context belongs to the frame's requester (R208): its link, and on a service Flue its address and port. -/
def boundTo (x : Ctx) (a : Arrival) : Bool :=
  x.link = a.link && (!isService a.link || (x.ip = a.ip && x.port = a.port))

/-- A COH request's JOB is the job of a context open on its link (R283). -/
def cohJobOk (s : State) (l job : Nat) : Bool := s.ctx.any fun e => e.2.isOpen && e.2.link = l && e.2.job = job

/-- The context admits a partner-leg request (R208, R209, R283): none, or the status. -/
def ctxStatus (s : State) (a : Arrival) (f : Frame) : Option Nat :=
  let x := ctxOf s f.srcCtx
  if !x.isOpen || !boundTo x a then some stDenied
  else if f.typ = tCoh then (if cohJobOk s a.link f.job then none else some stDenied)
  else if f.job ≠ x.job || (jobEntry s x.job).isNone then some stDenied
  else none

/-! ## Windows -/

/-- What a window decides for a request (R211 to R213). -/
inductive Admit where
  | run
  | unseen
  | absorbed
  | stored (e : Seen)
  | status (st : Nat)
  | behind
deriving DecidableEq, Repr

/-- A seen number answered: an idempotent request runs again, any other has its stored outcome (R211). -/
def judged (w : SeqWin) (n : BitVec 32) : Admit :=
  match judge w n with
  | .fresh => .run
  | .progress => .absorbed
  | .replay e => if e.kind = 0 then .run else .stored e
  | .behind => .behind

/-- The partner-leg window judges a request (R211). A context without a window yet takes the first number as after H. -/
def judgePartner (s : State) (f : Frame) : Admit :=
  match pwinOf s f.srcCtx with
  | none => .run
  | some w => judged w f.seq

/-- The fabric-leg window judges a request (R211 to R213). -/
def judgeFabric (s : State) (f : Frame) : Admit :=
  match fwinOf s f with
  | some w => judged w.win f.seq
  | none => if f.sync then .run else if f.typ = tRead || f.typ = tTileRead then .unseen else .status stUnknown

/-- The number enters its window as in progress (R211 to R213), where a window and a stored result are free: false where the
request is answered BUSY. -/
def enterWindow (s : State) (f : Frame) : State × Bool :=
  if kindOf f.typ = 3 then (s, true)
  else
    let (s0, room) := makeResultRoom s f.typ
    if !room then (s0, false)
    else if f.leg then
      let fresh := f.sync && (match fwinOf s0 f with | some w => (judge w.win f.seq == .fresh) | none => true)
      if fresh then
        let s1 := onNet s0 fun n => { n with fwin := n.fwin.filter fun w => !fwinMatches f w }
        let (s2, ok) := makeWindowRoom s1
        if ok then
          (onNet s2 fun n => { n with
            fwin := n.fwin ++ [{ src := f.srcDev, ctx := f.srcCtx, dev := issuedFor f,
                                 win := markSeen { h := f.seq - 1 } f.seq f.typ s.clk.pilot }] }, true)
        else (s2, false)
      else (onFwin s0 f fun w => markSeen w f.seq f.typ s.clk.pilot, true)
    else
      let w := (pwinOf s0 f.srcCtx).getD { h := f.seq - 1 }
      (onNet s0 fun n => { n with pwin := tput none n.pwin f.srcCtx (some (markSeen w f.seq f.typ s.clk.pilot)) }, true)

/-- The answer that a window keeps for a number (R211). -/
def storedAnswer (e : Seen) : Answer := { status := e.status, result := e.result, info := e.info }

/-! ## Fragments -/

/-- Key of an assembly (R218). -/
def asmKey (f : Frame) : Nat × Nat × Nat × BitVec 32 := (if f.leg then f.srcDev + 1 else 0, f.srcCtx, issuedFor f, f.seq)

/-- The payloads in order of fragment number. -/
def joinFrags (n : Nat) (fs : List (Nat × List Byte)) : List Byte :=
  (List.range n).flatMap fun i => match fs.find? (·.1 = i) with
    | some x => x.2
    | none => []

/-- A fragment of a request (R218): the request made whole when it was the last one missing. -/
def assemble (s : State) (r : Req) : State × Option Req :=
  let f := r.f
  let n := f.fragsM1 + 1
  if n = 1 then (s, some r)
  else
    let k := asmKey f
    match s.net.asms.find? (·.key = k) with
    | some b =>
      if b.frags.any (·.1 = f.frag) || n ≤ f.frag || 32768 < (b.frags.map (·.2.length)).sum + f.payload.length then (s, none)
      else
        let fs := b.frags ++ [(f.frag, f.payload)]
        if fs.length = n then
          (onNet s fun x => { x with asms := x.asms.filter (·.key ≠ k) },
            some { r with f := { f with frag := 0, payload := joinFrags n fs } })
        else (onNet s fun x => { x with asms := updFirst (·.key = k) (fun y => { y with frags := fs }) x.asms }, none)
    | none =>
      if s.net.dropped.contains k then (turnAway s r stNoStage, none)
      else if 256 ≤ s.net.asms.length then (turnAway s r stBusy, none)
      else (onNet s fun x => { x with
        asms := x.asms ++ [{ key := k, r := r, frags := [(f.frag, f.payload)], sincePt := s.clk.pilot }] }, none)

/-! ## The owning module -/

/-- What the checks of R261 from 3 to 5 say of a fabric request: none where it passes. -/
def ownerEarly (s : State) (f : Frame) : Option Nat :=
  match jobEntry s f.job with
  | none => some stDenied
  | some (_, e) => if f.srcDev = selfDev s || jobRemote e then none else some stDenied

/-- Distance of the receiver's epoch ahead of the frame's (R221). -/
def epochDist (s : State) (f : Frame) : Nat := (ownEpoch s + 256 - f.epoch % 256) % 256

/-- A request is a walker request (R204). -/
def isWalker (f : Frame) : Bool := (f.typ = tRead || f.typ = tAtomic) && f.opa.getLsbD 63

/-- The rights that a request's type needs (R264): 0 read, 1 write, 2 atomic. -/
def reqAcc (f : Frame) : Nat :=
  if f.typ = tWrite || f.typ = tWritePush || f.typ = tTileWrite then 1
  else if f.typ = tAtomic || f.typ = tScatter || f.typ = tPublish then 2
  else if f.typ = tCoh then (if cohMsg f = 4 then 2 else if cohMsg f = 2 || cohMsg f = 3 then 1 else 0)
  else 0

/-- Where check 9 of R261 stands. -/
inductive Confirm where
  | passed (nc : Bool)
  | status (a : Answer)
  | wait (mpa : Nat)
deriving DecidableEq, Repr

/-- The confirmation of R262 for a request whose JVA must map to its MPA. A blocked or remote table line must come first. -/
def confirm (s : State) (f : Frame) : Confirm × State :=
  let mpa := f.mpa.toNat
  let mismatch : Answer := { status := stUnmapped, info := 1 }
  match jobEntry s f.job with
  | none => (.status (plain stDenied), s)
  | some (_, e) =>
    if !canonical e f.jva.toNat then (.status (plain stMalformed), s)
    else
      let (x, s1) := xlate s f.job f.jva.toNat (reqAcc f)
      -- a leaf that lacks the rights, or is IO, is judged by where it maps
      let leaf := cachedLeaf s1 f.job f.jva.toNat
      match x with
      | .need (.remote m) => (.wait m, s1)
      | .need (.blocked l) => (.wait (ownMpa s (l * 64)), s1)
      | .need _ => (.status mismatch, s1)
      | .ok m l => if m = mpa then (.passed (l.pbmt = 1), s1) else (.status mismatch, countTrn s1 7)
      | .bad st =>
        (match leaf with
          | some l => if leafMpa l f.jva.toNat = mpa then (.status (plain st), s1) else (.status mismatch, countTrn s1 7)
          | none => (.status (plain st), s1))
      | .none' c =>
        (match leaf with
          | some l => if c = 2 && leafMpa l f.jva.toNat = mpa then (.status (plain stDenied), s1)
                      else (.status mismatch, countTrn s1 7)
          | none => (.status mismatch, countTrn s1 7))

/-- A request goes on to the extent's new owner (R222): once, with FWD and FWD_FROM. It has passed this Chimney on
its way in and passes it again on its way out (log 49). -/
def forward (s : State) (r : Req) (dev ext : Nat) : State :=
  let f := r.f
  let a := mpaLpa f.mpa.toNat
  let mpa := BitVec.ofNat 64 (dev * 2 ^ 42 + ext * 2 ^ 30 + a % 2 ^ 30)
  let g := { f with fwd := true, fwdFrom := selfDev s, dstDev := dev, mpa := mpa, cell := dev / 64,
                    epoch := epochOf s (dev / 64), hops := f.hops + 1 }
  let fs := match pickLink s g with
    | some l => fragSize (payloadLimit s l)
    | none => 4096
  let s1 := onFwin s f fun w => settleSeen w f.seq { status := stMoved }
  forAll (fragment fs g) (fun s x => sendRouted s x) s1

/-- The checks 7 and 8 of R261 at the owning module (R222, R313): the request goes on, is answered, or is forwarded. -/
inductive Owner where
  | serve
  | status (st : Nat)
  | forward (dev ext : Nat)
deriving DecidableEq, Repr

/-- Check 7: the slot holds an extent, or a forwarding entry (R23, R222). A request to a Hearth whose domain is off is answered
DISABLED (R405). -/
def slotCheck (s : State) (f : Frame) : Owner :=
  let a := mpaLpa f.mpa.toNat
  if mpaDev f.mpa.toNat ≠ selfDev s then .status (if f.fwd then stStaleEpoch else stUnmapped)
  else if !s.pwr.domains.getLsbD (8 + lpaHearth a) then .status stDisabled
  else if extPresent s a && (extOf s a).state ≠ 6 then .serve
  else if f.fwd then .status stStaleEpoch
  else match forwardOf s a with
    | some (dev, ext) => .forward dev ext
    | none => .status stUnmapped

/-- Check 8 for a memory request (R261, R313). -/
def admitCheck (s : State) (f : Frame) : Option Nat :=
  let a := mpaLpa f.mpa.toNat
  if isWalker f then (if admitsWalker s a f.job then none else some stDenied)
  else admission s a f.job f.srcDev f.srcCtx (isReadReq f)

/-- The request counts in its extent's ADMITTED from here on (R310, R314). -/
def beginAdmitted (s : State) (r : Req) : State × Req :=
  if r.adm then (s, r)
  else (onExt s fun x => { x with
    tab := tmod {} x.tab (lpaExt (mpaLpa r.f.mpa.toNat)) fun e => { e with admitted := e.admitted + 1 } }, { r with adm := true })

/-- STALE_EPOCH with the full current epoch in INFO (R202, R221). -/
def staleAnswer (s : State) : Answer := { status := stStaleEpoch, info := BitVec.ofNat 64 s.cell.map.epoch }

/-- A status answered to a request; STALE_EPOCH and MOVED carry what R202 gives them. -/
def answerStatus (s : State) (r : Req) (st : Nat) : State :=
  if st = stStaleEpoch then answer s r (staleAnswer s) else answer s r (plain st)

end Sys2Proof.Machine
end

