-- ==== Sys2Proof/Machine/Windows.lean ====
section
/-! DEFINITION. Work windows: the header (R89), opening (R87, R88) and closing (R107), and the device's conditional writes to
flag lines (R92). -/

namespace Sys2Proof.Machine

/-! ## The header -/

/-- Bytes 0 to 15 of the window header (R89) in state `st` with cause `cause`. -/
def winHeader (w : Win) (st cause : Nat) : List Byte :=
  natLe 1 (2 + 16 * st) ++ natLe 2 (w.nslots % 2048) ++ natLe 1 cause ++ natLe 4 w.late ++ natLe 4 w.viol ++
    natLe 4 w.cancels ++ List.replicate 16 0

/-- The header written at the home. -/
def writeWinHeader (s : State) (w : Win) (st cause : Nat) : State := serveHome s (ownWrite (winLpa w 0) (winHeader w st cause))

/-! ## Opening -/

/-- What an open finds (R87, R88): the window, a status, or what its translation needs first. -/
inductive Opened where
  | window (w : Win)
  | status (st : Nat)
  | need (r : TableRead)
deriving DecidableEq, Repr

/-- LPAs of the pages of a window, in order; rights of a window open are those of a write (R264). -/
def winPages (s : State) (job : Nat) : Nat → Nat → List Nat → Opened × State
  | 0, _, acc => (.window { pages := acc.reverse }, s)
  | n + 1, jva, acc =>
    let (x, s1) := xlate s job jva 1
    match x with
    | .need r => (.need r, s1)
    | .bad st => (.status st, s1)
    | .none' c => (.status (if c = 2 then stDenied else stUnmapped), s1)
    | .ok m _ =>
      if mpaDev m = selfDev s then winPages s1 job n (jva + 4096) (mpaLpa m :: acc) else (.status stMalformed, s1)

/-- Two windows share a line: both start at the head of each of their pages. -/
def winsMeet (a b : Win) : Bool := a.pages.any fun p => b.pages.any fun q => p / 4096 = q / 4096

/-- The window shares a line with an open window of this module or with a translated fault ring (R88). -/
def winClash (s : State) (w : Win) : Bool :=
  s.ctx.any (fun e => match e.2.win with
    | some v => v.state ≠ 0 && winsMeet w v
    | none => false) ||
  s.trn.rings.any fun e => match e.2 with
    | some r => r.lpas.any fun a => (winOffset w a).isSome
    | none => false

/-- The checks of an open of `n` slots at a JVA by a job (R87, R88, R212). -/
def openWindow (s : State) (job jva n : Nat) : Opened × State :=
  if n = 0 || 1024 < n || jva % 4096 ≠ 0 then (.status stMalformed, s)
  else
    match winPages s job (((n + 1) * 256 + 4095) / 4096) jva [] with
    | (.window w0, s1) =>
      let w := { w0 with base := jva, nslots := n, lastPt := s.clk.pilot }
      let e := lpaExt (nth 0 w.pages 0)
      if !(w.pages.all fun p => lpaExt p = e && extPresent s1 p) || winClash s1 w then (.status stMalformed, s1)
      else match admission s1 (nth 0 w.pages 0) job (selfDev s) 0xFFFF false with
        | some st => (.status st, s1)
        | none => (.window w, s1)
    | x => x

/-! ## Flag writes -/

/-- A header field of a slot as memory holds it (R90). -/
def slotNat (s : State) (w : Win) (i o n : Nat) : Nat := readNat s (slotLpa w i + o) n

/-- The flag of a slot. -/
def slotFlag (s : State) (w : Win) (i : Nat) : Nat := slotNat s w i 0 1

/-- The flag line takes a device's conditional write now, or what must come first is begun (R92). -/
def flagReady (s : State) (w : Win) (i : Nat) : State × Bool :=
  let l := lineOf (slotLpa w i)
  let (s1, a) := prepRead s l
  if a then prepWrite s1 l false else (s1, false)

/-- Header bytes that a completion writes over a flag line (R90, R100): result generation, status, end, shadow count, time,
flag. -/
def flagLineWith (s : State) (w : Win) (i st end_ shadow flag : Nat) : List Byte :=
  let old := lineBytes s (lineOf (slotLpa w i))
  let gen := slotNat s w i 4 4
  let b := overlay old 8 (natLe 4 gen)
  let c := overlay b 12 (natLe 1 st ++ natLe 1 (end_ + 4 * b2n (tbit (slotNat s w i 13 1) 2)) ++ natLe 2 shadow)
  overlay (overlay c 28 (natLe 4 (s.clk.pilot % 2 ^ 32))) 0 (natLe 1 flag)

/-- The final write over a slot's flag line; a poisoned flag line takes no partial write (R43). -/
def finishFlag (s : State) (w : Win) (i st end_ shadow flag : Nat) : State :=
  let l := lineOf (slotLpa w i)
  if isPoisoned s l then s else homeStore s l (flagLineWith s w i st end_ shadow flag) false false

/-! ## Cancels before take, and closing -/

/-- The slots of a window whose FAILED is due before a take (R102, R107): one still POSTED when its window closes is
written FAILED with DISABLED and END 0b00, one under CANCEL with BUSY and END 0b01. Those whose line is not ready wait. -/
def finishSlot (s : State) (c i : Nat) : State :=
  match (ctxOf s c).win with
  | none => s
  | some w =>
    let (s1, ready) := flagReady s w i
    if !ready then s1
    else
      let fl := slotFlag s1 w i
      let s2 :=
        if fl = 5 then onWin (finishFlag s1 w i stBusy 1 0 4) c fun x => { x with cancels := satInc 32 x.cancels, changed := true }
        else if fl = 1 && w.state ≠ 1 then finishFlag s1 w i stDisabled 0 0 4
        else s1
      onWin s2 c fun x => { x with cancelQ := x.cancelQ.filter (· ≠ i) }

/-- Every due FAILED is tried once. -/
def finishSlots (s : State) : State :=
  forAll s.ctx (fun s e => match e.2.win with
    | some w => forAll w.cancelQ (fun s i => finishSlot s e.1 i) s
    | none => s) s

/-- Items that run for a context's window. -/
def ctxItems (s : State) (c : Nat) : List Item := s.stv.items.filter fun it => it.ctx = c && !it.noFlag

/-- A closing window is closed once its slots are settled (R107): STATE and CLOSE_CAUSE are written, and it is no window any
more. -/
def finishWindow (s : State) (c : Nat) : State :=
  match (ctxOf s c).win with
  | none => s
  | some w =>
    if w.state = 2 && w.cancelQ.isEmpty && (ctxItems s c).isEmpty then
      onCtxN (writeWinHeader s w 0 w.cause) c fun x => { x with win := none }
    else s

/-- A window closes because its context closes or a page of it is invalidated (R107): slots still POSTED are refused,
TAKEN items complete. -/
def closeWindow (s : State) (c cause : Nat) : State :=
  match (ctxOf s c).win with
  | none => s
  | some w =>
    if w.state ≠ 1 then s
    else
      let h := winHearth w
      let x := schedOf s h
      let posted := ((x.queue ++ x.pend).filter (·.ctx = c)).map (·.slot)
      let s1 := onSchedN s h fun y => { y with
        queue := y.queue.filter (fun q => q.ctx ≠ c), pend := y.pend.filter (fun q => q.ctx ≠ c) }
      let s2 := onSchedN s1 h admitPend
      let s3 := onWin s2 c fun v => { v with state := 2, cause := cause, cancelQ := v.cancelQ ++ posted, changed := false }
      finishWindow (finishSlots (writeWinHeader s3 w 2 0)) c

/-- A window closes because the lease of its extent has ended, or its Hearth is lost (R107): its header is written once while
it may be, its items stop and write no flag. -/
def dropWindow (s : State) (c cause : Nat) : State :=
  match (ctxOf s c).win with
  | none => s
  | some w =>
    let s1 := onSchedN s (winHearth w) fun y => admitPend { y with
      queue := y.queue.filter (fun q => q.ctx ≠ c), pend := y.pend.filter (fun q => q.ctx ≠ c) }
    let s2 := writeWinHeader s1 w 0 cause
    onStv (onCtxN s2 c fun x => { x with win := none }) fun v => { v with
      items := v.items.map fun it => if it.ctx = c then { it with cancelled := true, noFlag := true } else it }

/-- Every open window whose pages lie in an extent closes with its lease (R320). -/
def dropWindowsIn (s : State) (k cause : Nat) : State :=
  forAll s.ctx (fun s e => match e.2.win with
    | some w => if lpaExt (nth 0 w.pages 0) = k then dropWindow s e.1 cause else s
    | none => s) s

end Sys2Proof.Machine
end

