-- ==== Sys2Proof/Machine/Lease.lean ====
section
/-! DEFINITION. Extent and snapshot leases (R315 to R321), snapshot regions and their versions (R322 to R332), as the owning
module serves their requests. -/

namespace Sys2Proof.Machine

/-- A lease and snapshot counter counts one more (R334). -/
def countLse (s : State) (c : Nat) : State := onExt s fun x => { x with ctr := tmod 0 x.ctr c (satInc 64) }

/-- Extent entry number `k` changed. -/
def onExtN (s : State) (k : Nat) (f : Ext → Ext) : State := onExt s fun x => { x with tab := tmod {} x.tab k f }

/-- Extent entry number `k`. -/
def extN (s : State) (k : Nat) : Ext := tget {} s.ext.tab k

/-- Numbers of the live leases, of both kinds (R315). -/
def liveLeases (s : State) : List Nat :=
  (s.ext.tab.filter fun e => e.2.state = 3).map (fun e => e.2.leaseNo) ++ s.ext.snaps.map (·.no)

/-- The next lease number: 0 and the numbers of live leases are skipped (R315). -/
def freshLease (live : List Nat) : Nat → Nat → Nat
  | 0, n => n
  | k + 1, n => if n = 0 || live.contains n then freshLease live k ((n + 1) % 2 ^ 32) else n

/-- A lease number taken. -/
def takeLease (s : State) : State × Nat :=
  let live := liveLeases s
  let n := freshLease live (live.length + 2) s.ext.nextLease
  (onExt s fun x => { x with nextLease := (n + 1) % 2 ^ 32 }, n)

/-- The term granted for one asked (R317). -/
def leaseTerm (s : State) (dur : Nat) : Nat :=
  max s.ext.min (min s.ext.max (if dur = 0 then s.ext.dflt else dur))

/-- RESULT of a lease response: the number, and a count of Pilot ticks (R317). -/
def leaseResult (no pt : Nat) : W64 := BitVec.ofNat 64 (no % 2 ^ 32 + pt % 2 ^ 32 * 2 ^ 32)

/-- The slot of R479: Hearth in bits [11:9], slot in bits [8:0]. -/
def slotBytes (k : Nat) : List Byte := natLe 2 k

/-! ## The end of an extent lease (R320) -/

/-- Lines of an extent that the filter records. -/
def extentLines (s : State) (k : Nat) : List Nat :=
  ((sliceAt s (k / 512)).filter.filter fun e => lpaExt (e.line * 64) = k).map (·.line)

/-- SNP_INV for a recorded line that has no transaction. -/
def invalidateLine (s : State) (l : Nat) : State :=
  if (txOf s l).isSome || (lockOf s l).isSome then s
  else
    let s1 := openTx s l none [] 0x20 0 (snoopTargets s l [])
    match txOf s1 l with
    | some t => if t.snoops.isEmpty then setHome (dropTx s1 l) l none else s1
    | none => s1

/-- Pins in an extent are released (R54, R320). -/
def releasePins (s : State) (k : Nat) : State :=
  onT0Slice s (k / 512) fun x => { x with
    tiles := x.tiles.map fun t => if lpaExt (t.tile * 16384) = k then { t with pinned := false } else t }

/-- An extent lease ends at one order point (R320 steps 1 to 3). -/
def endLease (s : State) (k cause : Nat) : State :=
  let e := extN s k
  let s1 := ashExempt s (if cause = 2 then 0 else 1) (k / 512) 0x0402
    [(0, slotBytes k), (4, natLe 4 e.leaseNo), (8, natLe 1 cause)]
  let s2 := dropWindowsIn s1 k 2
  let s3 := onExtN s2 k fun x => { x with state := 4 }
  checkRings (forAll (extentLines s3 k) invalidateLine (releasePins s3 k))

/-- The drain of a revoked extent is complete (R320 step 4). -/
def drained (s : State) (k : Nat) : Bool :=
  (extN s k).admitted = 0 && (extentLines s k).isEmpty &&
    (sliceAt s (k / 512)).txs.all fun t => lpaExt (t.line * 64) ≠ k

/-! ## LEASE requests -/

/-- The snapshot lease of a region by number. -/
def snapLeaseOf (s : State) (region no : Nat) : Option SLease := s.ext.snaps.find? fun l => l.no = no && l.region = region

/-- The extent is being moved away: the committed map holds its move in copying (R353). -/
def movingOut (s : State) (k : Nat) : Bool :=
  s.cell.map.moves.any fun m => m.stage = 1 && m.fromPos = s.boot.pos && m.fromH * 512 + m.fromSlot = k

/-- LEASE ACQUIRE (R318). -/
def leaseTake (s : State) (r : Req) : State :=
  let k := lpaExt (mpaLpa r.f.mpa.toNat)
  let e := extN s k
  if e.state = 5 || movingOut s k then refuse s r stBusy
  else if e.vpool || !(e.state = 2 || e.state = 3 || e.state = 4) || e.job ≠ r.f.job then refuse s r stDenied
  else if e.state = 3 then answer s r { status := stConflict, info := BitVec.ofNat 64 e.leaseNo }
  else if e.state = 4 then refuse s r stRevoked
  else if 131072 ≤ (liveLeases s).length then refuse s r stBusy
  else
    let (s1, n) := takeLease s
    let t := leaseTerm s (fld r.f.opb.toNat 0 32)
    let s2 := onExtN s1 k fun x => { x with
      state := 3, leaseNo := n, leaseEnd := s.clk.pilot + t, term := t, holderDev := r.f.srcDev, holderCtx := r.f.srcCtx }
    answer (countLse s2 0) r { result := leaseResult n t }

/-- What RENEW, RELEASE and QUERY name (R319). -/
inductive Named where
  | extent (k : Nat) (e : Ext)
  | snap (l : SLease)
  | denied
  | gone
deriving DecidableEq, Repr

/-- The lease that a request names: of its JVA's extent or region, by number, for the lease's own job (R319). -/
def namedLease (s : State) (f : Frame) : Named :=
  let a := mpaLpa f.mpa.toNat
  let no := fld f.opa.toNat 32 32
  let e := extOf s a
  if e.state = 3 && e.leaseNo = no then (if e.job = f.job then .extent (lpaExt a) e else .denied)
  else match snapLeaseOf s (regionOf a) no with
    | some l => if l.job = f.job then .snap l else .denied
    | none => .gone

/-- A snapshot lease is gone, and its version freed where nothing else holds it (R331). -/
def endSnap (s : State) (l : SLease) : State :=
  freeVersions (onExt s fun x => { x with snaps := x.snaps.filter (·.no ≠ l.no) }) l.region

/-- LEASE RENEW (R319): the end is its own order point plus the granted term. -/
def leaseAgain (s : State) (r : Req) : State :=
  let t := leaseTerm s (fld r.f.opb.toNat 0 32)
  match namedLease s r.f with
  | .denied => refuse s r stDenied
  | .gone => refuse s r stRevoked
  | .extent k e =>
    answer (countLse (onExtN s k fun x => { x with leaseEnd := s.clk.pilot + t, term := t }) 1) r
      { result := leaseResult e.leaseNo t }
  | .snap l =>
    answer (countLse (onExt s fun x => { x with
      snaps := x.snaps.map fun y => if y.no = l.no then { y with endPt := s.clk.pilot + t, term := t } else y }) 1) r
      { result := leaseResult l.no t }

/-- LEASE RELEASE (R319, R320, R331). -/
def leaseGive (s : State) (r : Req) : State :=
  match namedLease s r.f with
  | .denied => refuse s r stDenied
  | .gone => refuse s r stRevoked
  | .extent k e => answer (endLease s k 2) r { result := leaseResult e.leaseNo (e.leaseEnd - s.clk.pilot) }
  | .snap l => answer (endSnap s l) r { result := leaseResult l.no (l.endPt - s.clk.pilot) }

/-- LEASE QUERY (R319). -/
def leaseAsk (s : State) (r : Req) : State :=
  match namedLease s r.f with
  | .denied => refuse s r stDenied
  | .gone => refuse s r stRevoked
  | .extent _ e => answer s r { result := leaseResult e.leaseNo (e.leaseEnd - s.clk.pilot) }
  | .snap l => answer s r { result := leaseResult l.no (l.endPt - s.clk.pilot) }

/-- LOP of a LEASE request (R317). -/
def lopOf (f : Frame) : Nat := fld f.opa.toNat 0 4

/-- A LEASE request at the owning module (R317); a reserved LOP is MALFORMED. -/
def serveLease (s : State) (r : Req) : State :=
  match lopOf r.f with
  | 1 => leaseTake s r
  | 2 => leaseAgain s r
  | 3 => leaseGive s r
  | 4 => leaseAsk s r
  | _ => refuse s r stMalformed

/-! ## SNAP requests -/

/-- SOP of a SNAP request (R322). -/
def sopOf (f : Frame) : Nat := fld f.opa.toNat 0 4

/-- The region of an address that is not being destroyed. -/
def liveRegion (s : State) (a : Nat) : Option Region :=
  match regionAt s a with
  | some r => if r.destroying then none else some r
  | none => none

/-- SNAP CREATE (R323). -/
def regionMake (s : State) (r : Req) : State :=
  let a := mpaLpa r.f.mpa.toNat
  match regionAt s a with
  | some g => if g.destroying then refuse s r 0xC3
              else answer s r { status := stConflict, info := BitVec.ofNat 64 g.current }
  | none =>
    match admission s a r.f.job r.f.srcDev 0xFFFF false with
    | some st => refuse s r st
    | none =>
      if 65536 ≤ s.ext.regions.length then refuse s r 0xC0
      else
        let g : Region := { job := r.f.job, exported := r.f.opa.getLsbD 5, current := 1, versions := [{ num := 1 }] }
        answer (onExt s fun x => { x with regions := tput none x.regions (regionOf a) (some g) }) r { info := 1 }

/-- SNAP OPEN (R329). -/
def regionOpen (s : State) (r : Req) : State :=
  let a := mpaLpa r.f.mpa.toNat
  match liveRegion s a with
  | none => refuse s r 0xC3
  | some g =>
    if g.job ≠ r.f.job && !g.exported then refuse s r stDenied
    else
      let want := if r.f.opa.getLsbD 4 then g.current else fld r.f.opb.toNat 0 32
      match g.versions.find? (·.num = want) with
      | none => answer s r { status := 0xC2, info := BitVec.ofNat 64 g.current }
      | some v =>
        if v.lost then refuse s r stRevoked
        else
          let old := viewLease s (regionOf a) r.f.job r.f.srcDev r.f.srcCtx
          if old.isNone && 131072 ≤ (liveLeases s).length then refuse s r stBusy
          else
            let s1 := match old with
              | some l => onExt s fun x => { x with snaps := x.snaps.filter (·.no ≠ l.no) }
              | none => s
            let (s2, n) := takeLease s1
            let t := leaseTerm s (fld r.f.opb.toNat 32 32)
            let s3 := onExt s2 fun x => { x with
              snaps := x.snaps ++ [{ no := n, job := r.f.job, dev := r.f.srcDev, ctx := r.f.srcCtx, region := regionOf a,
                                     version := want, endPt := s.clk.pilot + t, term := t }] }
            answer (countLse (freeVersions s3 (regionOf a)) 0) r { result := leaseResult n t, info := BitVec.ofNat 64 want }

/-- SNAP CLOSE (R331): the version that the view key holds open. A key that holds none is answered REVOKED, as a lease number
that is not live (log 17). -/
def regionClose (s : State) (r : Req) : State :=
  let a := mpaLpa r.f.mpa.toNat
  match regionAt s a with
  | none => refuse s r 0xC3
  | some _ =>
    match viewLease s (regionOf a) r.f.job r.f.srcDev r.f.srcCtx with
    | some l => answer (endSnap s l) r { result := leaseResult l.no (l.endPt - s.clk.pilot) }
    | none => refuse s r stRevoked

/-- SNAP QUERY (R322): the current version in INFO; from a job that may not open the region, DENIED (log 17). -/
def regionAsk (s : State) (r : Req) : State :=
  match liveRegion s (mpaLpa r.f.mpa.toNat) with
  | none => refuse s r 0xC3
  | some g =>
    if g.job ≠ r.f.job && !g.exported then refuse s r stDenied
    else answer s r { info := BitVec.ofNat 64 g.current }

/-- A region is being destroyed (R332): its closed versions go, and one that is open and shares the working copy is copied
first. -/
def destroyRegion (s : State) (k : Nat) : State :=
  let s1 := freeVersions (onRegion s k fun x => { x with destroying := true }) k
  match tget none s1.ext.regions k with
  | some g => if regionShared g then startCopy s1 (k * 2 ^ 21) none else s1
  | none => s1

/-- SNAP DESTROY (R332). -/
def regionDestroy (s : State) (r : Req) : State :=
  let a := mpaLpa r.f.mpa.toNat
  match liveRegion s a with
  | none => refuse s r 0xC3
  | some g =>
    if g.job ≠ r.f.job then refuse s r stDenied
    else answer (destroyRegion s (regionOf a)) r (plain stOk)

/-- A SNAP request at the owning module (R322); a reserved SOP is MALFORMED. -/
def serveSnap (s : State) (r : Req) : State :=
  match sopOf r.f with
  | 1 => regionMake s r
  | 2 => regionOpen s r
  | 3 => regionClose s r
  | 4 => regionAsk s r
  | 5 => regionDestroy s r
  | _ => refuse s r stMalformed

/-! ## PUBLISH -/

/-- The next version number (R324). -/
def nextVersion (n : Nat) : Nat := if (n + 1) % 2 ^ 32 = 0 then 1 else (n + 1) % 2 ^ 32

/-- Lines of a region that the filter records X. -/
def ownedLines (s : State) (k : Nat) : List Nat :=
  ((sliceAt s (lpaHearth (k * 2 ^ 21))).filter.filter fun e =>
    regionOf (e.line * 64) = k && (match e.st with | .x _ => true | _ => false)).map (·.line)

/-- The compare of a publish (R325): none where it goes on. -/
def publishStop (s : State) (k parent job : Nat) : Option Answer :=
  match tget none s.ext.regions k with
  | none => some (plain 0xC3)
  | some g =>
    let e := extOf s (k * 2 ^ 21)
    let openNow := fun n => s.ext.snaps.any fun l => l.region = k && l.version = n
    if g.destroying then some (plain 0xC3)
    else if g.job ≠ job then some (plain stDenied)
    else if e.state ≠ 3 then some (plain stRevoked)
    else if parent ≠ g.current then some { status := stConflict, info := BitVec.ofNat 64 g.current }
    else if 15 < (g.versions.filter fun v => openNow v.num).length + 1 then some (plain 0xC1)
    else none

/-- A publish at its order point (R325): what it answers, or none while lines are still to be taken back from their owners or
a copy of the region runs; then it is tried again. -/
def publishNow (s : State) (k parent job : Nat) : State × Option Answer :=
  match tget none s.ext.regions k with
  | none => (s, some (plain 0xC3))
  | some g =>
    if g.copying.isSome then (s, none)
    else match publishStop s k parent job with
      | some a => ((if a.status = stConflict then countLse s 6 else s), some a)
      | none =>
        let (s1, ready) := prepReads s (ownedLines s k)
        if !ready then (s1, none)
        else
          let n := nextVersion g.current
          let s2 := onRegion s1 k fun x => { x with current := n, versions := x.versions ++ [{ num := n }] }
          (countLse (freeVersions s2 k) 5, some { result := BitVec.ofNat 64 n })

/-- A PUBLISH request at the owning module (R325); while it must wait it stands with the region's waiters. -/
def servePublish (s : State) (r : Req) : State :=
  let k := regionOf (mpaLpa r.f.mpa.toNat)
  match publishNow s k (fld r.f.opa.toNat 0 32) r.f.job with
  | (s1, some a) => answer s1 r a
  | (s1, none) => onRegion s1 k fun x => { x with waiters := x.waiters ++ [r] }

end Sys2Proof.Machine
end

