-- ==== Sys2Proof/Machine/Operands.lean ====
section
/-! DEFINITION. Operand forms of the Stove's instructions (R112, R114): fields of a word, immediates, addresses, and the
fields of a work slot (R136). -/

namespace Sys2Proof.Machine

/-- Class and operation of a word (R112). -/
def wCls (w : BitVec 64) : Nat := wordFld w 60 4
def wOpc (w : BitVec 64) : Nat := wordFld w 54 6
/-- Guard fields. -/
def wGe (w : BitVec 64) : Bool := w.getLsbD 53
def wGn (w : BitVec 64) : Bool := w.getLsbD 52
def wGp (w : BitVec 64) : Nat := wordFld w 49 3
/-- Register fields. -/
def wDst (w : BitVec 64) : Nat := wordFld w 44 5
def wSa (w : BitVec 64) : Nat := wordFld w 39 5
def wSb (w : BitVec 64) : Nat := wordFld w 34 5
def wSc (w : BitVec 64) : Nat := wordFld w 27 5
/-- Width or variant. -/
def wW (w : BitVec 64) : Nat := wordFld w 32 2
/-- Form I immediate, and its sign extension to 64 bits. -/
def wImm (w : BitVec 64) : Nat := wordFld w 0 32
def wSext (w : BitVec 64) : W64 := (BitVec.ofNat 32 (wImm w)).signExtend 64
/-- Form T fields. -/
def wFmt (w : BitVec 64) : Nat := wordFld w 23 4
def wCvt (w : BitVec 64) : Nat := wordFld w 19 4
def wImm19 (w : BitVec 64) : Nat := wordFld w 0 19
def wSext19 (w : BitVec 64) : W64 := (BitVec.ofNat 19 (wImm19 w)).signExtend 64
/-- L of the accumulating instructions: bit 18 of the short immediate. -/
def wL (w : BitVec 64) : Bool := w.getLsbD 18

/-- A scalar register of a thread. -/
def sReg (t : Thread) (r : Nat) : W64 := tget 0 t.s (r % 32)
/-- A vector register of a thread, by the low 3 bits of the field. -/
def vReg (t : Thread) (r : Nat) : VReg := tget 0 t.v (r % 8)
/-- An accumulator of a thread, by the low 2 bits of the field. -/
def aReg (t : Thread) (r : Nat) : Acc := tget {} t.a (r % 4)
/-- A predicate of a thread, by the low 3 bits. -/
def pReg (t : Thread) (r : Nat) : Bool := t.p.getLsbD (r % 8)

/-- The thread with a scalar register written. -/
def setS (t : Thread) (r : Nat) (v : W64) : Thread := { t with s := tput 0 t.s (r % 32) v }
/-- The thread with a vector register written. -/
def setV (t : Thread) (r : Nat) (v : VReg) : Thread := { t with v := tput 0 t.v (r % 8) v }
/-- The thread with an accumulator written. -/
def setA (t : Thread) (r : Nat) (a : Acc) : Thread := { t with a := tput {} t.a (r % 4) a }
/-- The thread with a predicate written. -/
def setP (t : Thread) (r : Nat) (b : Bool) : Thread :=
  { t with p := if b then t.p ||| BitVec.ofNat 8 (2 ^ (r % 8)) else t.p &&& ~~~(BitVec.ofNat 8 (2 ^ (r % 8))) }
/-- The thread at its next word. -/
def nextPc (t : Thread) : Thread := { t with pc := t.pc + 1 }

/-- Second operand of the scalar class and the compares: sSB, or the immediate where W[0] is 1 (R114). -/
def opB (t : Thread) (w : BitVec 64) : W64 := if wW w % 2 = 1 then wSext w else sReg t (wSb w)

/-- Address of a form I memory instruction (R114). -/
def addrI (t : Thread) (w : BitVec 64) : Nat := (sReg t (wSa w) + wSext w).toNat
/-- Address of a form T memory instruction (R114). -/
def addrT (t : Thread) (w : BitVec 64) : Nat := (sReg t (wSa w) + wSext19 w).toNat

/-- Target of a branch: the word's index plus the immediate, as a word index where it is not negative (R114). -/
def target (t : Thread) (w : BitVec 64) : Nat := ((t.pc : Int) + (wSext w).toInt).toNat

/-- The operand of a work slot at slot bits `lo` to `lo + n - 1` (R136). -/
def opFld (it : Item) (lo n : Nat) : Nat := fld it.slotBits.toNat lo n

end Sys2Proof.Machine
end

