-- ==== Sys2Proof/Machine/Access.lean ====
section
/-! DEFINITION. A Stove's accesses to memory (R19, R20, R115, R215): lines and tiles of this module at their homes, of other
modules by requests. An access that cannot go on yet has begun what it needs, and its command is given again. -/

namespace Sys2Proof.Machine

/-- The outcome of one attempt at an access. -/
inductive Got (α : Type) where
  | ok (x : α)
  | wait
  | bad (status : Nat)
deriving DecidableEq, Repr

/-- Where a line that may be read stands: at its home on this module, or among what came in answer to a request; or the
status with which its extent answers (R313). -/
inductive Src where
  | here (lpa : Nat)
  | far (key : Nat)
  | refused (status : Nat)
deriving DecidableEq, Repr

/-- A failure kept for an item under a key: a page, or a line of another module. -/
def badOf (it : Item) (k : Nat) : Option Nat := (it.badPages.find? (·.1 = k)).map Prod.snd

/-- The failure has been met. -/
def clearBad (s : State) (i : ItemId) (k : Nat) : State :=
  onItem s i fun it => { it with badPages := it.badPages.filter (·.1 ≠ k) }

/-- A JVA translated for an item (R19): with its leaf. -/
def stoveXlate (s : State) (it : Item) (jva acc : Nat) : State × Got (Nat × Leaf) :=
  match badOf it (jva / 4096) with
  | some st => (clearBad s it.id (jva / 4096), .bad st)
  | none =>
    match translate s (.item it.id it.stove it.ctx) it.job jva acc s.clk.pilot with
    | (s1, .ok m l) => (s1, .ok (m, l))
    | (s1, .wait) => (s1, .wait)
    | (s1, .fail st) => (s1, .bad st)

/-- Where an access to a JVA goes: a place of this module that admits it, or another module (R222, R313, R330). -/
def locate (s : State) (it : Item) (jva acc : Nat) : State × Got Src :=
  match stoveXlate s it jva acc with
  | (s1, .wait) => (s1, .wait)
  | (s1, .bad st) => (s1, .bad st)
  | (s1, .ok (m, _)) =>
    if mpaDev m ≠ selfDev s1 then (s1, .ok (.far m))
    else
      let a := mpaLpa m
      let rd := acc = 0 || acc = 3
      if extPresent s1 a && (extOf s1 a).state ≠ 6 then
        match admission s1 a it.job (selfDev s1) it.ctx rd with
        | some st => (s1, if st = stBusy then .wait else .ok (.refused st))
        | none => (s1, .ok (.here (if rd then viewLpa s1 a it.job (selfDev s1) it.ctx else a)))
      else match forwardOf s1 a with
        | some (dev, ext) => (s1, .ok (.far (dev * 2 ^ 42 + ext * 2 ^ 30 + a % 2 ^ 30)))
        | none => (s1, .ok (.refused stUnmapped))

/-- TAG of a Stove thread's requests (R215). -/
def stoveTag (it : Item) (n : Nat) : Nat := it.stove * 256 + n % 256

/-- A request of this module is under way, or held for its space, for an issuer of which `p` holds. -/
def outstanding (s : State) (p : Issuer → Bool) : Bool :=
  s.net.outs.any (fun o => p o.issuer || o.followers.any p) || s.net.waitSync.any (fun w => p w.2.2) ||
    s.net.reissue.any fun x => !x.2.2 && p x.2.1

/-- A frame stands in an egress queue: link and class (R235). -/
def queuedOn (s : State) (f : Frame) : Option Nat :=
  (s.links.tab.find? fun l => l.2.q.any fun c => c.2.any fun o =>
    o.f.leg && o.f.seq = f.seq && o.f.srcCtx = f.srcCtx && o.f.srcDev = f.srcDev && o.f.dstDev = f.dstDev && o.f.typ = f.typ).map
    Prod.fst

/-- A read joins a leader that waits in an egress queue (R235). -/
def joinLeader (s : State) (f : Frame) (who : Issuer) : Option State :=
  match s.net.outs.find? (fun o => o.f.job = f.job && o.f.typ = f.typ && o.f.jva = f.jva && o.f.mpa = f.mpa && !o.f.nocomb &&
      !f.nocomb && o.followers.length < 63 && !isWalker o.f && (queuedOn s o.f).isSome) with
  | none => none
  | some o =>
    let s1 := match queuedOn s o.f with
      | some l => countLink s l 9
      | none => s
    some (onNet s1 fun n => { n with
      outs := updFirst (·.num = o.num) (fun x => { x with followers := x.followers ++ [who] }) n.outs })

/-- A read leaves for another module, or joins a leader (R235). -/
def sendRead (s : State) (f : Frame) (who : Issuer) : State :=
  match joinLeader s f who with
  | some s1 => s1
  | none => sendFabric s f who

/-- Key of a line of another module, as thread `n` of an item fetches it. -/
def farKey (n m : Nat) : Nat := 2 ^ 60 + n * 2 ^ 61 + m

/-- Key of a tile of another module. -/
def farTileKey (n m : Nat) : Nat := 2 ^ 59 + farKey n m

/-- A line or tile of another module: at hand, failed, or asked for. -/
def askFar (s : State) (it : Item) (n jva m typ key : Nat) : State × Got Src :=
  match it.got.find? (·.1 = key), badOf it key with
  | some _, _ => (s, .ok (.far key))
  | none, some st => (clearBad s it.id key, .bad st)
  | none, none =>
    if outstanding s fun x => x == .line it.id key then (s, .wait)
    else (sendRead s (fabricHead s it.ctx it.job typ (stoveTag it n) (BitVec.ofNat 64 jva) (BitVec.ofNat 64 m))
      (.line it.id key), .wait)

/-- The line at a JVA made ready for reading (R20, R295): POISON where it is poisoned (R43). -/
def tryLine (s : State) (i : ItemId) (n acc jva : Nat) : State × Got Src :=
  match itemOf s i with
  | none => (s, .wait)
  | some it =>
    match locate s it jva acc with
    | (s1, .ok (.here a)) =>
      let (s2, ready) := prepRead s1 (lineOf a)
      (s2, if !ready then .wait else if isPoisoned s2 (lineOf a) then .bad stPoison else .ok (.here (a / 64 * 64)))
    | (s1, .ok (.far m)) => askFar s1 it n (jva / 64 * 64) (m / 64 * 64) tRead (farKey n (m / 64 * 64))
    | (s1, .ok (.refused st)) => (s1, .bad st)
    | (s1, .wait) => (s1, .wait)
    | (s1, .bad st) => (s1, .bad st)

/-- Every line of a list of JVAs made ready: their places, where all are. A failure counts before a wait. -/
def tryLines (s : State) (i : ItemId) (n acc : Nat) : List Nat → State × Got (List Src)
  | [] => (s, .ok [])
  | j :: js =>
    let (s1, x) := tryLine s i n acc j
    match x with
    | .bad st => (s1, .bad st)
    | _ =>
      let (s2, y) := tryLines s1 i n acc js
      match x, y with
      | _, .bad st => (s2, .bad st)
      | .ok a, .ok as => (s2, .ok (a :: as))
      | _, _ => (s2, .wait)

/-- The 64 bytes of a line that is ready. -/
def srcBytes (s : State) (i : ItemId) : Src → List Byte
  | .here a => readBytes s a 64
  | .far k => match (itemOf s i).bind fun it => it.got.find? (·.1 = k) with
    | some x => x.2.take 64
    | none => List.replicate 64 0
  | .refused _ => List.replicate 64 0

/-- JVAs of the lines that hold `len` bytes from `jva`. -/
def lineJvas (jva len : Nat) : List Nat := upTo ((jva + len + 63) / 64 - jva / 64) fun k => (jva / 64 + k) * 64

/-- `len` bytes at a JVA read for an item, with the places they came from. -/
def readJva (s : State) (i : ItemId) (n acc jva len : Nat) : State × Got (List Byte × List Src) :=
  match tryLines s i n acc (lineJvas jva len) with
  | (s1, .ok srcs) => (s1, .ok (((srcs.flatMap (srcBytes s1 i)).drop (jva % 64)).take len, srcs))
  | (s1, .wait) => (s1, .wait)
  | (s1, .bad st) => (s1, .bad st)

/-- A completed read is metered by the tier that served each line (R448), and what was fetched for it is let go. -/
def chargeReads (s : State) (i : ItemId) (srcs : List Src) : State :=
  let job := match itemOf s i with | some it => it.job | none => 0
  let s1 := forAll srcs (fun s x => match x with
    | .here a => meterLine s (lineOf a) job 64
    | _ => s) s
  onItem s1 i fun it => { it with got := it.got.filter fun g => !(srcs.contains (.far g.1)) }

/-! ## Stores -/

/-- Where a store goes: to a line of this module, to another module, or nowhere, because its extent does not admit it (a
failed store is no fault: R127). -/
inductive Dst where
  | here (lpa : Nat)
  | far (mpa : Nat)
  | lost (status : Nat)
deriving DecidableEq, Repr

/-- A request of a thread to a line is under way: the next one to it waits (R214). -/
def lineBusy (s : State) (i : ItemId) (m : Nat) : Bool :=
  s.net.outs.any fun o => o.f.mpa.toNat / 64 = m / 64 && (match o.issuer with
    | .store t => t.item = i
    | .reply t => t.item = i
    | .itemStore j => j = i
    | _ => false)

/-- The line at a JVA made ready for a store or an atomic. -/
def tryStore (s : State) (i : ItemId) (acc jva : Nat) (full : Bool) : State × Got Dst :=
  match itemOf s i with
  | none => (s, .wait)
  | some it =>
    match locate s it jva acc with
    | (s1, .ok (.here a)) =>
      let (s2, ready) := prepWrite s1 (lineOf a) full
      (s2, if ready then .ok (.here a) else .wait)
    | (s1, .ok (.far m)) => (s1, if lineBusy s1 i m then .wait else .ok (.far m))
    | (s1, .ok (.refused st)) => (s1, .ok (.lost st))
    | (s1, .wait) => (s1, .wait)
    | (s1, .bad st) => (s1, .bad st)

/-- Pieces of a store by line: JVA and bytes. -/
def storePieces (jva : Nat) (bs : List Byte) : List (Nat × List Byte) :=
  (lineJvas jva bs.length).map fun l =>
    let lo := max l jva
    (lo, (bs.drop (lo - jva)).take (l + 64 - lo))

/-- Every line of a store made ready. -/
def tryStores (s : State) (i : ItemId) : List (Nat × List Byte) → State × Got (List Dst)
  | [] => (s, .ok [])
  | p :: ps =>
    let (s1, x) := tryStore s i 1 p.1 (p.2.length = 64)
    match x with
    | .bad st => (s1, .bad st)
    | _ =>
      let (s2, y) := tryStores s1 i ps
      match x, y with
      | _, .bad st => (s2, .bad st)
      | .ok a, .ok as => (s2, .ok (a :: as))
      | _, _ => (s2, .wait)

/-- A borrowed copy that an item holds of a tile is gone for it once it writes there (R59). -/
def dropBorrow (s : State) (i : ItemId) (jva : Nat) : State :=
  onT0 s fun t => { t with
    slices := tmapAll {} (fun x => { x with borrowed := x.borrowed.filter fun b => !(b.item = i && b.jva = jva / 16384) }) t.slices }

/-- One piece stored: at its home here, where a part of a poisoned line takes nothing (R43), or by a WRITE to its owner. -/
def storePiece (s : State) (i : ItemId) (n : Nat) (who : Issuer) (p : Nat × List Byte) (d : Dst) : State :=
  match itemOf s i with
  | none => s
  | some it =>
    let s0 := dropBorrow s i p.1
    match d with
    | .here a =>
      let full : Bool := p.2.length = 64
      let l := lineOf a
      if isPoisoned s0 l && !full then s0
      else applyWrite (meterStore s0 l it.job full) l (overlay (lineBytes s0 l) (a % 64) p.2) full
    | .lost _ => s0
    | .far m =>
      let f := fabricHead s0 it.ctx it.job tWrite (stoveTag it n) (BitVec.ofNat 64 (p.1 / 64 * 64)) (BitVec.ofNat 64 (m / 64 * 64))
      sendFabric s0 { f with
        opa := BitVec.ofNat 64 ((2 ^ p.2.length - 1) * 2 ^ (p.1 % 64)),
        payload := List.replicate (p.1 % 64) 0 ++ p.2 ++ List.replicate (64 - p.1 % 64 - p.2.length) 0, len := 64 } who

/-- Bytes stored at a JVA for an item: nothing until every line is ready. -/
def storeJva (s : State) (i : ItemId) (n : Nat) (who : Issuer) (jva : Nat) (bs : List Byte) : State × Got Unit :=
  let ps := storePieces jva bs
  match tryStores s i ps with
  | (s1, .ok ds) => (forAll (List.zip ps ds) (fun s x => storePiece s i n who x.1 x.2) s1, .ok ())
  | (s1, .wait) => (s1, .wait)
  | (s1, .bad st) => (s1, .bad st)

/-! ## Tiles -/

/-- A tile as a Stove meets it: its tag and bytes, the physical tile of its own Hearth whose home copy a handle may name,
and the places of its lines. -/
structure TileGot where
  tag : Nat := 0
  bytes : List Byte := []
  home : Option Nat := none
  srcs : List Src := []
deriving DecidableEq, Repr

/-- The four leaves of a tile (R275). -/
def tryPages (s : State) (i : ItemId) (acc : Nat) : List Nat → State × Got (List (Nat × Leaf))
  | [] => (s, .ok [])
  | j :: js =>
    match itemOf s i with
    | none => (s, .wait)
    | some it =>
      let (s1, x) := stoveXlate s it j acc
      match x with
      | .bad st => (s1, .bad st)
      | _ =>
        let (s2, y) := tryPages s1 i acc js
        match x, y with
        | _, .bad st => (s2, .bad st)
        | .ok a, .ok as => (s2, .ok (a :: as))
        | _, _ => (s2, .wait)

/-- JVAs of a tile's quarters. -/
def quarters (jva : Nat) : List Nat := upTo 4 fun k => jva + 4096 * k

/-- A native tile's pages map in order to one aligned range (R276). -/
def isNative (ms : List Nat) : Bool :=
  ms.headD 0 % 16384 = 0 && (List.range ms.length).all fun k => nth 0 ms k = ms.headD 0 + 4096 * k

/-- The tag under which a tile is loaded: rows that disagree read as POISON (R39). -/
def loadTag (code : Nat) : Got Nat := if code = 15 then .bad stPoison else .ok code

/-- A tile read whole for an item (R115, R275, R276). -/
def readTile (s : State) (i : ItemId) (n jva : Nat) : State × Got TileGot :=
  match tryPages s i 0 (quarters jva) with
  | (s1, .wait) => (s1, .wait)
  | (s1, .bad st) => (s1, .bad st)
  | (s1, .ok ps) =>
    match itemOf s1 i with
    | none => (s1, .wait)
    | some it =>
      let ms := ps.map Prod.fst
      let m := ms.headD 0
      let nc := ps.any fun p => p.2.pbmt = 1
      if isNative ms && mpaDev m ≠ selfDev s1 then
        match askFar s1 it n jva m tTileRead (farTileKey n m) with
        | (s2, .ok (.far k)) =>
          let bs := match (itemOf s2 i).bind fun it => it.got.find? (·.1 = k) with | some x => x.2 | none => []
          (match loadTag ((bs.drop 16384).headD 0).toNat with
            | .ok t => (s2, .ok { tag := t, bytes := bs.take 16384, srcs := [.far k] })
            | _ => (s2, .bad stPoison))
        | (s2, .ok _) => (s2, .wait)
        | (s2, .wait) => (s2, .wait)
        | (s2, .bad st) => (s2, .bad st)
      else
        match readJva s1 i n 0 jva 16384 with
        | (s2, .wait) => (s2, .wait)
        | (s2, .bad st) => (s2, .bad st)
        | (s2, .ok (bs, srcs)) =>
          let code := match srcs.headD (.here 0) with
            | .here a => tagCode s2 (tileOf a)
            | .far k => (match (itemOf s2 i).bind fun it => it.got.find? (·.1 = k) with
              | some x => ((x.2.drop 64).headD 0).toNat
              | none => 0)
            | .refused _ => 0
          match loadTag code with
          | .ok t =>
            let a := mpaLpa m
            let own := isNative ms && !nc && lpaHearth a = it.hearth &&
              (viewLease s2 (regionOf a) it.job (selfDev s2) it.ctx).isNone
            (if isNative ms then s2 else countTrn s2 9,
              .ok { tag := t, bytes := bs, home := if own then some (tileOf a) else none, srcs := srcs })
          | _ => (s2, .bad stPoison)

/-- Bytes of a tile as a handle holds them, without zero bytes. -/
def cellsOf (bs : List Byte) : Tab Byte := (List.zip (List.range bs.length) bs).filter fun p => p.2 ≠ 0

/-- A tile stored whole with its tag (R119): every page is translated first; a split tile takes nothing (R276). -/
def storeTile (s : State) (i : ItemId) (n : Nat) (who : Issuer) (jva tag : Nat) (bs : List Byte) : State × Got Unit :=
  match tryPages s i 1 (quarters jva) with
  | (s1, .wait) => (s1, .wait)
  | (s1, .bad st) => (s1, .bad st)
  | (s1, .ok ps) =>
    match itemOf s1 i with
    | none => (s1, .wait)
    | some it =>
      let ms := ps.map Prod.fst
      let m := ms.headD 0
      if !isNative ms then (s1, .bad stMalformed)
      else if mpaDev m ≠ selfDev s1 then
        if lineBusy s1 i m then (s1, .wait)
        else
          let f := fabricHead s1 it.ctx it.job tTileWrite (stoveTag it n) (BitVec.ofNat 64 jva) (BitVec.ofNat 64 m)
          (sendFabric (dropBorrow s1 i jva) { f with
            opa := BitVec.ofNat 64 (2 ^ 63 + tag), payload := bs, len := bs.length } who, .ok ())
      else
        match storeJva s1 i n who jva bs with
        | (s2, .ok ()) =>
          ((if (admission s2 (mpaLpa m) it.job (selfDev s2) it.ctx false).isSome then s2
            else setTagAt s2 (lineOf (mpaLpa m)) (.fmt tag)), .ok ())
        | x => x

end Sys2Proof.Machine
end

