-- ==== Sys2Proof/Machine/Issue.lean ====
section
/-! DEFINITION. How a thread of a crew issues an instruction (R111 to R113), how it faults (R131), and the tiles that its
handles name (R108, R115 to R118). -/

namespace Sys2Proof.Machine

/-- The item's crew runs its code: validated, no fault yet, not stopped by a cancel (R129 to R132). -/
def runsCode (it : Item) : Bool := it.kernel && it.validated && it.result.isNone && !it.cancelled

/-- The thread is not inside a wait; one that waits for tier 0 gives its TLD again (R116). -/
def isFree (th : Thread) : Bool :=
  match th.wait with
  | .none => true
  | .pool _ => true
  | _ => false

/-- The thread may issue word `w` as operation `opc` of class `cls`: the word stands at its pc (R111, R112). -/
def canIssue (s : State) (t : ThreadRef) (w : BitVec 64) (cls opc : Nat) : Option (Item × Thread) :=
  match itemOf s t.item with
  | none => none
  | some it =>
    let th := tget {} it.threads t.n
    if runsCode it && t.n < it.crew && th.done.isNone && isFree th && (it.code.bind fun ws => ws[th.pc]?) = some w &&
        wCls w = cls && wOpc w = opc then some (it, th) else none

/-- The guard lets the instruction act (R113). -/
def guardHolds (th : Thread) (w : BitVec 64) : Bool := !wGe w || (pReg th (wGp w) != wGn w)

/-- An instruction issued: a false guard passes it by (R113). -/
def issue (s : State) (t : ThreadRef) (w : BitVec 64) (cls opc : Nat) (body : Item → Thread → Ans) : Ans :=
  match canIssue s t w cls opc with
  | none => notEnabled s
  | some (it, th) => if guardHolds th w then body it th else .next (onThread s t nextPc)

/-- An instruction that changes nothing but registers of its thread. -/
def regOp (s : State) (t : ThreadRef) (w : BitVec 64) (cls opc : Nat) (g : Thread → Thread) : Ans :=
  issue s t w cls opc fun _ _ => .next (onThread s t fun x => nextPc (g x))

/-- A fault stops the crew (R131): only the first is recorded. -/
def fault (s : State) (t : ThreadRef) (st jva : Nat) : State :=
  onItem s t.item fun it => if it.result.isSome then it else
    { it with result := some { status := st, faultJva := jva, faultPc := (tget {} it.threads t.n).pc, faultThread := t.n } }

/-- The status of a fault for a status that an access met (R131): BUSY after the transport's retries is TIMEOUT. -/
def faultCode (st : Nat) : Nat := if st = stBusy then stTimeout else st

/-- What an access answers: on with its result, the same instruction again, or a fault. -/
def onGot {α : Type} (s : State) (t : ThreadRef) (jva : Nat) (g : Got α) (k : α → Ans) : Ans :=
  match g with
  | .ok x => k x
  | .wait => .next s
  | .bad st => .next (fault s t (faultCode st) jva)

/-- The next `n` free values are used. -/
def bump (s : State) (n : Nat) : State := { s with draws := s.draws + n }

/-- The DRAM decode of the line that a load reads first (R37, R42, R44). -/
def stoveDecode (s : State) (l : Nat) (ecc : Ecc) : State × Got Unit :=
  if inTier0 s (l / 256) || ecc = .clean then (s, .ok ())
  else if ecc = .uncorrected && protOf s (l * 64) ≠ 0 && !(repairFrom s (l * 64)).isEmpty then (startRepair s l none [], .wait)
  else
    let s1 := decodeRead s l ecc
    (s1, if isPoisoned s1 l then .bad stPoison else .ok ())

/-! ## Handles -/

/-- A live handle of a thread by number. -/
def liveHandle (th : Thread) (n : W64) : Option Handle := th.handles.find? fun h => h.num = n.toNat

/-- A handle as an instruction uses it (R115): it waits until the tile is whole; a failed fetch is met here. -/
def useHandle (it : Item) (th : Thread) (n : W64) : Got Handle :=
  match liveHandle th n with
  | none => .bad 0xF1
  | some h =>
    match h.kind with
    | .scratch => .ok h
    | _ => match (nth {} it.fetches h.fetch).st with
      | .fetching => .wait
      | .failed st => .bad st
      | .whole => .ok h

/-- A scratch handle, as a write to it needs (R131: any other is fault 0xF1). -/
def useScratch (th : Thread) (n : W64) : Got Handle :=
  match liveHandle th n with
  | none => .bad 0xF1
  | some h => if h.kind = .scratch then .ok h else .bad 0xF1

/-- Lowest free handle number of a thread. -/
def freeHandle (th : Thread) : Option Nat := (List.range 16).find? fun n => !th.handles.any (·.num = n)

/-- Scratch tiles that handles of the crew hold. -/
def scratchUsed (it : Item) : Nat :=
  (it.threads.map fun e => (e.2.handles.filter fun h => h.kind == .scratch).length).sum

/-- The thread with one more handle, its number in a register. -/
def addHandle (th : Thread) (r : Nat) (h : Handle) : Thread := setS { th with handles := th.handles ++ [h] } r (BitVec.ofNat 64 h.num)

/-- The thread with a handle changed. -/
def modHandle (th : Thread) (n : Nat) (g : Handle → Handle) : Thread := { th with handles := updFirst (·.num = n) g th.handles }

/-- Bytes of a tile that a Stove holds. -/
def dataBytes (d : TileData) (off len : Nat) : List Byte := upTo len fun k => tget 0 d.cells (off + k)

/-- A handle on the home copy reads the lines as the home holds them (R117); any other its own copy. Tier-0 bytes are metered
(R448). -/
def readHandle (s : State) (it : Item) (h : Handle) (off len : Nat) : State × Got (List Byte) :=
  match h.kind with
  | .home tile =>
    let a := tile * 16384 + off
    let ls := upTo ((off + len + 63) / 64 - off / 64) fun k => a / 64 + k
    let (s1, ready) := prepReads s ls
    if !ready then (s1, .wait)
    else if ls.any (isPoisoned s1) then (s1, .bad stPoison)
    else (meter s1 it.job 0 len, .ok (readBytes s1 a len))
  | _ => (meter s it.job 0 len, .ok (dataBytes h.data off len))

/-- The tag of a handle's tile (R69): rows of a home copy that disagree read as POISON (R39). -/
def handleTag (s : State) (h : Handle) : Got Nat :=
  match h.kind with
  | .home tile => loadTag (tagCode s tile)
  | _ => .ok h.data.tag

/-- A whole tile read through a handle, with its tag. -/
def wholeTile (s : State) (it : Item) (th : Thread) (n : W64) : State × Got (Nat × List Byte) :=
  match useHandle it th n with
  | .wait => (s, .wait)
  | .bad st => (s, .bad st)
  | .ok h =>
    match readHandle s it h 0 16384 with
    | (s1, .wait) => (s1, .wait)
    | (s1, .bad st) => (s1, .bad st)
    | (s1, .ok bs) => match handleTag s1 h with
      | .ok t => (s1, .ok (t, bs))
      | .wait => (s1, .wait)
      | .bad st => (s1, .bad st)

/-- Byte `k` of a list. -/
def byteGet (bs : List Byte) : Nat → Byte :=
  let a := bs.toArray
  fun k => a.getD k 0

/-- The values of a tile's elements (R63 to R68). -/
def tileVals (tag : Nat) (bs : List Byte) : List Val :=
  let get := byteGet bs
  upTo (tileElems tag) (tileElem get tag)

/-- A tile converted (R75), element by element in order. An element that the source tile does not hold is a free value
(log 20). -/
def convertTile (s : State) (tag fmt cvt : Nat) (bs : List Byte) : State × List Byte :=
  let n := tileElems fmt
  let vs := (tileVals tag bs).take n
  let more := upTo (n - vs.length) fun e => b32Val ((Config.freeWord (s.draws + e)).truncate 32)
  let u := drawU (s.draws + n)
  (bump s (2 * n), encodeTile fmt (cvtRnd cvt) (cvtSat cvt) u (vs ++ more))

/-! ## Vector elements -/

/-- Elements of a vector register in a format. -/
def vLen (f : Nat) : Nat := 4096 / elemBits f

/-- Raw element `j` of a vector register. -/
def vElem (f : Nat) (v : VReg) (j : Nat) : Nat := fld v.toNat (elemBits f * j) (elemBits f)

/-- Value of element `j`. -/
def vVal (f : Nat) (v : VReg) (j : Nat) : Val := fDecode (fspec f) (vElem f v j)

/-- A vector register from codes of its elements. -/
def vOf (f : Nat) (cs : List Nat) : VReg := BitVec.ofNat 4096 (packCodes (elemBits f) cs)

/-- The code of a value in an unscaled format under CVT, with draw `u`. -/
def codeOf (f cvt u : Nat) (v : Val) : Nat := fEncode (fspec f) (cvtRnd cvt) (cvtSat cvt) u v

/-- A vector register of free values. -/
def freeVec (s : State) : VReg := BitVec.ofNat 4096 (packCodes 64 (upTo 64 fun k => (Config.freeWord (s.draws + k)).toNat))

/-- Maximum and minimum; NaN gives NaN (R74), and of equal values the first is taken. -/
def vMaxV (a b : Val) : Val := if a.kind = .nan || b.kind = .nan then vNan else if vLt a b then b else a
def vMinV (a b : Val) : Val := if a.kind = .nan || b.kind = .nan then vNan else if vLt b a then b else a

/-- Operations of a vector instruction: one per element under its FMT (R448). -/
def meterVec (s : State) (it : Item) (f : Nat) : State := meterOps s it.job f (vLen f)

/-- An elementwise operation with one rounding (R114). -/
def vecOp (s : State) (t : ThreadRef) (w : BitVec 64) (opc : Nat) (g : Thread → Nat → Val) : Ans :=
  issue s t w 3 opc fun it th =>
    let f := wFmt w
    let r := vOf f (upTo (vLen f) fun j => codeOf f (wCvt w) (drawU s.draws j) (g th j))
    .next (onThread (meterVec (bump s (vLen f)) it f) t fun x => nextPc (setV x (wDst w) r))

/-! ## Accumulators -/

/-- Rows of the matrix view (R120). -/
def mRows (f : Nat) : Nat := if f = 7 then 62 else if f = 8 then 63 else 64

/-- Columns of the matrix view (R120). -/
def mCols (f : Nat) : Nat :=
  match f with
  | 0 => 64
  | 1 => 128
  | 2 => 128
  | 3 => 256
  | 4 => 256
  | 5 => 320
  | 6 => 480
  | 7 => 256
  | 8 => 256
  | _ => 448

/-- Block width (R120). -/
def mWidth (f : Nat) : Nat := if f = 5 || f = 6 || f = 9 then 128 else 64

/-- A list of values summed in order. -/
def sumVals : List Val → Val
  | [] => {}
  | v :: vs => vs.foldl vAdd v

/-- Products added to a lane in element order: exactly into a long accumulator (R77, R78), or in passes of 64, each rounded
once to binary32 (R83). -/
def addProducts (long wide : Bool) (l : Lane) (ps : List Val) : Lane :=
  if long then ps.foldl (fun l v => laneAdd wide l v 1) l
  else (chunks 64 ps.length ps).foldl (fun l c => { l with b32 := b32Add l.b32 (b32Of (sumVals c)), n := l.n + c.length }) l

/-- The accumulator as an accumulating instruction with L takes it (R123): none where its class is another. -/
def takeClass (a : Acc) (long : Bool) : Option Acc :=
  match a.cls, long with
  | .unclassed, true => some { a with cls := .long }
  | .unclassed, false => some { a with cls := .b32 }
  | .long, true => some a
  | .b32, false => some a
  | _, _ => none

/-- The value of lane `i`, by the accumulator's class. -/
def accVal (a : Acc) (i : Nat) : Val :=
  match a.cls with
  | .b32 => b32Val (tget {} a.lanes i).b32
  | _ => laneVal (tget {} a.lanes i)

/-- The accumulator with every lane changed by number. -/
def mapLanes (a : Acc) (g : Nat → Lane → Lane) : Acc :=
  { a with lanes := (List.range 64).foldl (fun t i => tput {} t i (g i (tget {} a.lanes i))) ([] : Tab Lane) }

/-- Some lane has received more than 2^32 products (R123). -/
def laneOver (a : Acc) : Bool := a.lanes.any fun e => 2 ^ 32 < e.2.n

/-- An accumulating instruction: class checked, lanes changed, the product count checked (R79, R123). -/
def accumulate (s : State) (t : ThreadRef) (r : Nat) (long : Bool) (g : Nat → Lane → Lane) : Ans :=
  match takeClass (aReg (threadOf s t) r) long with
  | none => .next (fault s t 0xF3 0)
  | some a =>
    let a1 := mapLanes a g
    if laneOver a1 then .next (fault s t stMalformed 0)
    else .next (onThread s t fun x => nextPc (setA x r a1))

end Sys2Proof.Machine
end

