-- ==== Sys2Proof/Machine/Address.lean ====
section
/-! DEFINITION. Class 0x1, address (R114): loads and stores of a thread, slot operands and result words. -/

namespace Sys2Proof.Machine

/-- A load of W bytes (R114): the address is naturally aligned, else fault 0xF0 (R131). -/
def loadOp (s : State) (t : ThreadRef) (w : BitVec 64) (opc : Nat) (ecc : Ecc) (ext : Nat → Nat → W64) : Ans :=
  issue s t w 1 opc fun _ th =>
    let a := addrI th w
    let n := widthBytes (wW w)
    if a % n ≠ 0 then .next (fault s t 0xF0 a)
    else
      let (s1, g) := readJva s t.item t.n 0 a n
      onGot s1 t a g fun (bs, srcs) =>
        let (s2, d) := match srcs.headD (.far 0) with
          | .here l => stoveDecode s1 (lineOf l) ecc
          | _ => (s1, .ok ())
        onGot s2 t a d fun _ =>
          .next (onThread (chargeReads s2 t.item srcs) t fun x => nextPc (setS x (wDst w) (ext n (leNat bs))))

/-- LD: zero-extended. -/
def execLd (t : ThreadRef) (w : BitVec 64) (ecc : Ecc) (s : State) : Ans := loadOp s t w 0 ecc fun _ v => BitVec.ofNat 64 v

/-- LDSX: sign-extended. -/
def execLdsx (t : ThreadRef) (w : BitVec 64) (s : State) : Ans :=
  loadOp s t w 1 .clean fun n v => BitVec.ofInt 64 (sgn (8 * n) v)

/-- A store of bytes at sSA + sext(IMM), aligned (R114, R126). -/
def storeOp (s : State) (t : ThreadRef) (w : BitVec 64) (opc align : Nat) (bytes : Thread → List Byte) : Ans :=
  issue s t w 1 opc fun _ th =>
    let a := addrI th w
    if a % align ≠ 0 then .next (fault s t 0xF0 a)
    else
      let (s1, g) := storeJva s t.item t.n (.store t) a (bytes th)
      onGot s1 t a g fun _ => .next (onThread s1 t nextPc)

/-- ST: the low W bytes of sSB. -/
def execSt (t : ThreadRef) (w : BitVec 64) (s : State) : Ans :=
  storeOp s t w 2 (widthBytes (wW w)) fun th => natLe (widthBytes (wW w)) (sReg th (wSb w)).toNat

/-- LDV: 512 bytes, aligned at 64. -/
def execLdv (t : ThreadRef) (w : BitVec 64) (s : State) : Ans :=
  issue s t w 1 3 fun _ th =>
    let a := addrI th w
    if a % 64 ≠ 0 then .next (fault s t 0xF0 a)
    else
      let (s1, g) := readJva s t.item t.n 0 a 512
      onGot s1 t a g fun (bs, srcs) =>
        .next (onThread (chargeReads s1 t.item srcs) t fun x => nextPc (setV x (wDst w) (BitVec.ofNat 4096 (leNat bs))))

/-- STV: 512 bytes of vSB. -/
def execStv (t : ThreadRef) (w : BitVec 64) (s : State) : Ans := storeOp s t w 4 64 fun th => natLe 512 (vReg th (wSb w)).toNat

/-- STVH: the low 256 bytes of vSB. -/
def execStvh (t : ThreadRef) (w : BitVec 64) (s : State) : Ans := storeOp s t w 5 64 fun th => natLe 256 (vReg th (wSb w)).toNat

/-- PARAM: operand word IMM of the slot as read at take. -/
def execParam (t : ThreadRef) (w : BitVec 64) (s : State) : Ans :=
  issue s t w 1 6 fun it _ =>
    .next (onThread s t fun x => nextPc (setS x (wDst w) (BitVec.ofNat 64 (opFld it (256 + 64 * wImm w) 64))))

/-- RESW: result word IMM[1:0] (R136). -/
def execResw (t : ThreadRef) (w : BitVec 64) (s : State) : Ans :=
  issue s t w 1 7 fun _ th =>
    .next (onItem (onThread s t nextPc) t.item fun it => { it with resw := tput 0 it.resw (wImm w % 4) (sReg th (wSb w)) })

end Sys2Proof.Machine
end

