-- ==== Sys2Proof/Machine/AtomicOps.lean ====
section
/-! DEFINITION. Class 0x6, atomic, and FLAGCAS (R114, R124, R126): exactly once, at the home of the line. -/

namespace Sys2Proof.Machine

/-- An atomic of a thread (R124): at its home here at once, or by an ATOMIC request whose answer completes it. -/
def atomicAt (s : State) (t : ThreadRef) (it : Item) (th : Thread) (dst jva aop w op new : Nat) : Ans :=
  match th.reply with
  | some (st, v) =>
    let s1 := onThread s t fun x => { x with reply := none }
    if st = stOk then .next (onThread s1 t fun x => nextPc (setS x dst v)) else .next (fault s1 t (faultCode st) jva)
  | none =>
    let (s1, g) := tryStore s t.item 2 jva false
    onGot s1 t jva g fun d =>
      match d with
      | .lost st => .next (fault s1 t (faultCode st) jva)
      | .here a =>
        if isPoisoned s1 (lineOf a) then .next (fault s1 t stPoison jva)
        else
          let (old, s2) := applyAtomic (meter (meterLine s1 (lineOf a) it.job 128) it.job 3 1) (lineOf a) (a % 64) aop w op new
          .next (onThread s2 t fun x => nextPc (setS x dst (BitVec.ofNat 64 old)))
      | .far m =>
        let f := fabricHead s1 it.ctx it.job tAtomic (stoveTag it t.n) (BitVec.ofNat 64 jva) (BitVec.ofNat 64 m)
        let s2 := onThread s1 t fun x => { x with wait := .reply }
        .next (sendFabric s2 { f with
          opa := BitVec.ofNat 64 (aop + w * 2 ^ 8), opb := BitVec.ofNat 64 op,
          payload := if aop = 9 || aop = 0xB then natLe 8 new else [],
          len := if aop = 9 || aop = 0xB then 8 else 0 } (.reply t))

/-- An atomic instruction of class 0x6; the address is naturally aligned, else fault 0xF0. -/
def atomicOp (s : State) (t : ThreadRef) (w : BitVec 64) (opc : Nat) : Ans :=
  issue s t w 6 opc fun it th =>
    let a := if opc = 9 then addrT th w else addrI th w
    if a % widthBytes (wW w) ≠ 0 then .next (fault s t 0xF0 a)
    else atomicAt s t it th (wDst w) a opc (wW w) (sReg th (wSb w)).toNat (sReg th (wSc w)).toNat

/-- AMADD. -/
def execAmadd (t : ThreadRef) (w : BitVec 64) (s : State) : Ans := atomicOp s t w 0

/-- AMAND. -/
def execAmand (t : ThreadRef) (w : BitVec 64) (s : State) : Ans := atomicOp s t w 1

/-- AMOR. -/
def execAmor (t : ThreadRef) (w : BitVec 64) (s : State) : Ans := atomicOp s t w 2

/-- AMXOR. -/
def execAmxor (t : ThreadRef) (w : BitVec 64) (s : State) : Ans := atomicOp s t w 3

/-- AMMINU. -/
def execAmminu (t : ThreadRef) (w : BitVec 64) (s : State) : Ans := atomicOp s t w 4

/-- AMMAXU. -/
def execAmmaxu (t : ThreadRef) (w : BitVec 64) (s : State) : Ans := atomicOp s t w 5

/-- AMMIN. -/
def execAmmin (t : ThreadRef) (w : BitVec 64) (s : State) : Ans := atomicOp s t w 6

/-- AMMAX. -/
def execAmmax (t : ThreadRef) (w : BitVec 64) (s : State) : Ans := atomicOp s t w 7

/-- AMSWP. -/
def execAmswp (t : ThreadRef) (w : BitVec 64) (s : State) : Ans := atomicOp s t w 8

/-- AMCAS. -/
def execAmcas (t : ThreadRef) (w : BitVec 64) (s : State) : Ans := atomicOp s t w 9

/-- AMFADD. -/
def execAmfadd (t : ThreadRef) (w : BitVec 64) (s : State) : Ans := atomicOp s t w 10

/-- FLAGCAS: byte compare-and-swap at sSA, expected sSB[7:0], new IMM[7:0] (R126). -/
def execFlagcas (t : ThreadRef) (w : BitVec 64) (s : State) : Ans :=
  issue s t w 7 4 fun it th =>
    atomicAt s t it th (wDst w) (sReg th (wSa w)).toNat 0xB 0 ((sReg th (wSb w)).toNat % 256) (wImm w % 256)

end Sys2Proof.Machine
end

