-- ==== Sys2Proof/Machine/Operator.lean ====
section
/-! DEFINITION. How a built-in operator works on a work item (R135, R136): unit by unit, each command one unit, which an
access that must wait leaves undone; its results, and the arithmetic class of an item (R76). -/

namespace Sys2Proof.Machine

/-- A command of an operator: the item runs that operator and has neither ended nor been cancelled. -/
def opRun (s : State) (i : ItemId) (op : Nat) (body : Item → Ans) : Ans :=
  match itemOf s i with
  | none => notEnabled s
  | some it => if it.op = op && it.result.isNone && !it.cancelled then body it else notEnabled s

/-- The item has its outcome; its completion follows (R100). -/
def endItem (s : State) (i : ItemId) (r : Result) : State := onItem s i fun it => { it with result := some r }

/-- A counter that an operator keeps in its item. -/
def itCnt (it : Item) (k : Nat) : Nat := tget 0 it.cnts k

/-- An item with a counter set. -/
def setCnt (it : Item) (k v : Nat) : Item := { it with cnts := tput 0 it.cnts k v }

/-- An item with a counter raised. -/
def addCnt (it : Item) (k v : Nat) : Item := setCnt it k (itCnt it k + v)

/-- What an access of an operator answers: on, the same unit again, or the item fails with its status and counts (R136). -/
def onGotI {α : Type} (s : State) (i : ItemId) (r : Result) (jva : Nat) (g : Got α) (k : α → Ans) : Ans :=
  match g with
  | .ok x => k x
  | .wait => .next s
  | .bad st => .next (endItem s i { r with status := faultCode st, faultJva := jva })

/-- The item ends with a status and its counts. -/
def failItem (s : State) (i : ItemId) (r : Result) (st : Nat) : Ans := .next (endItem s i { r with status := st })

/-- Bytes read at a JVA by an item, as operand or index data. -/
def itemRead (s : State) (i : ItemId) (jva len : Nat) : State × Got (List Byte) :=
  match readJva s i 0 0 jva len with
  | (s1, .ok (bs, srcs)) => (chargeReads s1 i srcs, .ok bs)
  | (s1, .wait) => (s1, .wait)
  | (s1, .bad st) => (s1, .bad st)

/-- The status that turns a store away, where one does. -/
def lostStatus (ds : List Dst) : Option Nat := ds.findSome? fun d => match d with | .lost st => some st | _ => none

/-- Bytes stored by an item; a place that does not admit the store fails the unit. -/
def itemStore (s : State) (i : ItemId) (jva : Nat) (bs : List Byte) : State × Got Unit :=
  let ps := storePieces jva bs
  match tryStores s i ps with
  | (s1, .wait) => (s1, .wait)
  | (s1, .bad st) => (s1, .bad st)
  | (s1, .ok ds) =>
    match lostStatus ds with
    | some st => (s1, .bad st)
    | none => (forAll (List.zip ps ds) (fun s x => storePiece s i 0 (.itemStore i) x.1 x.2) s1, .ok ())

/-- Revision and kind of a descriptor under R32 and R8: none where they are served. -/
def descStatus (rev kind want : Nat) : Option Nat :=
  if rev = 0 then some stMalformed
  else if rev ≠ 2 then some stUnsupported
  else if kind ≠ want then some stMalformed else none

/-- A format code outside the ten (R64). -/
def fmtStatus (f : Nat) : Option Nat := if 9 < f then some stUnsupported else none

/-- Bytes of an element. -/
def elemBytes (f : Nat) : Nat := elemBits f / 8

/-- The class of the extent at a JVA, where it lies on this module: true for Dense. -/
def denseAt (s : State) (it : Item) (jva acc : Nat) : State × Got (Option Bool) :=
  match locate s it jva acc with
  | (s1, .ok (.here a)) => (s1, .ok (some (extOf s1 a).dense))
  | (s1, .ok (.refused st)) => (s1, .bad st)
  | (s1, .ok (.far _)) => (s1, .ok none)
  | (s1, .wait) => (s1, .wait)
  | (s1, .bad st) => (s1, .bad st)

/-- The arithmetic class of an item by its first output, else its first input (R76); when both lie on other modules, this
module does not know their class, and it is free (log 24). Kept in counter 14 as 1 Fine, 2 Dense. -/
def itemClass (s : State) (it : Item) (out inp : Nat) : State × Got Bool :=
  match itCnt it 14 with
  | 1 => (s, .ok false)
  | 2 => (s, .ok true)
  | _ =>
    let keep := fun (s : State) (d : Bool) => (onItem s it.id fun x => setCnt x 14 (if d then 2 else 1), Got.ok d)
    match denseAt s it out 1 with
    | (s1, .wait) => (s1, .wait)
    | (s1, .bad st) => (s1, .bad st)
    | (s1, .ok (some d)) => keep s1 d
    | (s1, .ok none) =>
      match denseAt s1 it inp 0 with
      | (s2, .wait) => (s2, .wait)
      | (s2, .bad st) => (s2, .bad st)
      | (s2, .ok (some d)) => keep s2 d
      | (s2, .ok none) => keep (bump s2 1) ((Config.freeWord s2.draws).getLsbD 0)

/-- A value rounded to binary32. -/
def r32 (v : Val) : Val := b32Val (b32Of v)

/-- The sum of values in a class: in a long accumulator, or in passes of 64 in binary32 (R77, R78, R83). -/
def classSum (dense wide : Bool) (vs : List Val) : Val :=
  if dense then b32Val (addProducts false wide {} vs).b32 else laneVal (addProducts true wide {} vs)

end Sys2Proof.Machine
end

