-- ==== Sys2Proof/Machine/TopK.lean ====
section
/-! DEFINITION. Result lists and their ranking (R170, R173, R175). -/

namespace Sys2Proof.Machine

/-- An entry of a result list (R173). -/
structure Hit where
  id : Nat := 0
  dist : Nat := 0
  list : Nat := 0
deriving DecidableEq, Repr

/-- A result list's header fields (R173). -/
structure HitHead where
  k : Nat := 0
  found : Nat := 0
  probes : Nat := 0
  eligible : Nat := 0
  widened : Nat := 0
  skipped : Nat := 0
deriving DecidableEq, Repr

/-- The ranking rule (R170): DIST, then identifier, then LIST. -/
def hitBefore (a b : Hit) : Bool :=
  let x := fDecode (fspec 0) a.dist
  let y := fDecode (fspec 0) b.dist
  if vLt x y then true
  else if vLt y x then false
  else if a.id ≠ b.id then a.id < b.id else a.list < b.list

/-- A hit put in its place in a ranked list. -/
def insertHit (h : Hit) : List Hit → List Hit
  | [] => [h]
  | x :: xs => if hitBefore h x then h :: x :: xs else x :: insertHit h xs

/-- Hits ranked, the `k` first kept. -/
def bestHits (k : Nat) (hs : List Hit) : List Hit := (hs.foldl (fun a h => (insertHit h a).take k) []).take k

/-- The bytes of a hit. -/
def hitBytes (h : Hit) : List Byte := natLe 8 h.id ++ natLe 4 h.dist ++ natLe 4 h.list

/-- An entry past FOUND (R173). -/
def blankHit : Hit := { id := 2 ^ 64 - 1, dist := 0x7F800000, list := 0xFFFFFFFF }

/-- A result list's stride (R173). -/
def listStride (k : Nat) : Nat := roundUp 64 (64 + 16 * k)

/-- The bytes of a result list: header and K entries (R173). -/
def listBytes (h : HitHead) (hits : List Hit) : List Byte :=
  let sat := fun n => min n (2 ^ 32 - 1)
  let q := if h.found < h.k then stShortByte else 0
  natLe 1 0x62 ++ natLe 1 q ++ natLe 2 h.k ++ natLe 4 h.found ++ natLe 4 (sat h.probes) ++ natLe 4 (sat h.eligible) ++
    natLe 4 (sat h.widened) ++ natLe 4 (sat h.skipped) ++ List.replicate 40 0 ++
    (hits.take h.found ++ List.replicate (h.k - h.found) blankHit).flatMap hitBytes
where
  /-- SHORT, as QSTATUS holds it. -/
  stShortByte : Nat := 0x0D

/-- The header of a result list in memory or in a chunk. -/
def listHead (bs : List Byte) : HitHead :=
  { k := fld (leAt bs 2 2) 0 11, found := fld (leAt bs 4 4) 0 11, probes := leAt bs 8 4, eligible := leAt bs 12 4,
    widened := leAt bs 16 4, skipped := leAt bs 20 4 }

/-- The list breaks the checks of R175. -/
def listBad (bs : List Byte) : Bool :=
  let h := listHead bs
  fld (leAt bs 0 1) 4 4 ≠ 6 || 1024 < h.k || h.k < h.found

/-- The valid entries of a list. -/
def listHits (bs : List Byte) : List Hit :=
  upTo (listHead bs).found fun j =>
    { id := leAt bs (64 + 16 * j) 8, dist := leAt bs (72 + 16 * j) 4, list := leAt bs (76 + 16 * j) 4 }

/-- Lists merged into one of `k` entries (R175). -/
def mergeLists (k : Nat) (ls : List (List Byte)) : List Byte :=
  let hs := ls.map listHead
  let sum := fun (g : HitHead → Nat) => min ((hs.map g).sum) (2 ^ 32 - 1)
  listBytes { k := k, found := min k ((hs.map (·.found)).sum), probes := sum (·.probes), eligible := sum (·.eligible),
              widened := sum (·.widened), skipped := sum (·.skipped) }
    (bestHits k (ls.flatMap listHits))

end Sys2Proof.Machine
end

