-- ==== Sys2Proof/Machine/Comb.lean ====
section
/-! DEFINITION. Combining groups (R238 to R246): registration, local contributions, combining, delivery and failure. A
registration is named by the LPA of its descriptor. -/

namespace Sys2Proof.Machine

/-- Fields of a group descriptor (R238). -/
def gFld (r : Reg) (lo w : Nat) : Nat := fld r.desc.toNat lo w
def gOp (r : Reg) : Nat := gFld r 8 2
def gFine (r : Reg) : Bool := gOp r = 0 && gFld r 10 1 = 1
def gRoot (r : Reg) : Bool := gFld r 11 1 = 1
def gLocal (r : Reg) (h : Nat) : Bool := tbit (gFld r 16 8) h

/-- A registration by its descriptor's LPA. -/
def regAt (s : State) (lpa : Nat) : Option Reg := s.chim.regs.find? (·.lpa = lpa)

/-- A registration changed. -/
def onReg (s : State) (lpa : Nat) (g : Reg → Reg) : State :=
  onChim s fun c => { c with regs := updFirst (·.lpa = lpa) g c.regs }

/-- An open round of a registration. -/
def roundOf (r : Reg) (j : Nat) : Option Round := r.rounds.find? (·.n = j)

/-- A round changed; one without contributions yet opens now (R240, R246). -/
def onRound (s : State) (lpa j : Nat) (g : Round → Round) : State :=
  onReg s lpa fun r =>
    { r with rounds := if (roundOf r j).isSome then updFirst (·.n = j) g r.rounds
                       else r.rounds ++ [g { n := j, firstPt := s.clk.pilot }] }

/-- The number that round `j` carries on the fabric (R240). -/
def roundNo (r : Reg) (j : Nat) : Nat := (r.first + j) % 2 ^ 32

/-- A round is over at this node. -/
def roundOver (r : Reg) (j : Nat) : Bool := j < r.doneUpTo || r.failed.contains j

/-- Rounds over in order are forgotten by number. -/
def compactDone : Nat → Nat → List Nat → Nat × List Nat
  | 0, d, fs => (d, fs)
  | n + 1, d, fs => if fs.contains d then compactDone n (d + 1) (fs.filter (· ≠ d)) else (d, fs)

/-- A round leaves the open ones. -/
def closeRound (s : State) (lpa j : Nat) : State :=
  onReg s lpa fun r =>
    let (d, fs) := compactDone (r.failed.length + 1) r.doneUpTo (r.failed ++ [j])
    { r with rounds := r.rounds.filter (·.n ≠ j), failed := fs, doneUpTo := d, idlePt := s.clk.pilot }

/-- A registration ends: the next round number goes to ROUND (R239, R246). -/
def endReg (s : State) (lpa : Nat) : State :=
  match regAt s lpa with
  | none => s
  | some r =>
    serveHome (onChim s fun c => { c with regs := dropFirst (·.lpa = lpa) c.regs })
      (ownWrite (lpa + 28) (natLe 4 (roundNo r r.doneUpTo)))

/-- Chunk entries that a registration takes of the combining store: at least the 2 reserved for it (R243). -/
def chunkUse (r : Reg) : Nat :=
  max 2 ((r.rounds.map fun x => ((x.parts.map (·.chunk)).eraseDups).length).sum)

/-- Room for one more chunk of a registration (R243). -/
def chunkRoom (s : State) (lpa : Nat) (fresh : Bool) : Bool :=
  let others := ((s.chim.regs.filter (·.lpa ≠ lpa)).map chunkUse).sum
  let mine := match regAt s lpa with
    | some r => ((r.rounds.map fun x => ((x.parts.map (·.chunk)).eraseDups).length).sum)
    | none => 0
  !fresh || others + max 2 (mine + 1) ≤ 4096

/-- A JVA of the group's job as this module holds it, by a translation that raises no fault. -/
def groupLpa (s : State) (job jva acc : Nat) : State × Got Nat :=
  match xlateTry s job 0xFFFF jva acc with
  | (s1, none) => (s1, .wait)
  | (s1, some (.ok m _)) => (s1, if mpaDev m = selfDev s1 then .ok (mpaLpa m) else .bad stMalformed)
  | (s1, some (.bad st)) => (s1, .bad st)
  | (s1, some _) => (s1, .bad stUnmapped)

/-- The ranges of a group descriptor (R238). -/
def groupBad (n : Nat) : Option Nat :=
  match descStatus (fld n 0 4) (fld n 4 4) 0xB with
  | some st => some st
  | none =>
    if fld n 16 8 = 0 || 64 < fld n 24 7 || fld n 12 3 = 7 || fld n 80 8 = 0 || fld n 128 64 % 64 ≠ 0 || fld n 192 32 % 64 ≠ 0 ||
        fld n 256 64 % 4 ≠ 0 || fld n 320 64 % 64 ≠ 0 then some stMalformed else none

/-- Room for one more registration (R239): the one idle for longest ends where the table of 1,024 is full. -/
def regRoom (s : State) : State × Bool :=
  if s.chim.regs.length < 1024 then (s, true)
  else match (s.chim.regs.filter fun r => r.rounds.isEmpty).foldl (fun m r => match m with
      | none => some r
      | some x => if r.idlePt < x.idlePt then some r else some x) (none : Option Reg) with
    | some r => (endReg s r.lpa, true)
    | none => (s, false)

/-- The registration that a local contribution names, made where it is the first (R239). -/
def register (s : State) (it : Item) (n jva : Nat) : State × Got Reg :=
  if jva % 64 ≠ 0 then (s, .bad stMalformed)
  else match locate s it jva 0 with
    | (s1, .wait) => (s1, .wait)
    | (s1, .bad st) => (s1, .bad st)
    | (s1, .ok (.refused st)) => (s1, .bad st)
    | (s1, .ok (.far _)) => (s1, .bad stMalformed)
    | (s1, .ok (.here a)) =>
      match regAt s1 a with
      | some r => (s1, .ok r)
      | none =>
        match readJva s1 it.id n 0 jva 64 with
        | (s2, .wait) => (s2, .wait)
        | (s2, .bad st) => (s2, .bad st)
        | (s2, .ok (bs, _)) =>
          let d := leNat bs
          match groupBad d with
          | some st => (s2, .bad st)
          | none =>
            match groupLpa s2 it.job (fld d 128 64) 1, readJva s2 it.id n 0 (fld d 320 64) (2 * fld d 24 7) with
            | (_, .bad st), _ => (s2, .bad st)
            | _, (s3, .bad st) => (s3, .bad st)
            | (_, .ok _), (s3, .ok (cs, srcs)) =>
              let far := srcs.any fun x => match x with | .here _ => false | _ => true
              (match if fld d 256 64 = 0 then (s3, .ok 0) else groupLpa s3 it.job (fld d 256 64) 2 with
                | (s4, .bad st) => (s4, .bad st)
                | (s4, .wait) => (s4, .wait)
                | (s4, .ok _) =>
                  if far then (s4, .bad stMalformed)
                  else match regRoom s4 with
                    | (s5, false) => (s5, .wait)
                    | (s5, true) =>
                      let r : Reg := { job := it.job, gid := fld d 32 24, ctx := it.ctx, desc := BitVec.ofNat 512 d, lpa := a,
                                       children := upTo (fld d 24 7) fun k => leAt cs (2 * k) 2, first := fld d 224 32,
                                       idlePt := s5.clk.pilot }
                      (onChim s5 fun c => { c with regs := c.regs ++ [r] }, .ok r))
            | _, (s3, _) => (s3, .wait)

/-- What of a chunk's operands every contribution must carry alike: all but LAST (R243). -/
def chunkSame (a b : Part) : Bool :=
  let m := fun (p : Part) => (setFld p.opa.toNat 36 1 0, p.lanes.length, p.bytes.length)
  m a = m b

/-- The operands that a contribution and its group agree on: OP and FINE (R243). -/
def partFits (r : Reg) (p : Part) : Bool :=
  fld p.opa.toNat 24 2 = gOp r && (gOp r ≠ 0 || tbit p.opa.toNat 26 = gFine r)

/-- A chunk enters a round: none where it must wait for room, and whether it agrees with the first (R243). -/
def absorb (s : State) (r : Reg) (j : Nat) (p : Part) : State × Got Unit :=
  let rd := (roundOf r j).getD {}
  match rd.parts.find? (·.chunk = p.chunk) with
  | some q => if chunkSame p q && partFits r p then (onRound s r.lpa j fun x => { x with parts := x.parts ++ [p] }, .ok ())
      else (s, .bad stMalformed)
  | none =>
    if !partFits r p then (s, .bad stMalformed)
    else if chunkRoom s r.lpa true then (onRound s r.lpa j fun x => { x with parts := x.parts ++ [p] }, .ok ())
    else (s, .wait)

/-- One chunk of a local contribution (R239, R240, R243): the contribution is the Hearth's next, and ends with LAST. A Hearth
that LOCAL does not name contributes nothing to the group: MALFORMED (log 28). -/
def contribute (s : State) (it : Item) (n jva : Nat) (p : Part) : State × Got Unit :=
  match register s it n jva with
  | (s1, .wait) => (s1, .wait)
  | (s1, .bad st) => (s1, .bad st)
  | (s1, .ok r) =>
    let j := tget 0 r.given it.hearth
    let given := fun (s : State) => if p.last then onReg s r.lpa fun x => { x with given := tmod 0 x.given it.hearth (· + 1) } else s
    if !gLocal r it.hearth then (s1, .bad stMalformed)
    else if roundOver r j then (given (countDiscard s1 6), .ok ())
    else if r.doneUpTo + 4 ≤ j then (s1, .wait)
    else match absorb s1 r j { p with who := it.hearth } with
      | (s2, .ok ()) => (given s2, .ok ())
      | x => x

/-- OPA of a contribution (R242). -/
def contribOpa (gid op : Nat) (fine : Bool) (fmt cvt : Nat) (failed last : Bool) (k : Nat) : W64 :=
  BitVec.ofNat 64 (gid + op * 2 ^ 24 + b2n fine * 2 ^ 26 + fmt * 2 ^ 27 + cvt * 2 ^ 31 + b2n failed * 2 ^ 35 + b2n last * 2 ^ 36 +
    k * 2 ^ 37)

/-! ## Combining -/

/-- Lanes per chunk (R243). -/
def chunkLanes (r : Reg) : Nat := if gFine r then 320 else 1024

/-- One contributor has given every chunk up to its last. -/
def wholeFrom (rd : Round) (child : Bool) (who : Nat) : Bool :=
  let ps := rd.parts.filter fun p => p.child = child && p.who = who
  match ps.find? (·.last) with
  | none => false
  | some l => (List.range (l.chunk + 1)).all fun c => ps.any (·.chunk = c)

/-- The round holds every contribution it takes (R240, R241). -/
def roundFull (r : Reg) (rd : Round) : Bool :=
  ((List.range 8).all fun h => !gLocal r h || wholeFrom rd false h) && r.children.all fun c => wholeFrom rd true c

/-- Parts of one chunk combined in arrival order into one at a node that is not the root (R244). -/
def combineParts (r : Reg) (ps : List Part) : Part :=
  match ps with
  | [] => {}
  | p :: rest =>
    if gOp r = 3 then { p with bytes := mergeLists (fld p.opa.toNat 37 11) (ps.map (·.bytes)) }
    else
      let f := fun (a b : Nat) =>
        if gOp r = 1 then (b32Min (BitVec.ofNat 32 a) (BitVec.ofNat 32 b)).toNat
        else if gOp r = 2 then (b32Max (BitVec.ofNat 32 a) (BitVec.ofNat 32 b)).toNat
        else if gFine r then extAdd a b
        else (b32Add (BitVec.ofNat 32 a) (BitVec.ofNat 32 b)).toNat
      { p with lanes := rest.foldl (fun acc q => List.zipWith f acc q.lanes) p.lanes }

/-- The payload of a CONTRIB chunk. -/
def partBytes (r : Reg) (p : Part) : List Byte :=
  if gOp r = 3 then p.bytes else p.lanes.flatMap (natLe (if gFine r then 12 else 4))

/-- The delivered bytes of a chunk at the root: every partial into a long accumulator, rounded once, or the combined binary32
rounded to OUT_FMT under CVT (R244). -/
def rootBytes (s : State) (r : Reg) (ps : List Part) : List Byte :=
  match ps with
  | [] => []
  | p :: _ =>
    if gOp r = 3 then (combineParts r ps).bytes
    else
      let fmt := fld p.opa.toNat 27 4
      let cvt := fld p.opa.toNat 31 4
      let vals := if gFine r then
          upTo p.lanes.length fun i => laneVal (ps.foldl (fun l q => laneAdd false l (extVal (nth 0 q.lanes i)) 1) {})
        else (combineParts r ps).lanes.map fun c => b32Val (BitVec.ofNat 32 c)
      (plainElems fmt (cvtRnd cvt) (cvtSat cvt) (drawU s.draws) vals).flatMap (natLe (elemBytes fmt))

/-- Offset of a chunk in a delivery slot (R243, R245). -/
def chunkOffset (r : Reg) (chunk : Nat) (opa : W64) : Nat :=
  if gOp r = 3 then chunk * listStride (fld opa.toNat 37 11) else chunk * chunkLanes r * elemBytes (fld opa.toNat 27 4)

/-- A frame of the group to a device (R201, R239, R242). -/
def groupFrame (s : State) (r : Reg) (typ dev : Nat) (opa : W64) (j chunk : Nat) (bs : List Byte) : Frame :=
  let f := fabricHead s r.ctx r.job typ 0 0 (BitVec.ofNat 64 (dev * 2 ^ 42))
  { f with mpa := 0, tc := gFld r 12 3, opa := opa, opb := BitVec.ofNat 64 (roundNo r j + chunk * 2 ^ 32), payload := bs,
           len := bs.length }

/-- DELIVER to every child (R245). -/
def sendDeliver (s : State) (r : Reg) (opa : W64) (j chunk : Nat) (bs : List Byte) : State :=
  forAll r.children (fun s d => sendFabric s (groupFrame s r tDeliver d opa j chunk bs) (.deliver r.lpa j)) s

/-- A failed round (R246): the descriptor's counts, one Ashpit record, the round closed. -/
def noteFail (s : State) (r : Reg) (j st : Nat) : State :=
  let fails := satInc 32 (readNat s (r.lpa + 48) 4)
  let s1 := serveHome s (ownWrite (r.lpa + 48) (natLe 4 fails ++ natLe 4 (roundNo r j) ++ natLe 1 st))
  let s2 := ashLimited s1 3 0x08 0x0305 [(0, natLe 4 r.job), (4, natLe 3 r.gid), (8, natLe 4 (roundNo r j)), (12, natLe 1 st)]
  let s3 := closeRound s2 r.lpa j
  match regAt s3 r.lpa with
  | some x => if x.rounds.isEmpty then endReg s3 r.lpa else s3
  | none => s3

/-- A round fails at this node (R246): the parent learns it by CONTRIB, children by DELIVER from the root. `down`: the
failure came from above, and goes on to the children (log 28). -/
def failRound (s : State) (lpa j st : Nat) (down : Bool) : State :=
  match regAt s lpa with
  | none => s
  | some r =>
    if roundOver r j then s
    else
      let opa := contribOpa r.gid (gOp r) (gFine r) 0 0 true true 0
      let s1 := if gRoot r || down then sendDeliver s r opa j 0 []
        else sendFabric s (groupFrame s r tContrib (gFld r 64 14) opa j 0 []) (.contrib lpa j)
      noteFail s1 r j st

/-- A delivered chunk written in this node's slot (R245): waits while its lines are not ready; beyond the slot it fails the
round. -/
def writeSlot (s : State) (r : Reg) (j chunk : Nat) (opa : W64) (bs : List Byte) : State × Got Unit :=
  let off := chunkOffset r chunk opa
  if gFld r 192 32 < off + bs.length then (s, .bad stMalformed)
  else
    let jva := gFld r 128 64 + roundNo r j % gFld r 80 8 * gFld r 192 32 + off
    let ps := storePieces jva bs
    let go := ps.foldl (fun (acc : State × Got (List (Nat × List Byte))) p =>
      match acc with
      | (s, .ok xs) => (match groupLpa s r.job p.1 1 with
        | (s1, .ok a) => (s1, .ok (xs ++ [(a, p.2)]))
        | (s1, .wait) => (s1, .wait)
        | (s1, .bad st) => (s1, .bad st))
      | x => x) (s, Got.ok [])
    match go with
    | (s1, .wait) => (s1, .wait)
    | (s1, .bad st) => (s1, .bad st)
    | (s1, .ok xs) =>
      let (s2, ready) := prepWrites s1 false (xs.map fun x => lineOf x.1)
      if !ready then (s2, .wait)
      else (forAll xs (fun s x =>
        let l := lineOf x.1
        applyWrite (meterStore s l r.job (x.2.length = 64)) l (overlay (lineBytes s l) (x.1 % 64) x.2) (x.2.length = 64)) s2, .ok ())

/-- RDY gains 1 by an atomic (R245): none while its line is not ready. -/
def addRdy (s : State) (r : Reg) : State × Bool :=
  if gFld r 256 64 = 0 then (s, true)
  else match groupLpa s r.job (gFld r 256 64) 2 with
    | (s1, .wait) => (s1, false)
    | (s1, .bad _) => (s1, true)
    | (s1, .ok a) =>
      let (s2, ready) := prepWrite s1 (lineOf a) false
      if !ready then (s2, false)
      else if isPoisoned s2 (lineOf a) then (s2, true)
      else ((applyAtomic (meter s2 r.job 3 1) (lineOf a) (a % 64) 0 2 1 0).2, true)

/-- ROUND_COMPLETE (R241, R244, R245): the node combines; a node that is not the root sends one CONTRIB, chunk by chunk; the
root writes its own slot, sends DELIVER and advances RDY. -/
def execRoundComplete (reg round : Nat) (s : State) : Ans :=
  match regAt s reg with
  | none => notEnabled s
  | some r =>
    match roundOf r round with
    | none => notEnabled s
    | some rd =>
      if rd.combined || !roundFull r rd then notEnabled s
      else
        let last := ((rd.parts.filter (·.last)).map (·.chunk)).foldl max 0
        let cs := upTo (last + 1) fun c => (c, rd.parts.filter (·.chunk = c))
        if !gRoot r then
          let s1 := forAll cs (fun s x =>
            let p := combineParts r x.2
            let opa := BitVec.ofNat 64 (setFld (setFld p.opa.toNat 0 24 r.gid) 36 1 (b2n (x.1 = last)))
            sendFabric s (groupFrame s r tContrib (gFld r 64 14) opa round x.1 (partBytes r p)) (.contrib reg round)) s
          .next (onRound s1 reg round fun y => { y with combined := true, parts := [], lastChunk := some last })
        else
          -- the root writes what is not written yet, then delivers
          let todo := cs.filter fun x => !rd.delivered.contains x.1
          let step := fun (acc : State × Got Unit) (x : Nat × List Part) =>
            match acc with
            | (s, .ok ()) =>
              let opa := (x.2.headD {}).opa
              let bs := rootBytes s r x.2
              (match writeSlot (bump s 1024) r round x.1 opa bs with
                | (s1, .ok ()) =>
                  let opa1 := BitVec.ofNat 64 (setFld (setFld opa.toNat 0 24 r.gid) 36 1 (b2n (x.1 = last)))
                  (sendDeliver (onRound s1 reg round fun y => { y with delivered := y.delivered ++ [x.1] }) r opa1 round x.1 bs, Got.ok ())
                | y => y)
            | y => y
          match todo.foldl step (s, Got.ok ()) with
          | (s1, .wait) => .next s1
          | (s1, .bad st) => .next (failRound s1 reg round st false)
          | (s1, .ok ()) => match addRdy s1 r with
            | (s2, false) => .next s2
            | (s2, true) => .next (closeRound s2 reg round)

/-- ROUND_LIMIT_EXPIRE (R246). -/
def execRoundLimitExpire (reg round : Nat) (s : State) : Ans :=
  match regAt s reg with
  | none => notEnabled s
  | some r =>
    match roundOf r round with
    | none => notEnabled s
    | some rd =>
      let limit := if gFld r 96 32 = 0 then 65536 else gFld r 96 32
      if rd.firstPt + limit ≤ s.clk.pilot then .next (failRound s reg round stTimeout false) else notEnabled s

/-- A CONTRIB of a child at its parent (R240, R241, R243, R246). -/
def serveContrib (s : State) (r : Req) : State :=
  let f := r.f
  let a := f.opa.toNat
  match jobEntry s f.job, s.chim.regs.find? (fun g => g.job = f.job && g.gid = fld a 0 24) with
  | none, _ => refuse s r stDenied
  | some _, none => refuse s r stBusy
  | some _, some g =>
    let j := (fld f.opb.toNat 0 32 + 2 ^ 32 - g.first) % 2 ^ 32
    if !g.children.contains f.srcDev then refuse s r stDenied
    else if roundOver g j || 2 ^ 31 ≤ j then refuse (countDiscard s 6) r stOk
    else if g.doneUpTo + 4 ≤ j then refuse s r stBusy
    else if tbit a 35 then answer (failRound s g.lpa j stTimeout false) r (plain stOk)
    else
      let fine := gFine g
      let lanes := if gOp g = 3 then [] else
        upTo (f.payload.length / (if fine then 12 else 4)) fun k => leAt f.payload ((if fine then 12 else 4) * k) (if fine then 12 else 4)
      let p : Part := { child := true, who := f.srcDev, chunk := fld f.opb.toNat 32 22, last := tbit a 36, opa := f.opa,
                        lanes := lanes, bytes := if gOp g = 3 then f.payload else [] }
      if fine && lanes.any extBad then refuse s r stMalformed
      else if gOp g = 3 && listBad f.payload then refuse s r stMalformed
      else match absorb s g j p with
        | (s1, .ok ()) => refuse s1 r stOk
        | (s1, .wait) => refuse s1 r stBusy
        | (s1, .bad st) => refuse s1 r st

/-- A DELIVER from the parent (R245, R246). It waits while the slot's lines are not ready. One for a group or round that is
not open here is answered OK and discarded (log 28). -/
def serveDeliver (s : State) (r : Req) : State × Bool :=
  let f := r.f
  let a := f.opa.toNat
  match s.chim.regs.find? (fun g => g.job = f.job && g.gid = fld a 0 24) with
  | none => (refuse (countDiscard s 6) r stOk, true)
  | some g =>
    let j := (fld f.opb.toNat 0 32 + 2 ^ 32 - g.first) % 2 ^ 32
    let c := fld f.opb.toNat 32 22
    if f.srcDev ≠ gFld g 64 14 then (refuse s r stDenied, true)
    else if roundOver g j || (roundOf g j).isNone then (refuse (countDiscard s 6) r stOk, true)
    else if tbit a 35 then (answer (failRound s g.lpa j stTimeout true) r (plain stOk), true)
    else
      let write := if ((roundOf g j).getD {}).delivered.contains c then (s, Got.ok ()) else writeSlot s g j c f.opa f.payload
      match write with
      | (s1, .wait) => (s1, false)
      | (s1, .bad st) => (answer (failRound s1 g.lpa j st false) r (plain stOk), true)
      | (s1, .ok ()) =>
        let was := ((roundOf g j).getD {}).delivered.contains c
        let s2 := if was then s1 else sendDeliver s1 g f.opa j c f.payload
        let s3 := onRound s2 g.lpa j fun x => { x with
          delivered := if was then x.delivered else x.delivered ++ [c], lastChunk := if tbit a 36 then some c else x.lastChunk }
        match regAt s3 g.lpa with
        | none => (refuse s3 r stOk, true)
        | some g3 =>
          let rd := (roundOf g3 j).getD {}
          let all := match rd.lastChunk with
            | some l => (List.range (l + 1)).all fun k => rd.delivered.contains k
            | none => false
          if !all || !rd.combined then (refuse s3 r stOk, true)
          else match addRdy s3 g3 with
            | (s4, false) => (s4, false)
            | (s4, true) => (refuse (closeRound s4 g.lpa j) r stOk, true)

/-- ACOMB (R240): the lanes of aSA as chunk 0 of the group at sSB. -/
def execAcomb (t : ThreadRef) (w : BitVec 64) (s : State) : Ans :=
  issue s t w 4 6 fun it th =>
    let a := aReg th (wSa w)
    let fine := a.cls ≠ .b32
    let lanes := upTo 64 fun i => if fine then extPartial (accVal a i) else (tget {} a.lanes i).b32.toNat
    let p : Part := { chunk := 0, last := true, opa := contribOpa 0 0 fine 0 0 false true 0, lanes := lanes }
    let jva := (sReg th (wSb w)).toNat
    let (s1, g) := contribute s it t.n jva p
    onGot s1 t jva g fun _ => .next (onThread s1 t nextPc)

end Sys2Proof.Machine
end

