-- ==== Sys2Proof/Machine/Tile.lean ====
section
/-! DEFINITION. Class 0x2, tile (R114 to R119), and the background fetches of tiles with their budgets (R62, R115, R116). -/

namespace Sys2Proof.Machine

/-- Tiles of a Hearth that handles hold out of its promotion pool: home copies and borrowed copies (R116). -/
def heldInHearth (s : State) (h : Nat) : Nat :=
  ((s.stv.items.filter (·.hearth = h)).flatMap fun it => it.threads.flatMap fun e =>
    e.2.handles.filter fun x => !(x.kind == .scratch)).length

/-- The budget of a fetch issued now (R62, R99): the deadline less the Pilot count and the compute reserve, none without a
deadline. -/
def fetchBudget (s : State) (it : Item) : Option Nat :=
  it.deadline.map fun d =>
    let left := if ptPast s.clk.pilot d then 0 else ptDiff d s.clk.pilot
    left - it.reserve

/-- A fetch begins for an item: its number (R115). -/
def beginFetch (s : State) (i : ItemId) (f : Fetch) : State := onItem s i fun it => { it with fetches := it.fetches ++ [f] }

/-- TLD (R115, R116). -/
def execTld (t : ThreadRef) (w : BitVec 64) (ecc : Ecc) (s : State) : Ans :=
  issue s t w 2 0 fun it th =>
    let a := (sReg th (wSa w)).toNat
    if a % 16384 ≠ 0 then .next (fault s t 0xF0 a)
    else match freeHandle th with
      | none => .next (fault s t 0xF1 a)
      | some n =>
        if poolSize (t0Slice s it.hearth) ≤ heldInHearth s it.hearth then
          .next (onThread s t fun x => if x.wait = .none then { x with wait := .pool s.clk.pilot } else x)
        else
          let s1 := match cachedLeaf s it.job a with
            | some l =>
              if mpaDev (leafMpa l a) = selfDev s then (stoveDecode s (lineOf (mpaLpa (leafMpa l a))) ecc).1 else s
            | none => s
          let s2 := beginFetch s1 t.item { jva := a, thread := t.n, issued := s.clk.pilot, budget := fetchBudget s it }
          .next (onThread s2 t fun x =>
            nextPc { addHandle x (wDst w) { num := n, kind := .borrowed, jva := a, fetch := it.fetches.length } with wait := .none })

/-- TLD_POOL_TIMEOUT (R116): 10 ms have passed. -/
def execTldPoolTimeout (t : ThreadRef) (s : State) : Ans :=
  match itemOf s t.item, (threadOf s t).wait with
  | some it, .pool since =>
    if runsCode it && usPassed since s.clk.pilot 10000 then
      .next (onThread (fault s t stTimeout (sReg (threadOf s t) (match it.code.bind fun ws => ws[(threadOf s t).pc]? with
        | some w => wSa w
        | none => 0)).toNat) t fun x => { x with wait := .none })
    else notEnabled s
  | _, _ => notEnabled s

/-- The pairing whose shadow tile may take a primary's place, and that tile (R61). -/
def shadowOf (s : State) (job jva : Nat) : Option Nat :=
  s.t0.pairs.findSome? fun p =>
    if p.job = job && p.valid && p.addr ≤ jva && jva < p.addr + 16384 * p.tiles then
      some (nth 0 p.shad ((jva - p.addr) / 16384))
    else none

/-- A fetch changed. -/
def onFetch (s : State) (i : ItemId) (k : Nat) (g : Fetch → Fetch) : State :=
  onItem s i fun it => { it with fetches := it.fetches.mapIdx fun j f => if j = k then g f else f }

/-- The handles that name fetch `k` take what it brought. -/
def fillHandles (s : State) (i : ItemId) (k : Nat) (g : Handle → Handle) : State :=
  onItem s i fun it => { it with threads := tmapAll {} (fun th => { th with
    handles := th.handles.map fun h => if h.fetch = k && !(h.kind == .scratch) then g h else h }) it.threads }

/-- A fetch became whole with a tile: its home copy is promoted, any other tile is borrowed (R55, R58, R115). -/
def fetchWhole (s : State) (i : ItemId) (k : Nat) (g : TileGot) (shadow : Bool) : State :=
  match itemOf s i with
  | none => s
  | some it =>
    let f := nth {} it.fetches k
    let both := shadow || f.askShadow.isSome
    let s1 := if both then onT0 s fun x => { x with shadowDropped := satInc 32 x.shadowDropped } else s
    let s2 := chargeReads s1 i g.srcs
    let s3 := match g.home with
      | some tile => promote s2 tile it.job
      | none =>
        let b : Borrow := { jva := f.jva / 16384, job := it.job, item := i }
        if ((t0Slice s2 it.hearth).borrowed.any fun x => x = b) then s2
        else match makeBorrowRoom s2 it.hearth it.job with
          | (s', true) => onT0Slice s' it.hearth fun x => { x with borrowed := x.borrowed ++ [b] }
          | (s', false) => s'
    let s4 := fillHandles s3 i k fun h => { h with
      kind := match g.home with | some tile => .home tile | none => .borrowed,
      data := { tag := g.tag, cells := if g.home.isSome then [] else cellsOf g.bytes } }
    let s5 := onFetch s4 i k fun x => { x with st := .whole, usedShadow := shadow }
    if shadow then onItem s5 i fun x => { x with shadowCnt := x.shadowCnt + 1 } else s5

/-- A fetch failed whole (R115); a failure that a fence counts is kept for it (R219). -/
def fetchFailed (s : State) (i : ItemId) (k st : Nat) : State := onFetch s i k fun x => { x with st := .failed st }

/-- The Dense shadow of a fetch read at its home on this module (R62). -/
def readShadow (s : State) (tile : Nat) : State × Got TileGot :=
  let ls := upTo 256 fun k => tile * 256 + k
  let (s1, ready) := prepReads s ls
  if !ready then (s1, .wait)
  else if ls.any (isPoisoned s1) then (s1, .bad stPoison)
  else match loadTag (tagCode s1 tile) with
    | .ok t => (s1, .ok { tag := t, bytes := readBytes s1 (tile * 16384) 16384, srcs := ls.map fun l => .here (l * 64) })
    | _ => (s1, .bad stPoison)

/-- TILE_FETCH_COMPLETE (R62, R115): the first copy that is whole is used; the original is looked at first. -/
def execTileFetchComplete (i : ItemId) (k : Nat) (s : State) : Ans :=
  match itemOf s i with
  | none => notEnabled s
  | some it =>
    if it.fetches.length ≤ k then notEnabled s
    else
      let f := nth {} it.fetches k
      if f.st ≠ .fetching then notEnabled s
      else match readTile s i f.thread f.jva with
        | (s1, .ok g) => .next (fetchWhole s1 i k g false)
        | (s1, .bad st) =>
          (match f.askShadow with
            | none => .next (fetchFailed s1 i k st)
            | some tile => match readShadow s1 tile with
              | (s2, .ok g) => .next (fetchWhole s2 i k g true)
              | (s2, .wait) => .next s2
              | (s2, .bad _) => .next (fetchFailed s2 i k st))
        | (s1, .wait) =>
          match f.askShadow with
          | none => .next s1
          | some tile => match readShadow s1 tile with
            | (s2, .ok g) => .next (fetchWhole s2 i k g true)
            | (s2, _) => .next s2

/-- FETCH_BUDGET_LAPSE (R62, R99, R186): the shadow is fetched, or the miss action decides. -/
def execFetchBudgetLapse (i : ItemId) (k : Nat) (s : State) : Ans :=
  match itemOf s i with
  | none => notEnabled s
  | some it =>
    let f := nth {} it.fetches k
    match f.budget with
    | none => notEnabled s
    | some b =>
      if it.fetches.length ≤ k || f.st ≠ .fetching || s.clk.pilot < f.issued + b || it.result.isSome then notEnabled s
      else match shadowOf s it.job f.jva with
        | some tile => .next (onFetch s i k fun x => { x with askShadow := some tile, budget := none })
        | none =>
          if it.miss then .next (fault s { item := i, n := f.thread } stTimeout f.jva)
          else .next (onFetch s i k fun x => { x with budget := none })

/-- TALLOC: a zeroed scratch tile (R114, R118); beyond SCRATCH it is fault 0xF4. -/
def execTalloc (t : ThreadRef) (w : BitVec 64) (s : State) : Ans :=
  issue s t w 2 1 fun it th =>
    match freeHandle th with
    | none => .next (fault s t 0xF1 0)
    | some n =>
      if it.scratch ≤ scratchUsed it then .next (fault s t 0xF4 0)
      else .next (onThread s t fun x => nextPc (addHandle x (wDst w) { num := n, data := { tag := wFmt w } }))

/-- TST: the tile of handle sSB stored whole (R119). -/
def execTst (t : ThreadRef) (w : BitVec 64) (s : State) : Ans :=
  issue s t w 2 2 fun it th =>
    let a := (sReg th (wSa w)).toNat
    if a % 16384 ≠ 0 then .next (fault s t 0xF0 a)
    else
      let (s1, g) := wholeTile s it th (sReg th (wSb w))
      onGot s1 t a g fun (tag, bs) =>
        let (s2, d) := storeTile s1 t.item t.n (.store t) a tag bs
        onGot s2 t a d fun _ => .next (onThread s2 t nextPc)

/-- TREL: the handle is no longer live. -/
def execTrel (t : ThreadRef) (w : BitVec 64) (s : State) : Ans :=
  issue s t w 2 3 fun _ th =>
    match liveHandle th (sReg th (wSa w)) with
    | none => .next (fault s t 0xF1 0)
    | some h => .next (onThread s t fun x => nextPc { x with handles := x.handles.filter (·.num ≠ h.num) })

/-- TRV: 512 bytes of a handle (R117). -/
def execTrv (t : ThreadRef) (w : BitVec 64) (s : State) : Ans :=
  issue s t w 2 4 fun it th =>
    onGot s t 0 (useHandle it th (sReg th (wSa w))) fun h =>
      let (s1, g) := readHandle s it h (512 * wImm19 w) 512
      onGot s1 t h.jva g fun bs => .next (onThread s1 t fun x => nextPc (setV x (wDst w) (BitVec.ofNat 4096 (leNat bs))))

/-- Bytes written into a scratch tile. -/
def putData (d : TileData) (off : Nat) (bs : List Byte) : TileData := { d with cells := putBytes d.cells off bs }

/-- TWV: vSB written to scratch. -/
def execTwv (t : ThreadRef) (w : BitVec 64) (s : State) : Ans :=
  issue s t w 2 5 fun it th =>
    onGot s t 0 (useScratch th (sReg th (wSa w))) fun h =>
      .next (onThread (meter s it.job 0 512) t fun x =>
        nextPc (modHandle x h.num fun y => { y with data := putData y.data (512 * wImm19 w) (natLe 512 (vReg x (wSb w)).toNat) }))

/-- TTAG. -/
def execTtag (t : ThreadRef) (w : BitVec 64) (s : State) : Ans :=
  issue s t w 2 6 fun it th =>
    onGot s t 0 (useHandle it th (sReg th (wSa w))) fun h =>
      onGot s t h.jva (handleTag s h) fun tag => .next (onThread s t fun x => nextPc (setS x (wDst w) (BitVec.ofNat 64 tag)))

/-- TWAIT: 0 when the tile is whole, else the status of the failure. -/
def execTwait (t : ThreadRef) (w : BitVec 64) (s : State) : Ans :=
  issue s t w 2 7 fun it th =>
    match liveHandle th (sReg th (wSa w)) with
    | none => .next (fault s t 0xF1 0)
    | some _ => match useHandle it th (sReg th (wSa w)) with
      | .ok _ => .next (onThread s t fun x => nextPc (setS x (wDst w) 0))
      | .bad st => .next (onThread s t fun x => nextPc (setS x (wDst w) (BitVec.ofNat 64 st)))
      | .wait => .next s

/-- TCVT: a new scratch handle with the tile converted (R75); to the tile's own format it is a copy (R117). -/
def execTcvt (t : ThreadRef) (w : BitVec 64) (s : State) : Ans :=
  issue s t w 2 8 fun it th =>
    match freeHandle th with
    | none => .next (fault s t 0xF1 0)
    | some n =>
      if it.scratch ≤ scratchUsed it then .next (fault s t 0xF4 0)
      else
        let (s1, g) := wholeTile s it th (sReg th (wSa w))
        onGot s1 t 0 g fun (tag, bs) =>
          let (s2, out) := if tag = wFmt w then (s1, bs) else convertTile s1 tag (wFmt w) (wCvt w) bs
          .next (onThread (meter s2 it.job 0 16384) t fun x =>
            nextPc (addHandle x (wDst w) { num := n, data := { tag := wFmt w, cells := cellsOf out } }))

end Sys2Proof.Machine
end

