-- ==== Sys2Proof/Machine/Stage.lean ====
section
/-! DEFINITION. Tiles that a built-in operator works on: each is fetched as R115 has it, under the budget and fallback of R62,
and held by thread 0 until its unit of work ends. -/

namespace Sys2Proof.Machine

/-- The handle under which an item holds the tile at a JVA. -/
def staged (it : Item) (jva : Nat) : Option Handle :=
  ((tget {} it.threads 0).handles.find? fun h => h.jva = jva)

/-- A tile's fetch begun for an item with the given budget. -/
def stageTile (s : State) (i : ItemId) (jva : Nat) (budget : Option Nat) (seg : Nat) : State :=
  onItem s i fun it =>
    let k := it.fetches.length
    { it with
      fetches := it.fetches ++ [{ jva := jva, issued := s.clk.pilot, budget := budget, seg := seg }]
      threads := tmod {} it.threads 0 fun th =>
        { th with handles := th.handles ++ [{ num := k, kind := .borrowed, jva := jva, fetch := k }] } }

/-- The tile of a handle that an item holds, with its tag. -/
def stagedTile (s : State) (it : Item) (h : Handle) : State × Got (Nat × List Byte) :=
  match (nth {} it.fetches h.fetch).st with
  | .fetching => (s, .wait)
  | .failed st => (s, .bad st)
  | .whole =>
    match readHandle s it h 0 16384 with
    | (s1, .wait) => (s1, .wait)
    | (s1, .bad st) => (s1, .bad st)
    | (s1, .ok bs) => match handleTag s1 h with
      | .ok t => (s1, .ok (t, bs))
      | .wait => (s1, .wait)
      | .bad st => (s1, .bad st)

/-- The tile at a JVA: held whole, or its fetch is begun. -/
def needTile (s : State) (i : ItemId) (jva : Nat) : State × Got (Nat × List Byte) :=
  match itemOf s i with
  | none => (s, .wait)
  | some it => match staged it jva with
    | some h => stagedTile s it h
    | none => (stageTile s i jva (fetchBudget s it) 0, .wait)

/-- Several tiles: the fetches of all are begun before any is waited for. -/
def needTiles (s : State) (i : ItemId) : List Nat → State × Got (List (Nat × List Byte))
  | [] => (s, .ok [])
  | j :: js =>
    let (s1, x) := needTile s i j
    match x with
    | .bad st => (s1, .bad st)
    | _ =>
      let (s2, y) := needTiles s1 i js
      match x, y with
      | _, .bad st => (s2, .bad st)
      | .ok a, .ok as => (s2, .ok (a :: as))
      | _, _ => (s2, .wait)

/-- The unit of work is done: its tiles are held no longer. -/
def releaseTiles (it : Item) : Item := { it with threads := tmod {} it.threads 0 fun th => { th with handles := [] } }

/-- The status of a completed operator: DEGRADED where a tile came from a Dense shadow (R62), else OK. -/
def plainStatus (it : Item) : Nat := if it.shadowCnt = 0 then stOk else stDegraded

end Sys2Proof.Machine
end

