-- ==== Sys2Proof/Machine/MatVec.lean ====
section
/-! DEFINITION. MATVEC (R179 to R187): a weight run with its gates, staging and outputs. A segment of a pass is named by its
place in the order of all, NSEG × pass + segment. -/

namespace Sys2Proof.Machine

/-- Several pieces stored by an item: nothing until every line is ready. -/
def itemStores (s : State) (i : ItemId) (xs : List (Nat × List Byte)) : State × Got Unit :=
  let ps := xs.flatMap fun x => storePieces x.1 x.2
  match tryStores s i ps with
  | (s1, .wait) => (s1, .wait)
  | (s1, .bad st) => (s1, .bad st)
  | (s1, .ok ds) =>
    match lostStatus ds with
    | some st => (s1, .bad st)
    | none => (forAll (List.zip ps ds) (fun s x => storePiece s i 0 (.itemStore i) x.1 x.2) s1, .ok ())

/-- An atomic of an item at a JVA, without a return value: at its home here, or by a request (R124). -/
def itemAtomic (s : State) (i : ItemId) (jva aop w op : Nat) : State × Got Unit :=
  match tryStore s i 2 jva false with
  | (s1, .wait) => (s1, .wait)
  | (s1, .bad st) => (s1, .bad st)
  | (s1, .ok (.lost st)) => (s1, .bad st)
  | (s1, .ok (.here a)) =>
    if isPoisoned s1 (lineOf a) then (s1, .bad stPoison)
    else
      let job := match itemOf s1 i with | some it => it.job | none => 0
      ((applyAtomic (meter (meterLine s1 (lineOf a) job 128) job 3 1) (lineOf a) (a % 64) aop w op 0).2, .ok ())
  | (s1, .ok (.far m)) =>
    match itemOf s1 i with
    | none => (s1, .wait)
    | some it =>
      let f := fabricHead s1 it.ctx it.job tAtomic (stoveTag it 0) (BitVec.ofNat 64 jva) (BitVec.ofNat 64 m)
      (sendFabric s1 { f with opa := BitVec.ofNat 64 (aop + w * 2 ^ 8), opb := BitVec.ofNat 64 op } (.itemStore i), .ok ())

/-- A segment entry of a weight run (R179). -/
def segOf (bs : List Byte) : Seg :=
  let n := leNat bs
  { w := fld n 0 64, rt := fld n 64 16, ct := fld n 80 16, xoff := fld n 96 32, yoff := fld n 128 32, rdyVal := fld n 160 32,
    rdy := fld n 192 64, signal := fld n 256 64, toGroup := tbit n 320, budget := fld n 352 32 }

/-- A segment breaks a range of R179, or is TOGROUP without a group (R180). -/
def segBad (group : Nat) (g : Seg) : Bool :=
  g.w % 16384 ≠ 0 || g.rt = 0 || 1024 < g.rt || g.ct = 0 || 1024 < g.ct || g.rdy % 4 ≠ 0 || g.signal % 4 ≠ 0 ||
    (g.toGroup && group = 0)

/-- The segment at a place in the order of all. -/
def segAt (r : Run) (k : Nat) : Seg := nth {} r.segs (k % r.segs.length)

/-- Some AHEAD + 1 consecutive segments have more than 256 tiles (R184). -/
def tooWide (r : Run) : Bool :=
  (List.range r.segs.length).any fun k =>
    256 < ((upTo (r.ahead + 1) fun d =>
      if k + d < r.segs.length * r.passes then (segAt r (k + d)).rt * (segAt r (k + d)).ct else 0).sum)

/-- The place of the segment that runs. -/
def segNow (r : Run) : Nat := r.pass * r.segs.length + r.seg

/-- Counts of a run as its result area holds them (R187). -/
def runCounts (it : Item) (st : Nat) : Result :=
  let r := it.run.getD {}
  { status := st, count := r.pass, detail := r.seg, opResult := (it.fetches.filter fun f => f.st == .whole).length }

/-- Tiles of the segment at a place are fetched in tile order (R184). -/
def stageSeg (s : State) (i : ItemId) (k : Nat) : State :=
  match itemOf s i with
  | none => s
  | some it =>
    let r := it.run.getD {}
    if r.segs.length * r.passes ≤ k then s
    else
      let g := segAt r k
      forAll (List.range (g.rt * g.ct)) (fun s n =>
        stageTile s i (g.w + 16384 * n) (if g.budget = 0 then fetchBudget s it else none) k) s

/-- The gate of the running segment opens (R181, R184, R186): tiles are fetched, and the budget of its own tiles starts. -/
def openGate (s : State) (i : ItemId) : State :=
  match itemOf s i with
  | none => s
  | some it =>
    let r := it.run.getD {}
    let k := segNow r
    let s1 := onItem s i fun x => { x with run := some { r with opened := true, sent := false }, prog := 0 }
    let s2 := stageSeg s1 i (k + r.ahead)
    let g := segAt r k
    if g.budget = 0 then s2
    else onItem s2 i fun x => { x with
      fetches := x.fetches.map fun f =>
        if f.seg = k && f.st == .fetching then { f with issued := s.clk.pilot, budget := some g.budget } else f }

/-- The run comes to its next segment, which opens at once where it has no gate. -/
def reachSeg (s : State) (i : ItemId) : State :=
  let s1 := onItem s i fun x => { x with run := x.run.map fun r => { r with opened := false, sent := false, sincePt := s.clk.pilot } }
  match itemOf s1 i with
  | none => s1
  | some it =>
    let r := it.run.getD {}
    if (segAt r (segNow r)).rdy = 0 then openGate s1 i else s1

/-- The run is read once and checked (R179, R180, R184); segments with no predecessor are fetched now. -/
def beginRun (s : State) (i : ItemId) (it : Item) : Ans :=
  let a := opFld it 256 64
  let (s1, g) := itemRead s i a 64
  onGotI s1 i {} a g fun hb =>
    let h := leNat hb
    let nseg := fld h 8 13
    match descStatus (fld h 0 4) (fld h 4 4) 9 with
    | some st => failItem s1 i {} st
    | none =>
      if nseg = 0 || 4096 < nseg || fld h 32 32 = 0 then failItem s1 i {} stMalformed
      else
        let (s2, eg) := itemRead s1 i (a + 64) (64 * nseg)
        onGotI s2 i {} a eg fun eb =>
          let r : Run := { segs := (chunks 64 nseg eb).map segOf, ahead := fld h 21 2, passes := fld h 32 32, gateLimit := fld h 64 32 }
          let g0 := segAt r 0
          if r.segs.any (segBad (opFld it 512 64)) || tooWide r then failItem s2 i {} stMalformed
          else
            let out := if g0.toGroup then a else opFld it 448 64 + 64 * g0.yoff
            let (s3, cg) := itemClass s2 it out (opFld it 320 64 + 64 * g0.xoff)
            onGotI s3 i {} out cg fun dense =>
              if !dense && r.segs.any (·.toGroup) && 2 < opFld it 388 4 then failItem s3 i {} stMalformed
              else
                let s4 := onItem s3 i fun x => { x with run := some { r with fine := !dense } }
                .next (reachSeg (forAll (List.range r.ahead) (fun s k => stageSeg s i k) s4) i)

/-- The handles that hold the tiles of the segment at a place, in tile order. -/
def segHandles (it : Item) (k : Nat) : List Handle :=
  (tget {} it.threads 0).handles.filter fun h => (nth {} it.fetches h.fetch).seg = k

/-- Tiles of several handles, all whole. -/
def tilesOfHandles (s : State) (it : Item) : List Handle → State × Got (List (Nat × List Byte))
  | [] => (s, .ok [])
  | h :: hs =>
    let (s1, x) := stagedTile s it h
    match x with
    | .bad st => (s1, .bad st)
    | .wait => (s1, .wait)
    | .ok t => match tilesOfHandles s1 it hs with
      | (s2, .ok ts) => (s2, .ok (t :: ts))
      | y => y

/-- The lanes of row tile `i` of a segment (R180, R183): row by row over its column tiles. -/
def rowTileVals (fine : Bool) (tag xf ct : Nat) (ts : List (Nat × List Byte)) (x : Nat → Val) (i : Nat) : List Val :=
  let k := mCols tag
  let row := (ts.drop (i * ct)).take ct
  let lanes := row.mapIdx fun j t =>
    let get := byteGet t.2
    upTo (mRows tag) fun r => upTo k fun c => vMul (tileElem get tag (r * k + c)) (x (j * k + c))
  upTo (mRows tag) fun r =>
    let l := lanes.foldl (fun l ps => addProducts fine (tag = 0 || xf = 0) l (nth [] ps r)) ({} : Lane)
    if fine then laneVal l else b32Val l.b32

/-- The segment's products are done: its tiles are held no longer. -/
def releaseSeg (it : Item) (k : Nat) : Item :=
  { it with threads := tmod {} it.threads 0 fun th => { th with handles := th.handles.filter fun h => (nth {} it.fetches h.fetch).seg ≠ k } }

/-- The output of the open segment (R180, R182): written locally, or contributed chunk by chunk, `prog` of them so far. -/
def runSegment (s : State) (i : ItemId) (it : Item) (r : Run) : Ans :=
  let k := segNow r
  let g := segAt r k
  let (s1, tg) := tilesOfHandles s it (segHandles it k)
  onGotI s1 i (runCounts it 0) g.w tg fun ts =>
    let tag := (ts.headD (0, [])).1
    if ts.any fun t => t.1 ≠ tag then failItem s1 i (runCounts it 0) stMalformed
    else if !fmtOk tag then failItem s1 i (runCounts it 0) stUnsupported
    else
      let xf := opFld it 384 4
      let yf := opFld it 388 4
      let cvt := opFld it 392 4
      let n := g.ct * mCols tag
      let xa := opFld it 320 64 + 64 * g.xoff
      let (s2, xg) := itemRead s1 i xa (n * elemBytes xf)
      onGotI s2 i (runCounts it 0) xa xg fun xb =>
        let get := byteGet xb
        let xa := (upTo n fun e => elemVal xf (elemCode get xf e)).toArray
        let vs := upTo g.rt (rowTileVals r.fine tag xf g.ct ts (fun e => xa.getD e {}))
        let done := fun (s : State) =>
          let s' := meterOps s it.job tag (2 * mRows tag * mCols tag * g.rt * g.ct)
          onItem s' i fun x => { releaseSeg x k with run := some { r with sent := true }, prog := 0 }
        if g.toGroup then
          let per := if r.fine then 320 else 1024
          let lanes := vs.flatten.map fun v => if r.fine then extPartial v else (b32Of v).toNat
          let c := it.prog
          let last : Bool := lanes.length ≤ (c + 1) * per
          let p : Part := { chunk := c, last := last, opa := contribOpa 0 0 r.fine yf cvt false last 0,
                            lanes := (lanes.drop (c * per)).take per }
          let (s3, cg) := contribute s2 it 0 (opFld it 512 64) p
          onGotI s3 i (runCounts it 0) (opFld it 512 64) cg fun _ =>
            .next (if last then done s3 else onItem s3 i fun x => { x with prog := c + 1 })
        else
          let b := elemBytes yf
          let ya := opFld it 448 64 + 64 * g.yoff
          let outs := (List.zip (List.range g.rt) vs).map fun p =>
            (ya + 64 * p.1 * b, (plainElems yf (cvtRnd cvt) (cvtSat cvt) (drawU (s2.draws + 64 * p.1)) p.2).flatMap (natLe b))
          let (s3, sg) := itemStores (bump s2 (64 * g.rt)) i outs
          onGotI s3 i (runCounts it 0) ya sg fun _ => .next (done s3)

/-- MATVEC: the run is read, then each open segment whose tiles are whole gives its output. -/
def execMatvec (i : ItemId) (s : State) : Ans :=
  opRun s i 0x40 fun it =>
    match it.run with
    | none => beginRun s i it
    | some r => if r.opened && !r.sent then runSegment s i it r else notEnabled s

/-- GATE_OPEN (R181): the ready word has reached the gate's value for this pass. -/
def execGateOpen (i : ItemId) (s : State) : Ans :=
  opRun s i 0x40 fun it =>
    match it.run with
    | none => notEnabled s
    | some r =>
      if r.opened then notEnabled s
      else
        let g := segAt r (segNow r)
        let (s1, w) := itemRead s i g.rdy 4
        onGotI s1 i (runCounts it 0) g.rdy w fun bs =>
          if ptDiff (leNat bs) (g.rdyVal + r.pass) < 2 ^ 31 then .next (openGate s1 i) else notEnabled s1

/-- GATE_EXPIRED (R181, R187): GATE_LIMIT pt have passed at a shut gate; DETAIL holds the segment. -/
def execGateExpired (i : ItemId) (s : State) : Ans :=
  opRun s i 0x40 fun it =>
    match it.run with
    | none => notEnabled s
    | some r =>
      if !r.opened && r.gateLimit ≠ 0 && r.sincePt + r.gateLimit ≤ s.clk.pilot then failItem s i (runCounts it 0) 0xC0
      else notEnabled s

/-- SEGMENT_COMPLETE (R182, R187): every write of the output is visible; SIGNAL gains 1, and the run goes on or ends. -/
def execSegmentComplete (i : ItemId) (s : State) : Ans :=
  opRun s i 0x40 fun it =>
    match it.run with
    | none => notEnabled s
    | some r =>
      if !r.sent || outstanding s (· == .itemStore i) then notEnabled s
      else
        let g := segAt r (segNow r)
        let (s1, a) := if g.signal = 0 then (s, Got.ok ()) else itemAtomic s i g.signal 0 2 1
        onGotI s1 i (runCounts it 0) g.signal a fun _ =>
          if r.seg + 1 < r.segs.length then
            .next (reachSeg (onItem s1 i fun x => { x with run := some { r with seg := r.seg + 1 } }) i)
          else if r.pass + 1 < r.passes then
            .next (reachSeg (onItem s1 i fun x => { x with run := some { r with seg := 0, pass := r.pass + 1 } }) i)
          else
            let r1 := { r with seg := r.segs.length, pass := r.passes }
            .next (endItem (onItem s1 i fun x => { x with run := some r1 }) i
              (runCounts { it with run := some r1 } (plainStatus it)))

end Sys2Proof.Machine
end

