-- ==== Sys2Proof/Machine/Rows.lean ====
section
/-! DEFINITION. One update of a table row (R140, R154 to R156): the optimizer descriptor, the formulas, the row lock. -/

namespace Sys2Proof.Machine

/-- Row bytes (R140). -/
def rowBytesOf (dim fmt : Nat) : Nat := if fmt = 8 then 4 * ((dim + 3) / 4) + 4 else dim * elemBytes fmt

/-- The optimizer descriptor's fields (R154). -/
structure Opt where
  kind : Nat := 0
  fmt : Nat := 0
  bias : Bool := false
  off : Nat := 0
  lr : Nat := 0
  b1 : Nat := 0
  b2 : Nat := 0
  eps : Nat := 0
  wd : Nat := 0
deriving DecidableEq, Repr

/-- The fields of the 64 bytes. -/
def optOf (bs : List Byte) : Opt :=
  let n := leNat bs
  { kind := fld n 8 2, fmt := fld n 10 4, bias := tbit n 14, off := 16 * fld n 16 16, lr := fld n 32 32, b1 := fld n 64 32,
    b2 := fld n 96 32, eps := fld n 128 32, wd := fld n 160 32 }

/-- State elements beside a row (R155). -/
def stateElems (kind dim : Nat) : Nat :=
  match kind with
  | 0 => 0
  | 1 => dim
  | 2 => 1
  | _ => 2 * dim

/-- State bytes of a row. -/
def stateBytes (o : Opt) (dim : Nat) : Nat := stateElems o.kind dim * elemBytes o.fmt

/-- The checks of R154: none where the descriptor is served. -/
def optStatus (bs : List Byte) (dim fmt stride step : Nat) : Option Nat :=
  let n := leNat bs
  let o := optOf bs
  let finite := fun c => (fDecode (fspec 0) c).kind == .fin
  match descStatus (fld n 0 4) (fld n 4 4) 3, fmtStatus o.fmt with
  | some st, _ => some st
  | none, some st => some st
  | none, none =>
    if 2 < o.fmt || !(finite o.lr && finite o.b1 && finite o.b2 && finite o.eps && finite o.wd) || o.off < rowBytesOf dim fmt ||
        stride < o.off + stateBytes o dim || (o.kind = 3 && o.bias && step = 0) then some stMalformed
    else none

/-- What one row update needs: geometry, optimizer, step number, summed gradient, conversion control. -/
structure RowJob where
  dim : Nat := 1
  fmt : Nat := 0
  opt : List Byte := []
  step : Nat := 0
  cvt : Nat := 0
  grad : List Val := []
deriving DecidableEq, Repr

/-- A power of a value, each product rounded by `rd`. -/
def vPow (rd : Val → Val) (b : Val) : Nat → Val
  | 0 => { man := 1 }
  | n + 1 => rd (vMul (vPow rd b n) b)

/-- The new weights and state of a row (R155): `rd` rounds every intermediate result, in Fine arithmetic not at all and in
Dense to binary32. The new m or a enters the weight before its own rounding (log 25). -/
def rowFormula (rd : Val → Val) (o : Opt) (dim step : Nat) (ws st gs : List Val) : List Val × List Val :=
  let add := fun a b => rd (vAdd a b)
  let sub := fun a b => rd (vAdd a (vNeg b))
  let mul := fun a b => rd (vMul a b)
  let div := fun a b => rd (vDiv a b)
  let sqrt := fun a => rd (vSqrt a)
  let c := fun k => b32Val (BitVec.ofNat 32 k)
  let lr := c o.lr
  let gw := List.zipWith (fun w g => add g (mul (c o.wd) w)) ws gs
  match o.kind with
  | 0 => (List.zipWith (fun w g => sub w (mul lr g)) ws gw, [])
  | 1 =>
    let m := List.zipWith (fun m g => add (mul (c o.b1) m) g) st gw
    (List.zipWith (fun w m => sub w (mul lr m)) ws m, m)
  | 2 =>
    let sq := sumVals (gw.map fun g => mul g g)
    let a := add (nth {} st 0) (mul (div { man := 1 } { man := dim }) (rd sq))
    (List.zipWith (fun w g => sub w (div (mul lr g) (add (sqrt a) (c o.eps)))) ws gw, [a])
  | _ =>
    let one : Val := { man := 1 }
    let m := List.zipWith (fun m g => add (mul (c o.b1) m) (mul (sub one (c o.b1)) g)) (st.take dim) gs
    let v := List.zipWith (fun v g => add (mul (c o.b2) v) (mul (sub one (c o.b2)) (mul g g))) (st.drop dim) gs
    let c1 := if o.bias then sub one (vPow rd (c o.b1) step) else one
    let c2 := if o.bias then sub one (vPow rd (c o.b2) step) else one
    (List.zipWith (fun w mv => sub w (mul lr (add (div (div mv.1 c1) (add (sqrt (div mv.2 c2)) (c o.eps))) (mul (c o.wd) w))))
      ws (List.zip m v), m ++ v)

/-- Row-wise Adagrad and two-moment results are promised to within 2^-120 beyond half a unit (R81): which side of that bound
a value takes is free. -/
def withinBound (on : Bool) (d : Nat) (v : Val) : Val :=
  if on then vMul v { man := if (Config.freeWord d).getLsbD 0 then 2 ^ 120 + 1 else 2 ^ 120 - 1, exp := -120 } else v

/-- The values of a row's elements (R140, R150). -/
def rowVals (fmt dim : Nat) (get : Nat → Byte) : List Val :=
  if fmt = 8 then
    let sc := int8Scale (leNat (upTo 4 fun k => get (4 * ((dim + 3) / 4) + k)))
    upTo dim fun e => vMul (elemVal 8 (get e).toNat) sc
  else upTo dim fun e => elemVal fmt (leNat (upTo (elemBytes fmt) fun k => get (elemBytes fmt * e + k)))

/-- The bytes of elements in a row's format; a format-0x8 row takes a new scale (R75, R155). -/
def rowEncode (fmt rnd : Nat) (sat : Bool) (u : Nat → Nat) (vs : List Val) : List Byte :=
  if fmt = 8 then
    let ws := vs.map (satIn sat)
    let sc := intScaleCode 8 ws
    let cs := if (int8Scale sc).kind = .nan then List.replicate ws.length 0 else intElems 8 127 rnd u (int8Scale sc) ws
    let body := cs.map fun c => BitVec.ofNat 8 c
    body ++ List.replicate (4 * ((vs.length + 3) / 4) - vs.length) 0 ++ natLe 4 sc
  else (plainElems fmt rnd sat u vs).flatMap (natLe (elemBytes fmt))

/-- Offsets of the lines that a row and its state occupy. -/
def rowOffs (o : Opt) (dim fmt : Nat) : List Nat :=
  let a := (rowBytesOf dim fmt + 63) / 64
  let n := stateBytes o dim
  let b := o.off / 64
  let e := if n = 0 then b else (o.off + n + 63) / 64
  (List.range a).map (64 * ·) ++ ((List.range (e - b)).map fun k => 64 * (b + k)).filter fun x => a * 64 ≤ x

/-- The byte of a row at an offset, by the places of its lines. -/
def rowByte (s : State) (offs lpas : List Nat) (o : Nat) : Byte :=
  match offs.findIdx? (· = o / 64 * 64) with
  | some i => tget 0 s.mem.cells (nth 0 lpas i + o % 64)
  | none => 0

/-- One row updated at its home: read, computed, written, its lines locked until ROW_LOCK_RELEASE (R155, R156). The extent
of the row says whether its outputs are rounded stochastically (R84). -/
def updateRow (s : State) (dense : Bool) (job : Nat) (j : RowJob) (offs lpas : List Nat) : State :=
  let o := optOf j.opt
  let get := rowByte s offs lpas
  let ws := rowVals j.fmt j.dim get
  let n := stateElems o.kind j.dim
  let st := upTo n fun e => elemVal o.fmt (leNat (upTo (elemBytes o.fmt) fun k => get (o.off + elemBytes o.fmt * e + k)))
  let (w1, t1) := rowFormula (if dense then r32 else id) o j.dim j.step ws st j.grad
  let toDense := (extOf s (lpas.headD 0)).dense
  let rnd := if toDense then 1 else cvtRnd j.cvt
  let sat := cvtSat j.cvt
  let fuzz := fun k v => withinBound (!dense && (o.kind = 2 || o.kind = 3)) (s.draws + k) v
  let w2 := (List.zip (List.range w1.length) w1).map fun p => fuzz p.1 p.2
  let t2 := (List.zip (List.range t1.length) t1).map fun p => fuzz (j.dim + p.1) p.2
  let wb := rowEncode j.fmt rnd sat (fun k => drawU (s.draws + 4 * j.dim) k) w2
  let tb := rowEncode o.fmt rnd sat (fun k => drawU (s.draws + 6 * j.dim) k) t2
  let newByte := fun x => if x < wb.length then nth 0 wb x else if o.off ≤ x && x < o.off + tb.length then nth 0 tb (x - o.off) else get x
  let s1 := forAll (List.zip offs lpas) (fun s p =>
    let l := lineOf p.2
    applyWrite (meterLine s l job 128) l (upTo 64 fun k => newByte (p.1 + k)) false) (bump s (9 * j.dim))
  onSlice s1 (lpaHearth (lpas.headD 0)) fun x => { x with
    locks := x.locks ++ [{ lines := lpas.map lineOf, sincePt := s.clk.pilot }] }

/-! ## Rows on other modules -/

/-- The payload of a SCATTER_UPDATE request (R156; its layout is the model's, log 26): the optimizer descriptor, then the
summed gradient as extended partials of a Fine sum or binary32. -/
def scatterPayload (dense : Bool) (j : RowJob) : List Byte :=
  j.opt ++ j.grad.flatMap fun g => if dense then natLe 4 (b32Of g).toNat else natLe 12 (extPartial g)

/-- OPA of a SCATTER_UPDATE request: row format, dimension, conversion control, class (log 26). OPB holds STEP. -/
def scatterOpa (dense : Bool) (j : RowJob) : W64 := BitVec.ofNat 64 (j.fmt + j.cvt * 16 + b2n dense * 256 + j.dim * 65536)

/-- What a SCATTER_UPDATE request asks for, and whether its class is Dense. -/
def scatterJob (f : Frame) : RowJob × Bool :=
  let a := f.opa.toNat
  let dense := tbit a 8
  let dim := fld a 16 13
  let body := f.payload.drop 64
  ({ dim := dim, fmt := fld a 0 4, cvt := fld a 4 4, step := f.opb.toNat, opt := f.payload.take 64,
     grad := upTo dim fun k => if dense then b32Val (BitVec.ofNat 32 (leAt body (4 * k) 4)) else extVal (leAt body (12 * k) 12) },
   dense)

/-- A Fine gradient holds a partial that is never produced (R80). -/
def scatterBad (f : Frame) : Bool :=
  let a := f.opa.toNat
  !tbit a 8 && (List.range (fld a 16 13)).any fun k => extBad (leAt (f.payload.drop 64) (12 * k) 12)

/-- Places of a row's lines on this module, its first being given: pages beyond the first by the job's translation. -/
def ownerLpas (s : State) (f : Frame) (offs : List Nat) : List Nat :=
  let a := mpaLpa f.mpa.toNat
  let j := f.jva.toNat
  offs.map fun o =>
    if (j + o) / 4096 = j / 4096 then a + o
    else match (xlate s f.job (j + o) 1).1 with
      | .ok m _ => mpaLpa m
      | _ => a + o

/-- A request set aside until the line of an MPA can be read: it is served again by the command that frees the line. -/
def park (s : State) (r : Req) (mpa : Nat) : State := onTrn s fun t => { t with parked := t.parked ++ [(r, mpa)] }

/-- A SCATTER_UPDATE request at the owning module (R156). It waits for a line of its row that is taken or locked. -/
def serveScatter (s : State) (r : Req) : State :=
  let (j, dense) := scatterJob r.f
  let o := optOf j.opt
  let offs := rowOffs o j.dim j.fmt
  let lpas := ownerLpas s r.f offs
  let ls := lpas.map lineOf
  if scatterBad r.f || (optStatus j.opt j.dim j.fmt (2 ^ 22) j.step).isSome then refuse s r stMalformed
  else if !(lpas.all fun a => lpaExt a = lpaExt (lpas.headD 0)) then refuse s r stMalformed
  else
    let (s1, ready) := prepWrites s false ls
    if !ready then
      (match ls.find? fun l => (txOf s1 l).isSome || (lockOf s1 l).isSome with
        | some l => park s1 r (ownMpa s1 (l * 64))
        | none => refuse s1 r stBusy)
    else if ls.any (isPoisoned s1) then refuse s1 r stPoison
    else answer (updateRow s1 dense r.f.job j offs lpas) r (plain stOk)

end Sys2Proof.Machine
end

