-- ==== Sys2Proof/Machine/Attend.lean ====
section
/-! DEFINITION. ATTEND (R188 to R191) and REDUCE (R192, R193). -/

namespace Sys2Proof.Machine

/-! ## The exponential -/

/-- Fraction bits with which the exponential is evaluated. -/
def expBits : Nat := 640

/-- A value as an integer multiple of 2^-640, toward zero. -/
def toFixed (v : Val) : Nat := if 0 ≤ v.exp + 640 then v.man * pow2i (v.exp + 640) else v.man / pow2i (-(v.exp + 640))

/-- exp(-y) for y in units of 2^-640 below 2^-10, by its series from term `k`, whose size is `t`, on: the sum of the even terms
and that of the odd ones. -/
def expSeries (y : Nat) : Nat → Nat → Nat → Nat × Nat
  | 0, _, _ => (0, 0)
  | n + 1, k, t =>
    let (e, o) := expSeries y n (k + 1) (t * y / 2 ^ expBits / (k + 1))
    if k % 2 = 0 then (e + t, o) else (e, o + t)

/-- A number of fixed point squared `n` times. -/
def sqTimes : Nat → Nat → Nat
  | 0, x => x
  | n + 1, x => sqTimes n (x * x / 2 ^ expBits)

/-- exp(x) of a value that is at most 0 (R189): far closer than the 128 bits of R190; never 0 for a finite value. -/
def vExp (x : Val) : Val :=
  match x.kind with
  | .nan => vNan
  | .inf => {}
  | .fin =>
    if vLt x { neg := true, man := 4096 } then { man := 1, exp := -640 }
    else
      let (e, o) := expSeries (toFixed x / 2 ^ 22) 48 0 (2 ^ expBits)
      { man := max 1 (sqTimes 22 (e - o)), exp := -640 }

/-! ## ATTEND -/

/-- A KV-cache descriptor's fields (R188). -/
structure Kv where
  fmt : Nat := 0
  heads : Nat := 1
  qpk : Nat := 1
  dim : Nat := 16
  scale : Nat := 0
  cap : Nat := 1
  kb : Nat := 0
  vb : Nat := 0
deriving DecidableEq, Repr

/-- The fields of the 64 bytes. -/
def kvOf (bs : List Byte) : Kv :=
  let n := leNat bs
  { fmt := fld n 8 4, heads := fld n 16 6 + 1, qpk := 2 ^ fld n 24 3, dim := fld n 32 11, scale := fld n 64 32, cap := fld n 96 32,
    kb := fld n 128 64, vb := fld n 192 64 }

/-- Bytes of a row of `dim` elements, in whole lines (R188). -/
def attRow (dim f : Nat) : Nat := roundUp 64 (dim * elemBytes f)

/-- The checks of R188: none where the descriptor is served. -/
def kvStatus (bs : List Byte) (pos : Nat) : Option Nat :=
  let n := leNat bs
  let k := kvOf bs
  match descStatus (fld n 0 4) (fld n 4 4) 0xA, fmtStatus k.fmt with
  | some st, _ => some st
  | none, some st => some st
  | none, none =>
    let v := fDecode (fspec 0) k.scale
    if 4 < k.fmt || 4 < fld n 24 3 || k.dim < 16 || 1024 < k.dim || k.dim % 16 ≠ 0 || v.kind ≠ .fin || v.man = 0 || k.cap = 0 ||
        k.kb % 16384 ≠ 0 || k.vb % 16384 ≠ 0 || k.cap * attRow k.dim k.fmt % 16384 ≠ 0 || pos = 0 || k.cap < pos then
      some stMalformed
    else none

/-- Rows of a head's array as values, from its tiles. -/
def kvRows (k : Kv) (pos : Nat) (ts : List (Nat × List Byte)) : List (List Val) :=
  let rb := attRow k.dim k.fmt
  let all := (ts.flatMap Prod.snd).toArray
  upTo pos fun p => upTo k.dim fun e => elemVal k.fmt (elemCode (fun b => all.getD (p * rb + b) 0) k.fmt e)

/-- The largest of the scores; NaN where any is (R189). -/
def maxScore : List Val → Val
  | [] => {}
  | v :: vs => vs.foldl vMaxV v

/-- A binary32 code within one unit of `c`: which one is free (R190). -/
def nearB32 (c : BitVec 32) (d : Nat) : BitVec 32 :=
  let v := b32Val c
  if v.kind ≠ .fin || c.toNat = 0 || 0x7F7FFFFF ≤ c.toNat then c
  else match (Config.freeWord d).toNat % 3 with
    | 0 => c
    | 1 => c - 1
    | _ => c + 1

/-- One query's output elements before their final rounding under Fine arithmetic (R190): within 2^-100 × V of the exact
value, and where within that is free. -/
def attendFine (d : Nat) (k : Kv) (wide : Bool) (q : List Val) (ks vs : List (List Val)) : List Val :=
  let scores := ks.map fun r => vMul (b32Val (BitVec.ofNat 32 k.scale)) (laneVal (addProducts true wide {} (List.zipWith vMul q r)))
  let m := maxScore scores
  let ws := scores.map fun x => vExp (vAdd x (vNeg m))
  let bad := m.kind = .nan || (scores.any fun x => (vAdd x (vNeg m)).kind = .nan)
  let ws := if bad then ws.map fun _ => vNan else ws
  let den := sumVals ws
  upTo k.dim fun e =>
    let col := vs.map fun r => nth {} r e
    let o := vDiv (sumVals (List.zipWith vMul ws col)) den
    let v := amaxOf (col.filter (·.kind = .fin))
    let u := Config.freeWord (d + e)
    if o.kind ≠ .fin then o
    else vAdd o { v with neg := u.msb, man := v.man * (u.toNat % 2 ^ 63), exp := v.exp - 163 }

/-- The same under Dense arithmetic (R83, R190): binary32 sums in position order. -/
def attendDense (d : Nat) (k : Kv) (wide : Bool) (q : List Val) (ks vs : List (List Val)) : List Val :=
  let scores := ks.map fun r =>
    b32Val (b32Mul (BitVec.ofNat 32 k.scale) (addProducts false wide {} (List.zipWith vMul q r)).b32)
  let m := maxScore scores
  let ws := (List.zip (List.range scores.length) scores).map fun p =>
    let x := vAdd p.2 (vNeg m)
    if x.kind = .nan then (0x7FC00000 : BitVec 32) else nearB32 (b32Of (vExp x)) (d + p.1)
  let den := ws.foldl b32Add 0
  upTo k.dim fun e =>
    let num := (List.zipWith (fun w r => b32Mul w (b32Of (nth {} r e))) ws vs).foldl b32Add 0
    vDiv (b32Val num) (b32Val den)

/-- ATTEND: the descriptor, then query by query, `prog` counting 1 more than those done (R189, R191). -/
def execAttend (i : ItemId) (s : State) : Ans :=
  opRun s i 0x41 fun it =>
    let x := opFld it 320 64
    let y := opFld it 448 64
    let pos := opFld it 416 32
    let k := kvOf it.buf
    let rb := attRow k.dim k.fmt
    let nt := (pos * rb + 16383) / 16384
    let res := fun (q st : Nat) => ({ status := st, count := q, opResult := (q + k.qpk - 1) / k.qpk * 2 * nt } : Result)
    if it.prog = 0 then
      let a := opFld it 256 64
      if a % 64 ≠ 0 then failItem s i {} stMalformed
      else
        let (s1, g) := itemRead s i a 64
        onGotI s1 i {} a g fun bs =>
          match kvStatus bs pos with
          | some st => failItem s1 i {} st
          | none =>
            let (s2, c) := itemClass s1 it y a
            onGotI s2 i {} y c fun _ => .next (onItem s2 i fun z => { z with prog := 1, buf := bs })
    else if k.heads * k.qpk < it.prog then .next (endItem s i (res (it.prog - 1) (plainStatus it)))
    else
      let q := it.prog - 1
      let h := q / k.qpk
      let tiles := fun (base : Nat) => upTo nt fun t => base + h * k.cap * rb + 16384 * t
      let (s1, g) := needTiles s i (tiles k.kb ++ tiles k.vb)
      onGotI s1 i (res q 0) k.kb g fun ts =>
        if ts.any fun t => t.1 ≠ k.fmt then failItem s1 i (res q 0) stMalformed
        else
          let xf := opFld it 384 4
          let yf := opFld it 388 4
          let cvt := opFld it 392 4
          let qa := x + q * attRow k.dim xf
          let (s2, qg) := itemRead s1 i qa (k.dim * elemBytes xf)
          onGotI s2 i (res q 0) qa qg fun qb =>
            let qv := rowVals xf k.dim (byteGet qb)
            let f := if itCnt it 14 = 2 then attendDense else attendFine
            let o := f s2.draws k (k.fmt = 0 || xf = 0) qv (kvRows k pos (ts.take nt)) (kvRows k pos (ts.drop nt))
            let ya := y + q * attRow k.dim yf
            let used := pos + k.dim
            let bytes := (plainElems yf (cvtRnd cvt) (cvtSat cvt) (drawU (s2.draws + used)) o).flatMap (natLe (elemBytes yf))
            let (s3, sg) := itemStore (bump s2 (used + k.dim)) i ya bytes
            onGotI s3 i (res q 0) ya sg fun _ =>
              .next (onItem (meterOps s3 it.job k.fmt (4 * k.dim * pos)) i fun z =>
                let z := if (q + 1) % k.qpk = 0 then releaseTiles z else z
                { z with prog := z.prog + 1 })

/-! ## REDUCE -/

/-- Elements of REDUCE_LOCAL's unit of work. -/
def reduceUnit : Nat := 1024

/-- Two values reduced (R192). -/
def reduceVal (dense : Bool) (rop : Nat) (a b : Val) : Val :=
  match rop with
  | 0 => if dense then r32 (vAdd a b) else vAdd a b
  | 1 => vMinV a b
  | _ => vMaxV a b

/-- The elements of an array from `k` on, `n` of them. -/
def readElems (s : State) (i : ItemId) (base f k n : Nat) : State × Got (List Val) :=
  match itemRead s i (base + k * elemBytes f) (n * elemBytes f) with
  | (s1, .ok bs) => (s1, .ok (rowVals f n (byteGet bs)))
  | (s1, .wait) => (s1, .wait)
  | (s1, .bad st) => (s1, .bad st)

/-- REDUCE_LOCAL (R192): DST[i] ← DST[i] ROP SRC[i]; `prog` elements are done. -/
def execReduceLocal (i : ItemId) (s : State) : Ans :=
  opRun s i 0x42 fun it =>
    let src := opFld it 256 64
    let dst := opFld it 320 64
    let n := opFld it 384 32
    let fi := opFld it 416 4
    let fo := opFld it 420 4
    let cvt := opFld it 424 4
    let rop := opFld it 428 2
    let k := it.prog
    if opFld it 512 64 ≠ 0 then notEnabled s
    else if n ≤ k then .next (endItem s i { status := plainStatus it, count := n })
    else
      let m := min reduceUnit (n - k)
      let (s1, cg) := itemClass s it dst src
      onGotI s1 i { count := k } dst cg fun dense =>
        let (s2, ag) := readElems s1 i src fi k m
        onGotI s2 i { count := k } src ag fun as =>
          let (s3, bg) := readElems s2 i dst fo k m
          onGotI s3 i { count := k } dst bg fun bs =>
            let vs := List.zipWith (reduceVal dense rop) bs as
            let bytes := (plainElems fo (cvtRnd cvt) (cvtSat cvt) (drawU s3.draws) vs).flatMap (natLe (elemBytes fo))
            let (s4, sg) := itemStore (bump s3 m) i (dst + k * elemBytes fo) bytes
            onGotI s4 i { count := k } dst sg fun _ => .next (onItem s4 i fun x => { x with prog := k + m })

/-- REDUCE_GROUP (R193): SRC as one contribution, chunk by chunk; `prog` elements are given. -/
def execReduceGroup (i : ItemId) (s : State) : Ans :=
  opRun s i 0x42 fun it =>
    let src := opFld it 256 64
    let group := opFld it 512 64
    let n := opFld it 384 32
    let fi := opFld it 416 4
    let fo := opFld it 420 4
    let rop := opFld it 428 2
    let k := it.prog
    if group = 0 then notEnabled s
    else if n ≤ k then .next (endItem s i { status := plainStatus it, count := n })
    else
      let (s1, cg) := itemClass s it src src
      onGotI s1 i { count := k } src cg fun dense =>
        let fine := !dense && rop = 0
        if fine && 2 < fo then failItem s1 i {} stMalformed
        else
          let m := min (if fine then 320 else 1024) (n - k)
          let (s2, ag) := readElems s1 i src fi k m
          onGotI s2 i { count := k } src ag fun vs =>
            let last : Bool := n ≤ k + m
            let p : Part := { chunk := k / (if fine then 320 else 1024), last := last,
                              opa := contribOpa 0 rop fine fo (opFld it 424 4) false last 0,
                              lanes := vs.map fun v => if fine then extPartial v else (b32Of v).toNat }
            let (s3, g) := contribute s2 it 0 group p
            onGotI s3 i { count := k } group g fun _ => .next (onItem s3 i fun x => { x with prog := k + m })

end Sys2Proof.Machine
end

