-- ==== Sys2Proof/Machine/Map.lean ====
section
/-! DEFINITION. The placement map as bytes (R338 to R340), and the routes that a member forms from it (R335, R336). -/

namespace Sys2Proof.Machine

/-! ## Bytes of the map -/

/-- Bytes of a map (R338). -/
def mapSize : Nat := 25664

/-- The header; `crc` is MAP_CRC. -/
def mapHead (m : PMap) (crc : Nat) : List Byte :=
  let a := 2 + 0xC * 2 ^ 4 + m.cell * 2 ^ 8 + m.leader * 2 ^ 20 + b2n m.spareUp * 2 ^ 26 + b2n m.serving * 2 ^ 27 +
    m.servePos * 2 ^ 28 + m.nmem * 2 ^ 40 + m.groups.length * 2 ^ 48
  natLe 8 a ++ natLe 4 m.epoch ++ natLe 4 m.moves.length ++ natLe 8 m.spareSerial ++ natLe 4 crc ++ List.replicate 36 0

/-- A member entry. -/
def memberBytes (x : Member) : List Byte :=
  natLe 8 x.serial ++ natLe 8 (x.mstate + x.mrev * 2 ^ 3 + x.buddy * 2 ^ 8)

/-- A group entry (R340). -/
def groupBytes (g : Group) : List Byte :=
  natLe 4 (g.kind + g.k * 4 + g.hearth * 32 + g.first * 256 + g.nslots * 2 ^ 17) ++
    natLe 6 ((g.pos.zipIdx.map fun p => p.1 * 2 ^ (6 * p.2)).sum) ++ List.replicate 22 0

/-- A move entry. -/
def moveEntryBytes (v : Move) : List Byte :=
  natLe 8 (v.fromPos + v.fromH * 2 ^ 6 + v.fromSlot * 2 ^ 9 + v.toPos * 2 ^ 18 + v.toH * 2 ^ 24 + v.toSlot * 2 ^ 27 + v.stage * 2 ^ 36) ++
    natLe 8 v.atEpoch

/-- A list padded with zeros to a length. -/
def padTo (n : Nat) (bs : List Byte) : List Byte := bs ++ List.replicate (n - bs.length) 0

/-- The parts of the map after the header. -/
def mapTail (m : PMap) : List Byte :=
  ((List.range 64).flatMap fun p => memberBytes (tget {} m.members p)) ++ padTo 8192 (m.groups.flatMap groupBytes) ++
    padTo 16384 (m.moves.flatMap moveEntryBytes)

/-- The whole map. -/
def mapBytes (m : PMap) : List Byte :=
  let tail := mapTail m
  mapHead m (crc32c (mapHead m 0 ++ tail)) ++ tail

/-! ## A map from its bytes -/

/-- A member entry from its bytes. -/
def memberFrom (bs : List Byte) : Member :=
  let n := leAt bs 8 8
  { serial := leAt bs 0 8, mstate := fld n 0 3, mrev := fld n 3 4, buddy := fld n 8 6 }

/-- A group entry from its bytes. -/
def groupFrom (bs : List Byte) : Group :=
  let n := leAt bs 0 4
  let k := fld n 2 3
  { kind := fld n 0 2, k := k, hearth := fld n 5 3, first := fld n 8 9, nslots := fld n 17 10
    pos := upTo (k + 1) fun i => fld (leAt bs 4 6) (6 * i) 6 }

/-- A move entry from its bytes. -/
def moveFrom (bs : List Byte) : Move :=
  let n := leAt bs 0 8
  { fromPos := fld n 0 6, fromH := fld n 6 3, fromSlot := fld n 9 9, toPos := fld n 18 6, toH := fld n 24 3, toSlot := fld n 27 9
    stage := fld n 36 2, atEpoch := leAt bs 8 4 }

/-- The map in its bytes, whatever its header says of revision and CRC. -/
def mapFields (bs : List Byte) : PMap :=
  let n := leAt bs 0 8
  { cell := fld n 8 12, leader := fld n 20 6, spareUp := tbit n 26, serving := tbit n 27, servePos := fld n 28 6, nmem := fld n 40 7
    epoch := leAt bs 8 4, spareSerial := leAt bs 16 8
    members := forAll (List.range 64) (fun t p => tput {} t p (memberFrom (byteSlice bs (64 + 16 * p) 16))) []
    groups := upTo (fld n 48 9) fun g => groupFrom (byteSlice bs (1088 + 32 * g) 32)
    moves := upTo (leAt bs 12 4 % 2 ^ 11) fun m => moveFrom (byteSlice bs (9280 + 16 * m) 16) }

/-- A committed or proposed map from a message (R338, R341): none where it is no whole map of revision 2. -/
def mapFrom (bs : List Byte) : Option PMap :=
  if bs.length = mapSize && leAt bs 0 1 = 0xC2 && leAt bs 24 4 = crc32c (overlay bs 24 (natLe 4 0)) then some (mapFields bs) else none

/-! ## Positions -/

/-- The entry of a position. -/
def memberAt (m : PMap) (p : Nat) : Member := tget {} m.members p

/-- A position that is live in the map. -/
def isLive (m : PMap) (p : Nat) : Bool := (memberAt m p).mstate = 1

/-- Positions that are live or suspect. -/
def voters (m : PMap) : List Nat := (List.range 64).filter fun p => (memberAt m p).mstate = 1 || (memberAt m p).mstate = 2

/-- Row and column neighbours of a position, in a cell of `n` positions (R335). -/
def neighbours (n p : Nat) : List Nat :=
  (List.range n).filter fun q => q ≠ p && (q / 8 = p / 8 || q % 8 = p % 8)

/-- The link of a member at `p` to the neighbour `q` (R335). -/
def cellLink (p q : Nat) : Nat := if p / 8 = q / 8 then q % 8 else 8 + q / 8

/-- The leader (R342): the lowest live position; one that is suspected is passed over (R343). -/
def leaderOf (m : PMap) (suspect : Option Nat) : Option Nat := (List.range 64).find? fun p => isLive m p && suspect ≠ some p

/-! ## Routes (R336) -/

/-- A route entry over the given links, in field order; the other fields hold no valid path (R230). -/
def pathEntry (ls : List Nat) : BitVec 32 :=
  BitVec.ofNat 32 (((List.range 4).map fun i => (match ls[i]? with | some l => l + 0x80 | none => 0x7F) * 2 ^ (8 * i)).sum)

/-- A path through a position: none where the map marks it failed or absent. -/
def through (m : PMap) (q link : Nat) : Option Nat :=
  let st := (memberAt m q).mstate
  if st = 0 || st = 3 then none else some link

/-- A member's paths to position `q`. -/
def memberPaths (m : PMap) (p q : Nat) : List Nat :=
  let r := p / 8
  let c := p % 8
  if m.serving && q = m.servePos then
    let x := 8 * r + c.xor 1
    let y := if x = q then 8 * r + c.xor 2 else x
    16 :: (through m y (y % 8)).toList
  else if q / 8 = r then [q % 8]
  else if q % 8 = c then [8 + q / 8]
  else (through m (8 * r + q % 8) (q % 8)).toList ++ (through m (8 * (q / 8) + c) (8 + q / 8)).toList

/-- The position table of a member at `p`, or of a spare (R336). -/
def positionTable (m : PMap) (spare : Bool) (p : Nat) : Tab (BitVec 32) :=
  forAll (List.range m.nmem) (fun t q =>
    if q = p then t else tput 0x7F7F7F7F t q (pathEntry (if spare then [q] else memberPaths m p q))) []

end Sys2Proof.Machine
end

