-- ==== Sys2Proof/Machine/Coh.lean ====
section
/-! DEFINITION. Coherence messages other than requests (R292 to R306): evictions and write-backs, FETCH, snoop answers at the
home, and snoops at the member that delivers them. -/

namespace Sys2Proof.Machine

/-- SNOOP_ID of a COH frame (R292). -/
def snoopIdOf (f : Frame) : BitVec 16 := BitVec.ofNat 16 (fld f.opa.toNat 32 16)

/-- LINK of a snoop (R292). -/
def snoopLink (f : Frame) : Nat := fld f.opa.toNat 48 7

/-- The COH messages that the table of R293 lists. -/
def listedMsg (m : Nat) : Bool :=
  (1 ≤ m && m ≤ 8) || (0x10 ≤ m && m ≤ 0x14) || (0x20 ≤ m && m ≤ 0x24) || m = 0x30

/-- A request of R293: it names its line by JVA. -/
def cohRequest (f : Frame) : Bool := f.typ = tCoh && 1 ≤ cohMsg f && cohMsg f ≤ 4

/-- Messages that carry a line. -/
def cohData (m : Nat) : Bool := m = 7 || m = 0x12 || m = 0x13 || m = 0x14

/-! ## Answers at the home -/

/-- FWD_DATA to an agent with the line as the home holds it (R300). -/
def homeForwards (s : State) (l a : Nat) : State :=
  let dev := posDev s (agentPos a)
  let f : Frame := { typ := tCoh, leg := true, tc := 7, dstDev := dev, srcDev := selfDev s, cell := dev / 64,
                     epoch := epochOf s (dev / 64), mpa := BitVec.ofNat 64 (ownMpa s (l * 64)), opa := 0x30,
                     opb := BitVec.ofNat 64 a, payload := lineBytes s l, len := 64 }
  if dev = selfDev s then deliverOn s f (a % 128) else sendRouted s f

/-- The line after its owner keeps it shared (R295). -/
def keepShared (s : State) (l a : Nat) : State :=
  match homeOf s l with
  | some (.x o) => if o.agent = a then setHome s l (some (.s [o])) else s
  | _ => s

/-- The snoop of a transaction that a frame answers: by its identifier, from the agent, or from its member, which answers on an
agent's behalf and for all of its links (R297, R298, log 54). -/
def answeredSnoop (s : State) (f : Frame) (l : Nat) : Option Snoop :=
  match txOf s l with
  | none => none
  | some t => t.snoops.find? fun x => x.id = snoopIdOf f &&
      (if f.srcLink = 0x7F then f.srcDev = posDev s (if x.coarse then x.agent else agentPos x.agent)
       else !x.coarse && agentOf s f = some x.agent)

/-- An ACK_I with PEND names a grant still in flight (R299): the number was granted, the home records the agent under it, and it
is not the active transaction's own. -/
def grantInFlight (s : State) (l a : Nat) (q : BitVec 32) : Bool :=
  (holdersOf (homeOf s l)).any (fun h => h.agent = a && h.seq = q) &&
    !((txOf s l).bind (·.cur)).any fun r => agentOf s r.f = some a && r.f.seq = q

/-- One snoop of a line is answered with message `m` (R295, R297, R300). -/
def snoopDone (s : State) (l : Nat) (x : Snoop) (m : Nat) (bs : List Byte) : State :=
  let s1 := onTx s l fun t => { t with snoops := dropFirst (fun y => y.id = x.id && y.agent = x.agent) t.snoops }
  let s2 := if cohData m then applyWrite s1 l (byteSlice bs 0 64) true else s1
  let s3 := if x.coarse || m = 0x14 then s2
    else if (m = 0x11 || m = 0x13) && x.msg = 0x21 then keepShared s2 l x.agent
    else removeHolder s2 l x.agent
  if m = 0x10 && (x.msg = 0x22 || x.msg = 0x23) then homeForwards s3 l (x.arg.toNat % 2 ^ 13) else s3

/-- A snoop answer reaches the home (R294, R297, R299). One that matches no open snoop repeats an earlier answer. -/
def snoopAnswer (s : State) (r : Req) (l : Nat) : State :=
  let f := r.f
  let m := cohMsg f
  let pos := f.srcDev % 64
  match answeredSnoop s f l with
  | none =>
    let s1 := if f.srcLink = 0x7F then onHome s fun h => { h with devWait := h.devWait.filter (·.1 ≠ pos) } else s
    refuse s1 r stOk
  | some x =>
    let q := BitVec.ofNat 32 (f.opb.toNat % 2 ^ 32)
    if m = 0x10 && f.opb.getLsbD 32 && grantInFlight s l x.agent q then
      refuse (onTx s l fun t => { t with
        snoops := updFirst (fun y => y.id = x.id && y.agent = x.agent) (fun y => { y with pend := true, sentPt := s.clk.pilot })
          t.snoops }) r stOk
    else progressTx (refuse (snoopDone s l x m f.payload) r stOk) l

/-- The home is snooping the agent for the line. -/
def snoopedNow (s : State) (l a : Nat) : Bool :=
  match txOf s l with
  | some t => t.snoops.any fun x => !x.coarse && x.agent = a
  | none => false

/-- A message of an agent that names its line by MPA, at its home (R281, R293, R295, R301, R302, R305). -/
def cohMessage (s : State) (r : Req) : State :=
  let f := r.f
  let m := cohMsg f
  let l := lineOf (mpaLpa f.mpa.toNat)
  if !listedMsg m || 0x20 ≤ m || (cohData m && f.payload.length ≠ 64) || f.mpa.toNat % 64 ≠ 0 then refuse s r stMalformed
  else if mpaDev f.mpa.toNat ≠ selfDev s then refuse s r stUnmapped
  else if m = 0x10 && f.leg && f.srcLink = 0x7F && f.srcDev / 64 = s.boot.cell then snoopAnswer s r l
  else match agentOf s f with
    | none => refuse s r stDenied
    | some a =>
      if isCutOff s a then refuse s r stDenied
      else if 0x10 ≤ m then snoopAnswer s r l
      else if (m = 6 || m = 7) && snoopedNow s l a then
        refuse (if m = 7 then applyWrite s l (byteSlice f.payload 0 64) true else s) r stOk
      else if m = 8 then
        match txOf s l with
        | some t =>
          if t.stage = .forwarding then onTx s l fun t => { t with waiters := r :: t.waiters }
          else let (s1, x) := applyReq s r [] l false; answer s1 r (x.getD {})
        | none => let (s1, x) := applyReq s r [] l false; answer s1 r (x.getD {})
      else serveHome s r

/-- A COH request at its home (R281, R305, R306): of an agent that is not cut off, once every member has dropped the lines of a
device that a spare took over. -/
def cohServe (s : State) (r : Req) : State :=
  match agentOf s r.f with
  | none => refuse s r stDenied
  | some a => if isCutOff s a then refuse s r stDenied
    else if !s.home.devWait.isEmpty then refuse s r stBusy
    else serveHome s r

/-- A replayed COH request outside its line's order (R299, R301, R305): the stored status; a data grant also carries the line
while the requester is recorded as holder with the state granted. -/
def cohReplay (s : State) (r : Req) (e : Seen) : State :=
  let f := r.f
  let a := storedAnswer e
  let l := lineOf (mpaLpa f.mpa.toNat)
  let g := fld e.info.toNat 0 2
  if e.status ≠ stOk || g = 0 || mpaDev f.mpa.toNat ≠ selfDev s then
    sendResponse s r (if e.status = stOk && g ≠ 0 then { a with info := 0 } else a)
  else
    let me := agentOf s f
    let held := match me, homeOf s l with
      | some x, some (.s hs) => g = 1 && hs.any (·.agent = x)
      | some x, some (.x o) => g = 2 && o.agent = x
      | some x, some (.sc v) => g = 1 && v.getLsbD (agentPos x)
      | _, _ => false
    if held && !(me.any (isCutOff s)) then
      sendResponse s r (if tbit e.info.toNat 3 then a else { a with payload := lineBytes s l })
    else sendResponse s r { a with info := 0 }

/-! ## Snoops at a member -/

/-- The member answers a snoop with ACK_I: on an agent's behalf, or once for every link under LINK 0x7F (R297, R298). -/
def memberAck (s : State) (f : Frame) : State :=
  let g : Frame := { typ := tCoh, leg := true, tc := 7, dstDev := f.srcDev, srcDev := selfDev s, cell := f.srcDev / 64,
                     epoch := epochOf s (f.srcDev / 64), srcLink := 0x7F, mpa := f.mpa,
                     opa := BitVec.ofNat 64 (0x10 + (snoopIdOf f).toNat * 2 ^ 32) }
  sendFabric s g .snoop

/-- Deliveries of one snoop under LINK 0x7F. -/
def sameSnoop (f g : Frame) : Bool := f.srcDev = g.srcDev && snoopIdOf f = snoopIdOf g && f.mpa = g.mpa && cohMsg f = cohMsg g

/-- A snoop or FWD_DATA of another module reaches the member of its agent (R294, R297, R298, R300). -/
def deliverSnoop (s : State) (f : Frame) : State :=
  let m := cohMsg f
  if m = 0x30 then deliverOn s f (f.opb.toNat % 128)
  else if snoopLink f = 0x7F then
    let links := (List.range 96).filter fun k => !answeredFor s k
    if s.home.deliveries.any (fun d => sameSnoop d.f f) then s
    else if links.isEmpty then memberAck s f
    else forAll links (fun s k => deliverOn s f k)
      (onHome s fun h => { h with
        deliveries := h.deliveries ++ links.map fun k => { f := f, link := k, sentPt := s.clk.pilot, many := true } })
  else if answeredFor s (snoopLink f) then memberAck s f
  else deliverOn s f (snoopLink f)

/-- A delivery under LINK 0x7F has been answered or has timed out: with the last one, the member answers the home (R297). -/
def endDelivery (s : State) (d : Delivery) : State :=
  let s1 := onHome s fun h => { h with deliveries := dropFirst (· == d) h.deliveries }
  if s1.home.deliveries.any (fun x => sameSnoop x.f d.f) then s1 else memberAck s1 d.f

/-- The delivery that an agent's answer ends, where it answers a snoop under LINK 0x7F (R297). -/
def deliveryOf (s : State) (f : Frame) (link : Nat) : Option Delivery :=
  s.home.deliveries.find? fun d => d.link = link && snoopIdOf d.f = snoopIdOf f && d.f.mpa = f.mpa

/-- A snoop frame of the table arrives on the fabric leg for this member: no request, and never answered (R294). -/
def snoopArrives (s : State) (a : Arrival) (f : Frame) (m : Nat) : Ans :=
  if f.typ ≠ tCoh || cohMsg f ≠ m || !f.leg || f.dstDev ≠ selfDev s then notEnabled s
  else if !(linkOf s a.link).up || isService a.link || linkRole s a.link = 3 then notEnabled s
  else if (linkOf s a.link).hello.isNone then .next (countDiscard (countLink s a.link 1) 5)
  else if s.cfg.hopsMax ≤ f.hops then .next (countLink (countLink s a.link 1) a.link 8)
  else .next (deliverSnoop (countLink s a.link 1) { f with hops := f.hops + 1 })

/-- SNP_INV (R297). -/
def execSnpInv (a : Arrival) (f : Frame) (s : State) : Ans := snoopArrives s a f 0x20

/-- SNP_DOWN (R297). -/
def execSnpDown (a : Arrival) (f : Frame) (s : State) : Ans := snoopArrives s a f 0x21

/-- SNP_FWD_S (R300). -/
def execSnpFwdS (a : Arrival) (f : Frame) (s : State) : Ans := snoopArrives s a f 0x22

/-- SNP_FWD_X (R300). -/
def execSnpFwdX (a : Arrival) (f : Frame) (s : State) : Ans := snoopArrives s a f 0x23

/-- SNP_DEV (R306). -/
def execSnpDev (a : Arrival) (f : Frame) (s : State) : Ans := snoopArrives s a f 0x24

/-- FWD_DATA (R300): from another module to this member's agent, or from an agent of this module toward the requester's
member. -/
def execFwdData (a : Arrival) (f : Frame) (s : State) : Ans :=
  if f.leg then snoopArrives s a f 0x30
  else if f.typ ≠ tCoh || cohMsg f ≠ 0x30 || !(linkOf s a.link).up || !hasAgent s a.link then notEnabled s
  else
    let who := f.opb.toNat % 2 ^ 13
    let dev := posDev s (agentPos who)
    let g := { f with leg := true, tc := 7, dstDev := dev, srcDev := selfDev s, srcLink := a.link, cell := dev / 64,
                      epoch := epochOf s (dev / 64), srcCtx := 0, job := 0, hops := 0 }
    let s1 := countLink s a.link 1
    if dev = selfDev s then .next (deliverOn s1 g (who % 128)) else .next (sendRouted s1 g)

/-! ## Timers -/

/-- PEND_RESEND (R299): the snoop goes out again 1 µs after the answer that named a granted request. -/
def execPendResend (h line : Nat) (s : State) : Ans :=
  match txOf s line with
  | none => notEnabled s
  | some t =>
    match t.snoops.find? fun x => x.pend && usPassed x.sentPt s.clk.pilot 1 with
    | none => notEnabled s
    | some x =>
      if lineHearth line ≠ h then notEnabled s
      else
        let y := { x with pend := false, sentPt := s.clk.pilot }
        .next (transmitSnoop (countCoh (onTx s line fun t => { t with snoops := updFirst (· == x) (fun _ => y) t.snoops }) h 9) line y)

/-- The Ashpit record of a snoop that timed out (R305, R479). -/
def recordSnoop (s : State) (src agent : Nat) (mpa : W64) : State :=
  ashLimited s 3 src 0x0306 [(0, natLe 2 agent), (8, natLe 8 mpa.toNat)]

/-- A snoop has had no answer (R305): sent again, or timed out, the agent removed and cut off, or the member's position
cleared. A link of this module that has gone down meanwhile is answered for (R298). -/
def snoopLate (s : State) (h line : Nat) (x : Snoop) : State :=
  if selfAcked s x.agent x.coarse then progressTx (snoopDone s line x 0x10 []) line
  else if x.tries < s.cfg.retries then
    let y := { x with tries := x.tries + 1, sentPt := s.clk.pilot }
    transmitSnoop (countCoh (onTx s line fun t => { t with snoops := updFirst (· == x) (fun _ => y) t.snoops }) h 2) line y
  else
    let s1 := recordSnoop (countCoh s h 3) h (if x.coarse then x.agent * 128 + 0x7F else x.agent) (BitVec.ofNat 64 (ownMpa s (line * 64)))
    let s2 := if x.coarse then
        (match homeOf s1 line with
          | some (.sc v) => setHome s1 line (some (.sc (v &&& ~~~ (1#64 <<< x.agent))))
          | _ => s1)
      else removeHolder (onHome s1 fun y => { y with
        cutoff := tput none y.cutoff x.agent (some (s.clk.pilot + 1048576)) }) line x.agent
    progressTx (onTx s2 line fun t => { t with snoops := dropFirst (· == x) t.snoops }) line

/-- A delivery to one agent has had no answer (R297, R305). -/
def deliveryLate (s : State) (d : Delivery) : State :=
  if answeredFor s d.link then endDelivery s d
  else if d.tries < s.cfg.retries then
    deliverOn (onHome s fun h => { h with
      deliveries := updFirst (· == d) (fun x => { x with tries := x.tries + 1, sentPt := s.clk.pilot }) h.deliveries }) d.f d.link
  else
    let s1 := recordSnoop s (0x10 + flueOf d.link) (s.boot.pos * 128 + d.link) d.f.mpa
    endDelivery (onHome s1 fun h => { h with memberCut := tput none h.memberCut d.link (some (s.clk.pilot + 1048576)) }) d

/-- SNP_DEV of a spare that takes over, to one member (R306). -/
def devSnoop (s : State) (p : Nat) : State :=
  let dev := posDev s p
  sendRouted s { typ := tCoh, leg := true, tc := 7, dstDev := dev, srcDev := selfDev s, cell := dev / 64,
                 epoch := epochOf s (dev / 64), opa := BitVec.ofNat 64 (0x24 + 0x7F * 2 ^ 48),
                 opb := BitVec.ofNat 64 (selfDev s) }

/-- The retransmit timer of R216, by which snoops and their deliveries are timed too (R297, R305). -/
def retxDue (s : State) (sent : Nat) : Bool := usPassed sent s.clk.pilot s.cfg.retxUs

/-- CUTOFF_EXPIRE (R305): 1,048,576 pt after its snoop timed out, the agent is served again. -/
def execCutoffExpire (agent : Nat) (s : State) : Ans :=
  let due : Option Nat → Bool := fun x => match x with | some t => decide (t ≤ s.clk.pilot) | none => false
  let home := due (tget none s.home.cutoff agent)
  let member := decide (agentPos agent = s.boot.pos) && due (tget none s.home.memberCut (agent % 128))
  let ends := fun (b : Bool) (t : Tab (Option Nat)) (k : Nat) => if b = true then tput none t k none else t
  if home || member then
    .next (onHome s fun h => { h with
      cutoff := ends home h.cutoff agent, memberCut := ends member h.memberCut (agent % 128) })
  else notEnabled s

end Sys2Proof.Machine
end

