-- ==== Sys2Proof/Machine/CellBase.lean ====
section
/-! DEFINITION. What the answers to a member's own CELL requests bring about (R44, R345, R346, R350, R351). -/

namespace Sys2Proof.Machine

/-- The line's transaction ends and what it held is served. -/
def releaseLine (s : State) (l : Nat) (t : Tx) : State := drainLine (dropTx s l) l (t.cur.toList ++ t.waiters)

/-- The other units of a stripe that a line needs have come: the line is rewritten, and served (R44, R351). A line that is rebuilt
takes its tile's tag from what came (log 15). -/
def lineReformed (s : State) (l : Nat) (t : Tx) (bs : List Byte) : State :=
  let s1 := if notRebuilt s l then setTag s (l / 256) (tagFrom (leAt bs 64 1)) else s
  releaseLine (markFresh (storeLine s1 l (bs.take 64)) l) l t

/-- The request writes the whole line that it serves next. -/
def writesWhole (f : Frame) : Bool := f.typ = tWritePush || f.typ = tTileWrite || (f.typ = tWrite && f.opa = BitVec.allOnes 64)

/-- A line cannot be re-formed (R44, R352): it stays or becomes poisoned. The request that needed it is answered POISON, but a
whole write needs only what the parity was and goes on (R43, R351). -/
def lineLost (s : State) (l : Nat) (t : Tx) : State :=
  let s1 := markFresh (if isPoisoned s l then s else poisonLine s l) l
  let s2 := dropTx s1 l
  match t.cur with
  | some r =>
    if writesWhole r.f then drainLine (onMem s2 fun m => { m with lost := insertNat l m.lost }) l (r :: t.waiters)
    else drainLine (refuse s2 r stPoison) l t.waiters
  | none => drainLine (onMem s2 fun m => { m with lost := insertNat l m.lost }) l t.waiters

/-- A unit of the stripe has come from a position, or has failed to come. -/
def repairCame (s : State) (l pos : Nat) (a : Answer) : State :=
  match txOf s l with
  | none => s
  | some t =>
    match t.stage with
    | .repairing left acc =>
      if !left.contains pos then s
      else if a.status ≠ stOk || a.payload.length ≠ 64 then lineLost s l t
      else
        let acc1 := xorBytes acc (a.payload ++ [BitVec.ofNat 8 a.result.toNat])
        let left1 := left.filter (· ≠ pos)
        if left1.isEmpty then lineReformed s l t acc1
        else onTx s l fun t => { t with stage := .repairing left1 acc1 }
    | _ => s

/-- The copy member's acknowledgement of a change, or its loss, which leaves the stripe unit unprotected (R345, R346). -/
def copyAcked (s : State) (l : Nat) (a : Answer) : State :=
  let s1 := if a.status = stOk then s
    else onCell (markUnprot s l) fun c => { c with
      ctr := tmod 0 c.ctr 3 (satInc 64) }
  progressTx (onTx s1 l fun t => { t with copies := t.copies - 1 }) l

/-- Journal entry `n` has been acknowledged, or has not (R350): the answers for which no earlier entry is under way are given. -/
def journalAcked (s : State) (a : Answer) : State :=
  let under := fun (k : Nat) => s.net.outs.any fun o => match o.issuer with | .journal n => n ≤ k | _ => false
  let (held, free) := s.cell.journalWait.partition fun w => under w.2.2
  forAll free (fun s w => answerNow s w.1 w.2.1)
    (onCell s fun c => { c with journalWait := held, journalOk := c.journalOk && a.status = stOk })

end Sys2Proof.Machine
end

