-- ==== Sys2Proof/Machine/General.lean ====
section
/-! DEFINITION. The general operators NOP, COPY, FILL, PREFETCH, PUBLISH and KERNEL, and ADVISE but for remap (R54, R61, R137,
R277, R325). Their units of work are tiles, `prog` of them done. -/

namespace Sys2Proof.Machine

/-- A tile stored by an item (R119): a place that does not admit the store fails the unit. -/
def itemStoreTile (s : State) (i : ItemId) (jva tag : Nat) (bs : List Byte) : State × Got Unit :=
  match tryPages s i 1 (quarters jva) with
  | (s1, .wait) => (s1, .wait)
  | (s1, .bad st) => (s1, .bad st)
  | (s1, .ok ps) =>
    match itemOf s1 i with
    | none => (s1, .wait)
    | some it =>
      let m := (ps.headD (0, {})).1
      if isNative (ps.map Prod.fst) && mpaDev m = selfDev s1 then
        match admission s1 (mpaLpa m) it.job (selfDev s1) it.ctx false with
        | some st => (s1, if st = stBusy then .wait else .bad st)
        | none => storeTile s1 i 0 (.itemStore i) jva tag bs
      else storeTile s1 i 0 (.itemStore i) jva tag bs

/-- NOP (R137). -/
def execNop (i : ItemId) (s : State) : Ans := opRun s i 0x0001 fun _ => .next (endItem s i { status := stOk })

/-- COPY (R137): a tile with its tag, or converted. -/
def execCopy (i : ItemId) (s : State) : Ans :=
  opRun s i 0x0010 fun it =>
    let src := opFld it 256 64
    let dst := opFld it 320 64
    let n := opFld it 384 32
    let k := it.prog
    if n ≤ k then .next (endItem s i { status := plainStatus it, count := n })
    else
      let a := src + 16384 * k
      let (s1, g) := needTile s i a
      onGotI s1 i { count := k } a g fun (tag, bs) =>
        let conv := opFld it 424 1 = 1
        if conv && !fmtOk tag then failItem s1 i { count := k } stUnsupported
        else
          let (s2, out) := if conv then convertTile s1 tag (opFld it 416 4) (opFld it 420 4) bs else (s1, bs)
          let (s3, sg) := itemStoreTile s2 i (dst + 16384 * k) (if conv then opFld it 416 4 else tag) out
          onGotI s3 i { count := k } (dst + 16384 * k) sg fun _ =>
            .next (onItem s3 i fun x => { releaseTiles x with prog := k + 1 })

/-- FILL (R137). -/
def execFill (i : ItemId) (s : State) : Ans :=
  opRun s i 0x0011 fun it =>
    let n := opFld it 320 32
    let k := it.prog
    if n ≤ k then .next (endItem s i { status := stOk, count := n })
    else
      let f := opFld it 352 4
      let cvt := opFld it 356 4
      let bs := if opFld it 360 1 = 1 then (List.replicate 2048 (natLe 8 (opFld it 384 64))).flatten
        else encodeTile f (cvtRnd cvt) (cvtSat cvt) (drawU s.draws)
          (List.replicate (tileElems f) (b32Val (BitVec.ofNat 32 (opFld it 384 32))))
      let a := opFld it 256 64 + 16384 * k
      let (s1, g) := itemStoreTile (bump s (tileElems f)) i a f bs
      onGotI s1 i { count := k } a g fun _ => .next (onItem s1 i fun x => { x with prog := k + 1 })

/-- KERNEL (R129): the crew starts on the device's copy of its code, with the registers of R110; `prog` keeps the Pilot count. -/
def execKernel (i : ItemId) (s : State) : Ans :=
  opRun s i 0x0070 fun it =>
    if it.code.isNone || it.validated then notEnabled s
    else
      let slot := match (ctxOf s it.ctx).win with | some w => w.base + 256 * (it.slot + 1) | none => 0
      let start := fun (k : Nat) =>
        let r : Thread := setS (setS (setS { pc := it.base } 0 (BitVec.ofNat 64 k)) 1 (BitVec.ofNat 64 it.crew)) 2 (BitVec.ofNat 64 slot)
        setS r 3 (BitVec.ofNat 64 it.job)
      .next (onItem s i fun x => { x with
        validated := true, prog := s.clk.pilot
        threads := (List.range it.crew).foldl (fun t k => tput {} t k (start k)) ([] : Tab Thread) })

/-! ## PREFETCH -/

/-- Leaves of the pages of a tile by translations that raise no fault: none where one must wait, an empty list where one would
fault (R267, R277). -/
def quietPages (s : State) (job ctx : Nat) : List Nat → State × Option (List (Nat × Leaf))
  | [] => (s, some [])
  | j :: js =>
    match xlateTry s job ctx j 0 with
    | (s1, none) => (s1, none)
    | (s1, some (.ok m l)) =>
      if !l.a && !(jobEntry s1 job).any (fun e => jobAdUpd e.2) then (s1, some [])
      else (match quietPages s1 job ctx js with
        | (s2, some ls) => (s2, some (if ls.length = js.length then (m, l) :: ls else []))
        | x => x)
    | (s1, some _) => (s1, some [])

/-- A tile done by PREFETCH or ADVISE: affected, or skipped. -/
def tileDone (s : State) (i : ItemId) (hit : Bool) : State :=
  onItem s i fun x => { addCnt x (if hit then 0 else 1) 1 with prog := x.prog + 1 }

/-- The tile of this module that a list of leaves names: native, in an extent here, not under PBMT NC (R266, R276, R277). -/
def tileHere (s : State) (ps : List (Nat × Leaf)) : Option Nat :=
  let m := (ps.headD (0, {})).1
  if ps.length = 4 && isNative (ps.map Prod.fst) && !(ps.any fun p => p.2.pbmt = 1) && mpaDev m = selfDev s && extPresent s (mpaLpa m)
  then some (tileOf (mpaLpa m)) else none

/-- PREFETCH of one tile into the translation cache, or into tier 0 as well (R277). -/
def prefetchTile (s : State) (i : ItemId) (target : Nat) : Ans :=
  opRun s i 0x0050 fun it =>
    if opFld it 352 2 ≠ target then notEnabled s
    else if opFld it 320 32 ≤ it.prog then .next (endItem s i { status := stOk, count := itCnt it 0, detail := itCnt it 1 })
    else match quietPages s it.job it.ctx (quarters (opFld it 256 64 + 16384 * it.prog)) with
      | (s1, none) => .next s1
      | (s1, some ps) =>
        if target = 0 then .next (tileDone s1 i (!ps.isEmpty))
        else match tileHere s1 ps with
          | none => .next (tileDone s1 i false)
          | some t =>
            let s2 := promote s1 t it.job
            .next (tileDone s2 i (t0Tile s2 t).isSome)

/-- PREFETCH, TARGET 0b00 (R277). -/
def execPrefetchTranslate (i : ItemId) (s : State) : Ans := prefetchTile s i 0

/-- PREFETCH, TARGET 0b01 (R277). A tile for which no place is found counts as skipped. -/
def execPrefetchTier0 (i : ItemId) (s : State) : Ans := prefetchTile s i 1

/-! ## ADVISE -/

/-- A command of ADVISE with the given advice. -/
def adviseRun (s : State) (i : ItemId) (advice : Nat) (body : Item → Ans) : Ans :=
  opRun s i 0x0051 fun it => if opFld it 352 8 = advice then body it else notEnabled s

/-- The place of a tile to be pinned: it is brought into tier 0 where it is not there, and takes one of the 1,024 (R54). -/
def pinTile (s : State) (t job : Nat) : State :=
  let h := tileHearth t
  let s1 := if (t0Tile s t).isSome then
      onT0Tile s t fun x => { x with pinned := true, status := if x.status = .evicting then .whole else x.status }
    else onT0Slice s h fun x => { x with
      tiles := x.tiles ++ [{ tile := t, status := .filling s.clk.pilot, age := 3, pinned := true, job := job }] }
  let x := t0Slice s1 h
  if poolSize x < poolUsed x then (evictOne s1 h none).1 else s1

/-- ADVISE pin (R54, R57, R277): counter 2 notes a pin beyond the 1,024. -/
def execAdvisePin (i : ItemId) (s : State) : Ans :=
  adviseRun s i 1 fun it =>
    let a := opFld it 256 64 + 16384 * it.prog
    let short := itCnt it 2 ≠ 0
    if opFld it 320 32 ≤ it.prog then
      .next (endItem s i { status := if short then stShort else stOk, count := itCnt it 0,
                           detail := if short then itCnt it 0 else itCnt it 1 })
    else
      let (s1, g) := tryPages s i 0 (quarters a)
      onGotI s1 i { count := itCnt it 0 } a g fun ps =>
        match tileHere s1 ps with
        | none => .next (tileDone s1 i false)
        | some t =>
          if (admission s1 (t * 16384) it.job (selfDev s1) it.ctx true).isSome then .next (tileDone s1 i false)
          else if !quadrantOn s1 (tileHearth t) then failItem s1 i { count := itCnt it 0 } stDisabled
          else if (t0Tile s1 t).any (·.pinned) then .next (tileDone s1 i true)
          else if 1024 ≤ pinnedCount (t0Slice s1 (tileHearth t)) then
            .next (onItem s1 i fun x => { setCnt x 2 1 with prog := x.prog + 1 })
          else .next (tileDone (pinTile s1 t it.job) i true)

/-- ADVISE unpin (R54, R277). -/
def execAdviseUnpin (i : ItemId) (s : State) : Ans :=
  adviseRun s i 2 fun it =>
    let a := opFld it 256 64 + 16384 * it.prog
    if opFld it 320 32 ≤ it.prog then .next (endItem s i { status := stOk, count := itCnt it 0, detail := itCnt it 1 })
    else
      let (s1, g) := tryPages s i 0 (quarters a)
      onGotI s1 i { count := itCnt it 0 } a g fun ps =>
        match tileHere s1 ps with
        | none => .next (tileDone s1 i false)
        | some t =>
          if (admission s1 (t * 16384) it.job (selfDev s1) it.ctx true).isSome then .next (tileDone s1 i false)
          else
            let was := (t0Tile s1 t).any (·.pinned)
            .next (tileDone (if was then onT0Tile s1 t fun x => { x with pinned := false } else s1) i was)

/-- Two ranges of JVAs of one job share a tile. -/
def rangesMeet (a n b m : Nat) : Bool := a < b + 16384 * m && b < a + 16384 * n

/-- A pairing's fields from the tiles gathered: numbers of tiles that hold primary tiles here, and those of shadow tiles, with bit
63 set. -/
def gatheredPair (it : Item) : Pairing :=
  { job := it.job, addr := opFld it 256 64, arg := opFld it 384 64, tiles := opFld it 320 32
    prim := (it.coal.filter (!·.msb)).map (·.toNat)
    shad := (it.coal.filter (·.msb)).map fun w => w.toNat % 2 ^ 63 }

/-- Every shadow tile lies in one Dense extent of this module (R61). -/
def oneDense (s : State) (p : Pairing) : Bool :=
  let a := p.shad.headD 0 * 16384
  (extOf s a).dense && p.shad.all fun t => lpaExt (t * 16384) = lpaExt a

/-- An older pairing names a primary tile of the new one (R61). -/
def pairsMeet (p q : Pairing) : Bool :=
  (p.job = q.job && rangesMeet p.addr p.tiles q.addr q.tiles) || p.prim.any q.prim.contains

/-- ADVISE pair (R61, R277): both ranges are translated, then the pairing is made. -/
def execAdvisePair (i : ItemId) (s : State) : Ans :=
  adviseRun s i 3 fun it =>
    let n := opFld it 320 32
    let a := opFld it 256 64 + 16384 * it.prog
    let b := opFld it 384 64 + 16384 * it.prog
    if opFld it 384 64 % 16384 ≠ 0 then failItem s i {} stMalformed
    else if n ≤ it.prog then
      let p := gatheredPair it
      if !oneDense s p then failItem s i {} stMalformed
      else .next (endItem (onT0 s fun t => { t with pairs := t.pairs.filter (fun q => !pairsMeet p q) ++ [p] }) i
        { status := stOk, count := n })
    else
      let (s1, ga) := tryPages s i 0 (quarters a)
      let (s2, gb) := tryPages s1 i 0 (quarters b)
      match ga, gb with
      | .bad _, _ => failItem s2 i {} stMalformed
      | _, .bad _ => failItem s2 i {} stMalformed
      | .ok pa, .ok pb =>
        let mb := (pb.headD (0, {})).1
        if !isNative (pb.map Prod.fst) || mpaDev mb ≠ selfDev s2 || !extPresent s2 (mpaLpa mb) then failItem s2 i {} stMalformed
        else
          let prim := ((pa.map Prod.fst).filter fun m => mpaDev m = selfDev s2).map fun m => tileOf (mpaLpa m)
          .next (onItem s2 i fun x => { x with
            coal := x.coal ++ (prim.eraseDups.map fun t => BitVec.ofNat 64 t) ++ [BitVec.ofNat 64 (2 ^ 63 + tileOf (mpaLpa mb))]
            prog := x.prog + 1 })
      | _, _ => .next s2

/-- ADVISE unpair (R61, R277). -/
def execAdviseUnpair (i : ItemId) (s : State) : Ans :=
  adviseRun s i 4 fun it =>
    let hit := fun (p : Pairing) => p.job = it.job && rangesMeet p.addr p.tiles (opFld it 256 64) (opFld it 320 32)
    .next (endItem (onT0 s fun t => { t with pairs := t.pairs.filter fun p => !hit p }) i
      { status := stOk, count := ((s.t0.pairs.filter hit).map (·.tiles)).sum })

/-! ## PUBLISH -/

/-- What the operator makes of the answer to its publish (R137, R325). -/
def publishResult (a : Answer) : Result :=
  { status := a.status,
    detail := if a.status = stOk then fld a.result.toNat 0 32 else if a.status = stConflict then fld a.info.toNat 0 32 else 0 }

/-- PUBLISH (R325): ordered at the region's home here, or asked of its owner. -/
def execPublish (i : ItemId) (s : State) : Ans :=
  opRun s i 0x0060 fun it =>
    let a := opFld it 256 64
    if outstanding s (· == .publish i) then notEnabled s
    else
      let (s1, g) := stoveXlate s it a 2
      onGotI s1 i {} a g fun (m, _) =>
        let send := fun (m : Nat) =>
          let f := fabricHead s1 it.ctx it.job tPublish (stoveTag it 0) (BitVec.ofNat 64 a) (BitVec.ofNat 64 m)
          Host.Outcome.next (sendFabric s1 { f with opa := BitVec.ofNat 64 (opFld it 320 32) } (.publish i))
        if mpaDev m ≠ selfDev s1 then send m
        else if extPresent s1 (mpaLpa m) && (extOf s1 (mpaLpa m)).state ≠ 6 then
          match publishNow s1 (regionOf (mpaLpa m)) (opFld it 320 32) it.job with
          | (s2, some ans) => .next (endItem s2 i (publishResult ans))
          | (s2, none) => .next s2
        else match forwardOf s1 (mpaLpa m) with
          | some (dev, ext) => send (dev * 2 ^ 42 + ext * 2 ^ 30 + mpaLpa m % 2 ^ 30)
          | none => failItem s1 i {} stUnmapped

end Sys2Proof.Machine
end

