-- ==== Sys2Proof/Machine/Serve.lean ====
section
/-! DEFINITION. The way of a request through the module (R25, R211, R261): the partner leg, the route to its home here or on
another module, the owning module; fences and INVAL (R220, R225); how the module's own requests end (R216, R263); and what
goes on once something has ended. -/

namespace Sys2Proof.Machine

/-! ## At the owner -/

/-- LEASE, SNAP and PUBLISH requests are judged by their own rules (R313). -/
def ownRules (t : Nat) : Bool := t = tLease || t = tSnap || t = tPublish

/-- An item still to be applied names the extent of an LPA: EXTENT_REMOVE, EXTENT_ASSIGN, LEASE_REVOKE or EXTENT_MOVE (R395). -/
def recordNames (s : State) (a : Nat) : Bool :=
  s.auth.bufs.any fun b => b.2.state = 3 && b.2.todo.any fun i =>
    ((i.ityp = 0x1A || i.ityp = 0x20 || i.ityp = 0x21) && i.target = lpaExt a) ||
      (i.ityp = 0x58 && fld (leNat i.payload) 6 3 * 512 + fld (leNat i.payload) 9 9 = lpaExt a)

/-- A request at the home of its address (R261): served by its type. One that would change an extent which an applying record
names waits (R395). -/
def serveAny (s : State) (r : Req) : State :=
  let t := r.f.typ
  if ownRules t && recordNames s (mpaLpa r.f.mpa.toNat) then onTrn s fun x => { x with parked := x.parked ++ [(r, 2 ^ 64)] }
  else if t = tScatter then serveScatter s r
  else if t = tPublish then servePublish s r
  else if t = tLease then serveLease s r
  else if t = tSnap then serveSnap s r
  else if t = tCoh then (if cohRequest r.f then cohServe s r else cohMessage s r)
  else serveHome s r

/-- Check 10 of R261: the function of an operator request (R259). -/
def functionOk (s : State) (f : Frame) : Bool :=
  if f.typ = tScatter then funcEnabled s f.job fnEmbed else if f.typ = tPublish then funcEnabled s f.job fnSnap else true

/-- A request admitted by check 8 counts in its extent until it is answered (R310, R314). -/
def serveAdmitted (s : State) (r : Req) : State :=
  if ownRules r.f.typ then serveAny s r else let (s1, r1) := beginAdmitted s r; serveAny s1 r1

/-- Checks 7 to 10 of R261 and the service of a fabric request that its window holds. -/
def ownerServe (s : State) (r : Req) : State :=
  let f := r.f
  if f.typ = tContrib then serveContrib s r
  else if f.typ = tDeliver then
    match serveDeliver s r with
    | (s1, true) => s1
    | (s1, false) => park s1 r (2 ^ 63)
  else if f.typ = tCoh && !cohRequest f then cohMessage s r
  else match slotCheck s f with
    | .status st => answerStatus s r st
    | .forward dev ext => forward s r dev ext
    | .serve =>
      match (if ownRules f.typ then none else admitCheck s f) with
      | some st => refuse s r st
      | none =>
        if isWalker f then serveAdmitted s r
        else match confirm s f with
          | (.status a, s1) => answer (dropTables s1) r a
          | (.wait m, s1) =>
            let t := if mpaDev m = selfDev s1 then TableRead.blocked (lineOf (mpaLpa m)) else .remote m
            park (fetchNeed s1 f.job f.srcCtx t) r m
          | (.passed nc, s1) =>
            let s2 := dropTables s1
            if functionOk s2 f then serveAdmitted s2 { r with nc := nc } else refuse s2 r stDisabled

/-! ## The partner leg -/

/-- The definition of its fields that a memory or coherence request must keep (R204, R292). -/
def fieldsBad (f : Frame) : Bool :=
  let j := f.jva.toNat
  let n := f.payload.length
  if f.typ = tRead then j % 64 ≠ 0 || f.opa.getLsbD 63
  else if f.typ = tWrite || f.typ = tWritePush then j % 64 ≠ 0 || n ≠ 64
  else if f.typ = tTileRead then j % 16384 ≠ 0
  else if f.typ = tTileWrite then j % 16384 ≠ 0 || n ≠ 16384
  else if f.typ = tAtomic then
    f.opa.getLsbD 63 || !atomicOk (reqAop f) (reqW f) || j % atomicBytes (reqAop f) (reqW f) ≠ 0 ||
      n ≠ (if reqAop f = 9 || reqAop f = 0xB then 8 else 0)
  else if f.typ = tCoh then
    !listedMsg (cohMsg f) || 0x20 ≤ cohMsg f ||
      (cohMsg f ≤ 3 && j % 64 ≠ 0) ||
      (cohMsg f = 4 && (!atomicOk (reqAop f) (reqW f) || j % atomicBytes (reqAop f) (reqW f) ≠ 0 ||
        n ≠ (if reqAop f = 9 || reqAop f = 0xB then 8 else 0)))
  else if f.typ = tLease then !(1 ≤ lopOf f && lopOf f ≤ 4)
  else if f.typ = tSnap then !(1 ≤ sopOf f && sopOf f ≤ 5)
  else if f.typ = tInval then j % 4096 ≠ 0
  else false

/-- A partner request goes on over the fabric leg to the owner of an MPA (R25, R215). -/
def toOwner (s : State) (r : Req) (mpa : Nat) : State :=
  let f := r.f
  let dev := mpaDev mpa
  let g := { f with
    leg := true, dstDev := dev, srcDev := selfDev s, cell := dev / 64, epoch := epochOf s (dev / 64), retry := false,
    sync := false, frag := 0, fragsM1 := 0, hops := 0, seq := 0, mpa := BitVec.ofNat 64 mpa }
  let s1 := legDest s f dev
  if isReadReq f then sendRead s1 { g with opa := 0 } (.partner r) else sendFabric s1 g (.partner r)

/-- A partner request whose address this module owns: the fabric leg is internal (R261 checks 7 and 8). -/
def localServe (s : State) (r : Req) (mpa : Nat) (nc : Bool) : State :=
  let r1 := { r with f := { r.f with mpa := BitVec.ofNat 64 mpa }, nc := nc }
  let s1 := legDest s r.f (selfDev s)
  match slotCheck s1 r1.f with
  | .status st => answerStatus s1 r1 st
  | .forward dev ext => toOwner s1 r (dev * 2 ^ 42 + ext * 2 ^ 30 + mpa % 2 ^ 30)
  | .serve =>
    match (if ownRules r.f.typ then none else admitCheck s1 r1.f) with
    | some st => refuse s1 r1 st
    | none => serveAdmitted s1 r1

/-- The route of a translated request (R25). -/
def routeReq (s : State) (r : Req) (mpa : Nat) (nc : Bool) : State :=
  if mpaDev mpa = selfDev s then localServe s r mpa nc else toOwner s r mpa

/-- A line of a split tile that another module holds is asked for (R276). -/
def askLine (s : State) (r : Req) (jva m : Nat) : State :=
  let who : Issuer := .table m
  if outstanding s (· == who) then s
  else sendRead s (fabricHead s r.f.srcCtx r.f.job tRead r.f.tag (BitVec.ofNat 64 jva) (BitVec.ofNat 64 m)) who

/-- A partner's read of a split tile: its lines in order, each from its own place (R276). -/
def gatherTile : Nat → State → Req → List Nat → State
  | 0, s, r, _ => answer s r { payload := r.acc }
  | n + 1, s, r, ms =>
    let m := nth 0 ms (r.part / 64) + 64 * (r.part % 64)
    let go := fun (s : State) (bs : List Byte) => gatherTile n s { r with part := r.part + 1, acc := r.acc ++ bs } ms
    if mpaDev m = selfDev s then
      let a := mpaLpa m
      if !extPresent s a then refuse s r stUnmapped
      else match admission s a r.f.job (selfDev s) r.f.srcCtx true with
        | some st => refuse s r st
        | none =>
          let v := viewLpa s a r.f.job (selfDev s) r.f.srcCtx
          match prepRead s (lineOf v) with
          | (s1, false) => park s1 r (ownMpa s1 v)
          | (s1, true) => if isPoisoned s1 (lineOf v) then refuse s1 r stPoison
            else go (meterLine s1 (lineOf v) r.f.job 64) (readBytes s1 v 64)
    else match s.trn.tableLines.find? (·.1 = m) with
      | some x =>
        let s1 := onTrn s fun t => { t with tableLines := t.tableLines.filter (·.1 ≠ m) }
        if x.2.length = 1 then refuse s1 r (leNat x.2) else go s1 x.2
      | none => park (askLine s r (r.f.jva.toNat + 64 * r.part) m) r m

/-- The four leaves of a tile for a request, in order; none where it waits or was answered (R275). -/
def tileLeaves (s : State) (r : Req) (acc : Nat) : List Nat → State × Option (List (Nat × Leaf))
  | [] => (s, some [])
  | j :: js =>
    match translate s (.req r) r.f.job j acc s.clk.pilot with
    | (s1, .wait) => (s1, none)
    | (s1, .fail st) => (refuse s1 r st, none)
    | (s1, .ok m l) =>
      match tileLeaves s1 r acc js with
      | (s2, some ls) => (s2, some ((m, l) :: ls))
      | (s2, none) => (s2, none)

/-- A tile request of a partner (R275, R276). -/
def tileBody (s : State) (r : Req) : State :=
  match tileLeaves s r (reqAcc r.f) (quarters r.f.jva.toNat) with
  | (s1, none) => s1
  | (s1, some ps) =>
    let ms := ps.map Prod.fst
    if isNative ms then routeReq s1 r (ms.headD 0) (ps.any fun p => p.2.pbmt = 1)
    else if r.f.typ = tTileWrite then refuse s1 r stMalformed
    else
      let s2 := if r.stage = 0 then legDest (countTrn s1 9) r.f (mpaDev (ms.headD 0)) else s1
      gatherTile (256 - r.part) s2 { r with stage := 1 } ms

/-- ARG of a snoop answer that is relayed to a home on another module names the number by which that home knows the agent's
outstanding request (R297). -/
def relayPend (s : State) (f : Frame) : W64 :=
  if cohMsg f = 0x10 && f.opb.getLsbD 32 then
    let q := BitVec.ofNat 32 (f.opb.toNat % 2 ^ 32)
    match ((tget [] s.net.legs f.srcCtx).find? (·.seq = q)).bind (·.fseq) with
    | some n => BitVec.ofNat 64 (setFld f.opb.toNat 0 32 n.toNat)
    | none => BitVec.ofNat 64 (setFld f.opb.toNat 32 1 0)
  else f.opb

/-- A coherence message of an agent other than a request (R293, R297): it ends a delivery of this member, is served by the home
here, or is relayed. -/
def agentMessage (s : State) (r : Req) : State :=
  let f := r.f
  let dev := mpaDev f.mpa.toNat
  let d := if 0x10 ≤ cohMsg f then deliveryOf s f r.a.link else none
  match d with
  | some x => endDelivery (refuse s r stOk) x
  | none =>
    if dev = selfDev s then cohMessage (legDest s f dev) r
    else toOwner s { r with f := { f with opb := relayPend s f } } f.mpa.toNat

/-! ### Fences and INVAL -/

/-- Numbers before a FENCE's own, up to 255 back, that have not arrived; numbers before the first that its context used are
not counted (R220, log 31). -/
def missingBefore (s : State) (c : Nat) (q : BitVec 32) : List (BitVec 32) :=
  let ls := tget [] s.net.legs c
  (upTo 255 fun k => q - BitVec.ofNat 32 (k + 1)).filter fun n =>
    !ls.any (fun l => l.seq = n) && ls.any fun l => l.seq ≠ q && seqAfter n l.seq

/-- Requests that a FENCE covers (R220). -/
def covered (s : State) (x : Fence) : List Leg :=
  (tget [] s.net.legs x.ctx).filter fun l => seqAfter x.seq l.seq && l.tag = x.r.f.tag &&
    (!x.r.f.opa.getLsbD 16 || l.dev = some (x.r.f.opa.toNat % 2 ^ 14))

/-- A FENCE may be answered (R219, R220): every number before it has come or is counted missing, and its count is zero. -/
def fenceDone (s : State) (x : Fence) : Bool :=
  ((missingBefore s x.ctx x.seq).all fun n => x.missing.contains n) && (covered s x).all (·.ended)

/-- A FENCE is answered with its failures (R220). -/
def endPartnerFence (s : State) (x : Fence) : State :=
  let fails := ((covered s x).filter (·.failed)).length + ((missingBefore s x.ctx x.seq).filter fun n => x.missing.contains n).length
  answer (onNet s fun n => { n with fences := n.fences.filter (· ≠ x) }) x.r { result := BitVec.ofNat 64 fails }

/-- A partner's FENCE begins to wait (R220). -/
def beginFence (s : State) (r : Req) : State :=
  let x : Fence := { r := r, ctx := r.f.srcCtx, seq := r.f.seq, sincePt := s.clk.pilot }
  if fenceDone s x then endPartnerFence s x else onNet s fun n => { n with fences := n.fences ++ [x] }

/-- The range that an INVAL names: first JVA and the one past its last (R225). -/
def invalSpan (f : Frame) : Nat × Nat :=
  if f.opa.getLsbD 32 then (0, 2 ^ 64) else (f.jva.toNat, f.jva.toNat + fld f.opa.toNat 0 32 * 4096)

/-- A request of a job that was translated in a range: its tile or line lies there. -/
def inSpan (job lo hi : Nat) (f : Frame) : Bool :=
  let n := if isTileReq f then 16384 else 64
  f.job = job && !isWalker f && lo < f.jva.toNat + n && f.jva.toNat < hi && !isInternal f &&
    f.typ ∈ [tRead, tWrite, tWritePush, tTileRead, tTileWrite, tAtomic, tScatter, tPublish, tLease, tSnap, tCoh]

/-- A request of a job in a range is still being served or translated on this module (R225). -/
def spanBusy (s : State) (job lo hi : Nat) : Bool :=
  let q := fun (r : Req) => inSpan job lo hi r.f
  let w := fun (x : Waiting) => x.job = job && lo < x.jva + 4096 && x.jva < hi
  s.home.slices.any (fun e => e.2.txs.any (fun t => t.cur.any q || t.waiters.any q) || e.2.locks.any fun k => k.waiters.any q) ||
    s.t0.slices.any (fun e => e.2.tiles.any fun t => t.held.any q) ||
    s.ext.regions.any (fun e => match e.2 with | some g => g.waiters.any q | none => false) ||
    s.trn.parked.any (fun p => q p.1) || s.trn.walks.any (fun k => k.waiters.any w) || s.trn.waiting.any w ||
    s.net.held.any (fun h => q h.1) || s.sites.waits.any (fun h => q h.1) ||
    s.net.outs.any fun o => inSpan job lo hi o.f

/-- INVAL (R225, R274): translations leave the cache, covered windows close, a covered fault ring will be translated again
(R270); the answer waits for what was translated before. -/
def beginInval (s : State) (r : Req) : State :=
  let job := r.f.job
  let (lo, hi) := invalSpan r.f
  let s1 := invalRange s job lo hi
  let s2 := onTrn s1 fun t => { t with
    rings := t.rings.map fun e => match jobEntry s job with
      | some (i, j) =>
        if e.1 = i && lo < jobRing j + 64 * jobRingSlots j && jobRing j < hi then (e.1, e.2.map fun r => { r with lpas := [] }) else e
      | none => e
    walks := t.walks.map fun w => if w.job = job then { w with stale := true } else w
    inval := t.inval ++ [(r, lo, hi, r.f.opa.getLsbD 32)] }
  forAll s2.ctx (fun s e => match e.2.win with
    | some w => if e.2.job = job && lo < w.base + winBytes w && w.base < hi then closeWindow s e.1 3 else s
    | none => s) s2

/-- CTX_OPEN (R208, R258, R282): the job's entry, which must admit the link, the revision, the coherence mode of the link, a free number, and the window. -/
def openCtx (s : State) (r : Req) : State :=
  let f := r.f
  let l := r.a.link
  let b := f.payload
  let nonce := leAt b 0 8
  let rev := leAt b 8 1 % 16
  let fore := rev = 1 || tbit (leAt b 8 1) 4
  let mine := fun (x : Ctx) => x.isOpen && boundTo x r.a && x.nonce = nonce && x.job = f.job
  match s.ctx.find? fun e => mine e.2 && e.2.closing.isNone with
  | some e => sendResponse s { r with f := { f with srcCtx := e.1 } } (plain stOk)
  | none =>
    if !(jobEntry s f.job).any (fun e => e.2.getLsbD (320 + l)) then turnAway s r stDenied
    else if b.length ≠ 64 || rev = 0 then turnAway s r stMalformed
    else if 3 ≤ rev then turnAway s r stUnsupported
    else if !isService l && (cohCtx s l).any (fun c => c.2.fore ≠ fore) then turnAway s r stDenied
    else match (List.range 4096).find? fun c => !(ctxOf s c).isOpen with
      | none => turnAway s r stBusy
      | some c =>
        match openWindow s f.job (leAt b 16 8) (leAt b 24 2) with
        | (.status st, s1) => turnAway (dropTables s1) r st
        | (.need t, s1) =>
          let m := match t with | .remote m => m | .blocked k => ownMpa s1 (k * 64) | _ => 2 ^ 63
          park (fetchNeed s1 f.job c t) r m
        | (.window w, s1) =>
          let x : Ctx := { isOpen := true, job := f.job, link := l, ip := r.a.ip, port := r.a.port, nonce := nonce, rev := rev,
                           fore := fore, coh := !isService l && (cohCtx s1 l).isNone, win := some w }
          let s2 := onCtx (dropTables s1) fun t => tput {} t c x
          sendResponse (writeWinHeader s2 w 1 0) { r with f := { f with srcCtx := c } } (plain stOk)

/-- CTX_CLOSE (R209, R282): the window begins to close; the answer waits for what is left. -/
def closeCtx (s : State) (r : Req) : State :=
  let f := r.f
  let c := f.srcCtx
  let x := ctxOf s c
  if !x.isOpen then turnAway s r stOk
  else match ctxStatus s r.a f with
    | some st => turnAway s r st
    | none =>
      if x.coh && s.ctx.any (fun e => e.1 ≠ c && e.2.isOpen && e.2.link = x.link) then turnAway s r stBusy
      else closeWindow (onCtxN s c fun x => { x with closing := some (some r) }) c 1

/-- A context whose link has gone down closes in the same way, with nobody to answer (R209). -/
def closeSilent (s : State) (c : Nat) : State :=
  if (ctxOf s c).closing.isSome then s else closeWindow (onCtxN s c fun x => { x with closing := some none }) c 1

/-- A partner request that its window holds, at its entry module (R25, R204). -/
def partnerBody (s : State) (r : Req) : State :=
  let f := r.f
  if f.typ = tCtxOpen then openCtx s r
  else if fieldsBad f then refuse s r stMalformed
  else if f.typ = tFence then beginFence s r
  else if f.typ = tInval then beginInval s r
  else if f.typ = tCoh && !cohRequest f then agentMessage s r
  else if isTileReq f then tileBody s r
  else
    match translate s (.req r) f.job f.jva.toNat (if f.typ = tLease || f.typ = tSnap then 0 else reqAcc f) s.clk.pilot with
    | (s1, .wait) => s1
    | (s1, .fail st) => refuse s1 r st
    | (s1, .ok m l) => routeReq s1 r m (l.pbmt = 1)

/-- A request set aside goes on. -/
def resume (s : State) (r : Req) : State := if r.f.leg then ownerServe s r else partnerBody s r

/-- The accesses of a walk that has ended go on; a Stove's is given again by its own command. -/
def goOn (s : State) (ws : List Waiting) : State :=
  forAll ws (fun s w => match w.who with | .req r => resume s r | .item _ _ _ => s) s

/-! ### Arrival -/

/-- What the entry module sets in a partner's request (R201, R203, R281, log 15). -/
def entered (s : State) (r : Req) : Req :=
  let agent := !isService r.a.link && hasAgent s r.a.link
  let fore := match cohCtx s r.a.link with | some (_, x) => x.fore | none => false
  let f := r.f
  { r with f := { f with
      srcDev := selfDev s, dstDev := selfDev s, srcLink := if agent then r.a.link else 0x7F, fore := agent && fore,
      mpa := if f.typ = tCoh && !cohRequest f then f.mpa else 0,
      opa := if isTileReq f then 0 else f.opa } }

/-- A partner's number that its window has not seen (R209). -/
def partnerFresh (s : State) (f : Frame) : Bool :=
  match pwinOf s f.srcCtx with
  | none => true
  | some w => judge w f.seq == .fresh

/-- The member cut an agent of its own off (R305). -/
def memberCutNow (s : State) (link : Nat) : Bool :=
  match tget none s.home.memberCut link with
  | some t => s.clk.pilot < t
  | none => false

/-- A partner-leg request seen before is answered with its stored outcome (R211); a coherence grant also with the line, from
the home here or by asking the home elsewhere once more under the number it knows (R299). -/
def partnerReplay (s : State) (r : Req) (e : Seen) : State :=
  let q := entered s r
  if !cohRequest q.f || e.status ≠ stOk || fld e.info.toNat 0 2 = 0 then sendResponse s r (storedAnswer e)
  else match cachedLeaf s q.f.job q.f.jva.toNat with
    | none => sendResponse s r { storedAnswer e with info := 0 }
    | some l =>
      let m := leafMpa l q.f.jva.toNat
      let q1 := { q with f := { q.f with mpa := BitVec.ofNat 64 m } }
      if mpaDev m = selfDev s then cohReplay s q1 e
      else match ((tget [] s.net.legs q.f.srcCtx).find? (·.seq = q.f.seq)).bind (·.fseq) with
        | none => sendResponse s r { storedAnswer e with info := 0 }
        | some n =>
          let dev := mpaDev m
          let g := { q1.f with leg := true, dstDev := dev, cell := dev / 64, epoch := epochOf s (dev / 64), retry := true,
                               hops := 0, seq := n }
          let o : Out := { num := s.net.nextOut, f := g, issuer := .partner q, sentPt := s.clk.pilot }
          transmit (onNet s fun x => { x with outs := x.outs ++ [o], nextOut := x.nextOut + 1 }) o

/-- A partner-leg request that its frame and link admit (R208, R209, R211, R281, R283). -/
def enterPartner (s : State) (r : Req) : State :=
  let f := r.f
  match ctxStatus s r.a f with
  | some st => turnAway s r st
  | none =>
    if f.typ = tCoh && (isService r.a.link || !hasAgent s r.a.link || memberCutNow s r.a.link ||
        (cohCtx s r.a.link).any fun c => c.1 ≠ f.srcCtx) then turnAway s r stDenied
    else match judgePartner s f with
      | .absorbed => s
      | .unseen => s
      | .behind => countDiscard s 0
      | .status st => turnAway s r st
      | .stored e => partnerReplay s r e
      | .run =>
        if (ctxOf s f.srcCtx).closing.isSome && partnerFresh s f then turnAway s r stDenied
        else match enterWindow s r.f with
          | (s1, false) => turnAway s1 r stBusy
          | (s1, true) => partnerBody (addLeg s1 r.f) (entered s1 r)

/-- A fabric request whose epoch is served: its window, its service (R211 to R213, R261 from check 6). -/
def fabricWindow (s : State) (r : Req) : State :=
  let f := r.f
  match judgeFabric s f with
  | .absorbed => s
  | .behind => countDiscard s 0
  | .status st => turnAway s r st
  | .stored e =>
    (match (if e.status = stMoved && !f.fwd then forwardOf s (mpaLpa f.mpa.toNat) else none) with
      | some (dev, ext) => forward s { r with f := { f with retry := true } } dev ext
      | none => if cohRequest f then cohReplay s r e else sendResponse s r (movedAnswer s f (storedAnswer e)))
  | .unseen => ownerServe s r
  | .run =>
    match enterWindow s r.f with
    | (s1, false) => turnAway s1 r stBusy
    | (s1, true) => ownerServe s1 r

/-- A fabric request for this module (R221, R261 checks 3 to 5). -/
def enterFabric (s : State) (r : Req) : State :=
  let f := r.f
  let bare := f.typ = tContrib || f.typ = tDeliver || (f.typ = tCoh && !cohRequest f)
  match (if bare then none else ownerEarly s f) with
  | some st => turnAway s r st
  | none =>
    let d := epochDist s f
    if f.cell ≠ s.boot.cell || d ≤ 128 then fabricWindow s r
    else if d ≤ 223 then sendResponse s r (staleAnswer s)
    else onNet s fun n => { n with held := n.held ++ [(r, s.clk.pilot)] }

/-- A spare that has taken over a position but does not serve yet answers BUSY (R349). -/
def notServing (s : State) : Bool := s.boot.role = 1 && s.cell.map.serving && !s.cell.served

/-- A request arrives; one that travels in fragments is received once all of them are there (R218, log 52). -/
def enter (s : State) (a : Arrival) (f : Frame) : State :=
  match arrive s a f with
  | (s1, none) => s1
  | (s1, some r) =>
    if notServing s1 && (f.typ ≠ tCoh || cohRequest f) then turnAway s1 r stBusy
    else match assemble s1 r with
      | (s2, none) => s2
      | (s2, some r1) =>
        if r1.f.leg then enterFabric s2 r1
        else if r1.f.typ = tCtxOpen then openCtx s2 r1
        else if r1.f.typ = tCtxClose then closeCtx s2 r1
        else enterPartner s2 r1

end Sys2Proof.Machine
end

