-- ==== Sys2Proof/Machine/Adopt.lean ====
section
/-! DEFINITION. Agreement in the cell (R342 to R344, R347 to R350, R353): what a member does on adopting a map, how it fences itself,
the leader's proposals, and what a spare reads of its ward's journal. The bodies of messages that R341 does not lay out are the
model's own (log 42). -/

namespace Sys2Proof.Machine

/-! ## Messages -/

/-- COP, FROM_POS and SUBJ of a CELL frame (R341). -/
def copOf (f : Frame) : Nat := fld f.opa.toNat 0 8
def fromPosOf (f : Frame) : Nat := fld f.opa.toNat 8 6
def subjOf (f : Frame) : Nat := fld f.opa.toNat 14 6

/-- EPOCH and UPD of a CELL frame. -/
def epochIn (f : Frame) : Nat := fld f.opb.toNat 0 32
def updOf (f : Frame) : BitVec 32 := BitVec.ofNat 32 (f.opb.toNat / 2 ^ 32)

/-- A CELL frame with a subject and a payload; EPOCH is the sender's committed epoch, or the one given. -/
def cellMsg (s : State) (dev cop subj : Nat) (bs : List Byte) (epoch : Option Nat := none) : Frame :=
  let f := cellFrame s dev cop
  { f with opa := f.opa + BitVec.ofNat 64 (subj * 2 ^ 14), opb := BitVec.ofNat 64 (epoch.getD s.cell.map.epoch),
           payload := bs, len := bs.length }

/-- A CELL message that nobody answers: it leaves by its route, in fragments where it must (R218). -/
def sayCell (s : State) (f : Frame) : State :=
  let n := s.net.nextOut
  let g := { f with seq := BitVec.ofNat 32 n }
  let fs := match pickLink s g with
    | some l => fragSize (payloadLimit s l)
    | none => 4096
  forAll (fragment fs g) sendRouted (onNet s fun x => { x with nextOut := n + 1 })

/-- A CELL message that leaves on one link, before there is a route (R344). -/
def sayOn (s : State) (l : Nat) (f : Frame) : State :=
  let n := s.net.nextOut
  sendOn (onNet s fun x => { x with nextOut := n + 1 }) l { f := { f with seq := BitVec.ofNat 32 n, hops := 1 } }

/-- The answer to a CELL request goes back on the link that the request came by where the sender has no device ID yet or no
route (R344, R337). -/
def replyCell (s : State) (r : Req) (a : Answer) : State :=
  let f := mkResponse s r.f a
  if r.f.srcDev = 0x3FFF || copOf r.f = 0x09 then
    forAll (fragment (fragSize (payloadLimit s r.a.link)) f) (fun s f => sendOn s r.a.link { f := { f with hops := 1 } }) s
  else sendResponse s r a

/-- The committed map is asked for, once at a time (R342). -/
def requestMap (s : State) (dev : Nat) : State :=
  if outstanding s (· == .mapAsked) then s else sendFabric s (cellMsg s dev 0x08 0 []) .mapAsked

/-- A later epoch was seen: the leader, or where this member is the leader whoever spoke, is asked for its map (R342). -/
def seenEpoch (s : State) (epoch dev : Nat) : State :=
  if epoch ≤ s.cell.map.epoch then s
  else match leaderOf s.cell.map none with
    | some p => requestMap s (if p = s.boot.pos then dev else posDev s p)
    | none => requestMap s dev

/-! ## Fencing (R348) -/

/-- A member fences itself: every context closes and every item stops without a flag written; its leases, filter entries, regions
and windows are void (R411), and it is in the status-only phase. -/
def fenceSelf (s : State) (cause : Nat) : State :=
  let s1 := ashExempt s 5 0x33 0x0505 [(0, natLe 1 cause)]
  let s2 := onBoot s1 fun b => { b with phase := 13, failCode := 8 }
  let s3 := onExt s2 fun x => { x with
    tab := tmapAll {} (fun e => if e.state = 3 || e.state = 4 then
      { e with state := 2, leaseNo := 0, leaseEnd := 0, holderDev := 0, holderCtx := 0, term := 0, admitted := 0 } else { e with admitted := 0 }) x.tab
    snaps := [], regions := [], zeroing := [] }
  let s4 := onTrn s3 fun t => { jobs := t.jobs, ctr := t.ctr }
  let s5 := onNet s4 fun n => { epochs := n.epochs, discards := n.discards, nextOut := n.nextOut }
  let s6 := onHome s5 fun h => { slices := tmapAll {} (fun x => { ctr := x.ctr }) h.slices, pred := h.pred }
  let s7 := onSites (onChim s6 fun c => { c with regs := [] }) fun x => { x with waits := [] }
  let s8 := onT0 s7 fun t => { t with slices := tmapAll {} (fun x => { x with borrowed := [] }) t.slices }
  let s9 := onCell s8 fun c => { c with journalWait := [], prop := none, accepted := none, acting := false, collecting := [], collect := [] }
  { onPwr s9 (fun p => { p with phaseSince := some s.clk.pilot }) with ctx := [], sched := [], stv := { nextItem := s.stv.nextItem } }

/-! ## Adopting a map (R342, R336, R349, R350, R353) -/

/-- The first position whose state two maps give differently; 0x3F none. -/
def changedPos (a b : PMap) : Nat :=
  ((List.range 64).find? fun p => (memberAt a p).mstate ≠ (memberAt b p).mstate).getD 0x3F

/-- Positions that the new map serves again: live or served, and not so before. -/
def newlyServed (a b : PMap) : List Nat :=
  (List.range 64).filter fun p =>
    let up := fun (m : PMap) => (memberAt m p).mstate = 1 || (memberAt m p).mstate = 4
    up b && (!up a || (memberAt a p).mstate ≠ (memberAt b p).mstate)

/-- The move of an extent is done (R353 step 3): the source's slot holds a forwarding entry, the destination's extent takes STATE
and JOB. -/
def moveDone (s : State) (v : Move) : State :=
  let src := v.fromH * 512 + v.fromSlot
  let dst := v.toH * 512 + v.toSlot
  let e := tget {} s.ext.tab src
  let s1 := if v.fromPos = s.boot.pos then onExt s fun x => { x with
      tab := tmod {} x.tab src fun e => { e with state := 6, job := 0 }
      fwd := tput none x.fwd src (some (posDev s v.toPos, dst)) } else s
  if v.toPos = s.boot.pos then onExt s1 fun x => { x with
      tab := tmod {} x.tab dst fun d =>
        let job := if v.fromPos = v.toPos then e.job else tget 0 s.cell.incoming dst - 1
        { d with state := if job = 0 then 1 else 2, job := job, gen := if d.state = 0 || d.job = job then d.gen else (d.gen + 1) % 2 ^ 32 }
      fwd := tput none x.fwd dst none } else s1

/-- The serving order names this spare: it takes the failed member's identity and reads its ward's journal from the BUDDY; of a
BUDDY that is failed, the journal is empty (R337, R349, R350). -/
def beginTakeover (s : State) (m : PMap) : State :=
  let s1 := onBoot s fun b => { b with device := b.cell * 64 + m.servePos, pos := m.servePos }
  let buddy := buddyOf m.nmem m.servePos
  let s2 := onCell s1 fun c => { c with readImage := [], restored := none, served := false }
  if isLive m buddy || (memberAt m buddy).mstate = 2 then
    sendFabric s2 (cellMsg s2 (posDev s2 buddy) 0x0D m.servePos []) .journalRead
  else onCell s2 fun c => { c with restored := some [] }

/-- Requests held for an epoch that is now reached go on (R221). -/
def releaseEpoch (s : State) : State :=
  let (ready, wait) := s.net.held.partition fun h => epochDist s h.1.f ≤ 128
  forAll ready (fun s h => fabricWindow s h.1) (onNet s fun n => { n with held := wait })

/-- This module is a spare that does not serve. -/
def idleSpare (s : State) : Bool := s.boot.role = 1 && !s.cell.served

/-- A member whose position the map marks served by another serial is refused at its join (R337). -/
def refuseJoin (s : State) (m : PMap) : State :=
  let s1 := ashExempt s 4 0x33 0x0503 [(0, natLe 1 s.boot.pos), (8, natLe 8 m.spareSerial)]
  onPwr (touchBoot (onBoot s1 fun b => { b with phase := 14, failStep := 10, failCode := 7 })) fun p => { p with phaseSince := some s.clk.pilot }

/-- A map is adopted: once for each epoch, from this cell only (R342 step 4). -/
def adoptMap (s : State) (m : PMap) : State :=
  let old := s.cell.map
  if m.cell ≠ s.boot.cell || m.epoch ≤ old.epoch then s
  else
    let fresh := newlyServed old m
    let s1 := onCell s fun c => { c with
      map := m, accepted := c.accepted.filter fun a => m.epoch < a.2.epoch
      prop := c.prop.filter fun p => m.epoch < p.map.epoch, acting := false, collecting := [], collect := []
      reports := c.reports.filter fun r => isLive m r.1
      joins := c.joins.filter fun j => if j.1 = 64 then !m.spareUp else !isLive m j.1
      moves := c.moves.filter fun v => !m.moves.any fun x => x.fromPos = v.fromPos && x.fromH = v.fromH && x.fromSlot = v.fromSlot && v.stage ≤ x.stage
      spareGone := c.spareGone && m.serving
      updWin := forAll fresh (fun t p => tput none t (posDev s p) none) c.updWin
      nbrs := forAll fresh (fun t p => tput {} t p { lastAck := s.clk.pilot }) c.nbrs
      commitPt := if m.serving && !(old.serving && old.servePos = m.servePos) then some s.clk.pilot else c.commitPt
      ctr := tmod 0 c.ctr 1 (satInc 64) }
    let mine := m.serving && s1.boot.role = 1 && m.spareSerial = ownSerial s1
    let s2 := if s1.boot.role = 1 then
        onChim s1 fun c => { c with posTab := positionTable m true (if mine then m.servePos else 64) }
      else onChim s1 fun c => { c with posTab := positionTable m false s1.boot.pos }
    let s3 := ashExempt s2 1 0x33 0x0501 [(0, natLe 4 m.epoch), (4, natLe 1 m.leader), (5, natLe 1 (changedPos old m))]
    let newOrder := m.serving && !(old.serving && old.servePos = m.servePos)
    let s4 := if newOrder && s3.boot.role = 0 then
        onLinks s3 fun x => { x with patterns := x.patterns ++ [(16, s3.clk.pilot)] } else s3
    let s5 := if newOrder && mine && !s4.cell.served then beginTakeover s4 m else s4
    let s6 := if fresh.contains (buddyOf m.nmem s5.boot.pos) then
        onCell s5 fun c => { c with journalOk := true, journaled := [] } else s5
    let s7 := onMem s6 fun x => { x with unprot := x.unprot.filter fun u => match groupOf s6 (u * 65536) with
      | some g => !fresh.contains (copyPos g (u * 65536))
      | none => true }
    let done := m.moves.filter fun v => v.stage = 2 && !old.moves.contains v
    let s8 := releaseEpoch (forAll done moveDone s7)
    let own := (memberAt m s8.boot.pos).mstate
    if s8.boot.phase = 11 && s8.boot.role = 0 && (own = 3 || own = 4) then fenceSelf s8 2
    else if s8.boot.phase = 10 && s8.boot.role = 0 && own = 4 && m.spareSerial ≠ ownSerial s8 then refuseJoin s8 m
    else s8

/-! ## The leader (R342 to R344, R347) -/

/-- This member acts as leader. -/
def leads (s : State) : Bool :=
  s.boot.role = 0 && (s.cell.acting || leaderOf s.cell.map none = some s.boot.pos)

/-- Reports enough that a live position has failed (R347). -/
def failedNow (s : State) (p : Nat) : Bool :=
  let m := s.cell.map
  let live := ((neighbours m.nmem p).filter (isLive m)).length
  isLive m p && min 2 live ≤ (tget [] s.cell.reports p).eraseDups.length && !(tget [] s.cell.reports p).isEmpty

/-- A position fails in a map: the spare serves it where it is up and serves nobody; its moves under way are dropped (R347, R352,
R355). -/
def failPos (m : PMap) (p : Nat) : PMap :=
  let x := memberAt m p
  let m1 := { m with moves := m.moves.filter fun v => !(v.stage = 1 && v.fromPos = p) }
  if m.spareUp && !m.serving then
    { m1 with members := tput {} m.members p { x with mstate := 4 }, spareUp := false, serving := true, servePos := p }
  else { m1 with members := tput {} m.members p { x with mstate := 3 } }

/-- A join as the leader keeps it: the low 64 bits are the serial, those above MREV plus 1. -/
def joinKey (serial mrev : Nat) : Nat := serial % 2 ^ 64 + (mrev + 1) * 2 ^ 64

/-- A joiner enters a map (R337, R344): a position that is absent or failed and not served becomes live; 64 is the spare. -/
def joinPos (m : PMap) (p j : Nat) : PMap :=
  if p = 64 then
    (if m.serving then m else { m with spareUp := true, spareSerial := j % 2 ^ 64 })
  else if (memberAt m p).mstate = 0 || (memberAt m p).mstate = 3 then
    { m with members := tput {} m.members p { serial := j % 2 ^ 64, mstate := 1, mrev := j / 2 ^ 64 - 1, buddy := buddyOf m.nmem p } }
  else m

/-- A change to a move entry enters a map (R353). -/
def putMove (m : PMap) (v : Move) : PMap :=
  let same := fun (x : Move) => x.fromPos = v.fromPos && x.fromH = v.fromH && x.fromSlot = v.fromSlot
  let w := { v with atEpoch := m.epoch + 1 }
  if v.stage = 2 then { m with moves := updFirst (fun x => same x && x.stage = 1) (fun _ => w) m.moves }
  else if 1024 ≤ (m.moves.filter fun x => !same x).length then m
  else { m with moves := m.moves.filter (fun x => !same x) ++ [w] }

/-- The spare that was to serve is absent, and its position stays failed (R349). -/
def dropSpare (m : PMap) : PMap :=
  if m.serving then
    { m with serving := false, spareUp := false,
             members := tput {} m.members m.servePos { memberAt m m.servePos with mstate := 3 } }
  else m

/-- The map that the leader wants: every failure, join and move known to it, all in one proposal. -/
def wantedMap (s : State) : PMap :=
  let m := s.cell.map
  let a := forAll ((List.range 64).filter (failedNow s)) failPos m
  let b := forAll s.cell.joins (fun m j => joinPos m j.1 j.2) a
  let c := forAll s.cell.moves putMove b
  if s.cell.spareGone then dropSpare c else c

/-- The positions that a proposal goes to: live or suspect in the committed map; before there is one, those that the proposed
map names (R342, R344). -/
def electors (s : State) (m : PMap) : List Nat := if s.cell.map.epoch = 0 then voters m else voters s.cell.map

/-- Every elector and the subject but this member hears a message (R342 steps 1 and 3). -/
def tellElectors (s : State) (x : Prop342) (cop : Nat) (bs : List Byte) : State :=
  let dsts := (electors s x.map ++ (if x.subject < 64 && x.subject < x.map.nmem then [x.subject] else [])).eraseDups.filter (· ≠ s.boot.pos)
  forAll dsts (fun s p => sayCell s (cellMsg s (posDev s p) cop x.subject bs (some x.map.epoch))) s

/-- The quorum commits (R342 step 3). -/
def tryCommit (s : State) : State :=
  match s.cell.prop with
  | none => s
  | some x =>
    if x.accepts.length < (electors s x.map).length / 2 + 1 then s
    else adoptMap (tellElectors s x 0x06 []) x.map

/-- A proposal goes out; the leader's own acceptance counts (R342 step 1). -/
def proposeMap (s : State) (m : PMap) : State :=
  let m1 := { m with epoch := s.cell.map.epoch + 1, leader := s.boot.pos, cell := s.boot.cell }
  let subj := changedPos s.cell.map m1
  let x : Prop342 := { map := m1, accepts := [s.boot.pos], sentPt := s.clk.pilot, subject := subj }
  let s1 := onCell s fun c => { c with prop := some x, accepted := some (s.boot.pos, m1) }
  tryCommit (tellElectors s1 x 0x04 (mapBytes m1))

/-- The positions that the image's CELL section names. -/
def namedPositions (s : State) : List Nat := (List.range 64).filter fun p => (memberAt s.cfg.cellMap p).mstate = 1

/-- The first map of a cell that has none (R344): proposed by the lowest joined position once more than half of the named
positions have joined, with the serials that joined. -/
def firstMap (s : State) : Option PMap :=
  let here := (s.boot.pos :: (s.cell.joins.map Prod.fst).filter (· < 64)).eraseDups
  let named := namedPositions s
  if s.boot.role = 0 && s.boot.phase = 10 && here.all (s.boot.pos ≤ ·) && named.length < 2 * (here.filter named.contains).length then
    some (forAll s.cell.joins (fun m j => if j.1 = 64 then { m with spareUp := true, spareSerial := j.2 % 2 ^ 64 }
        else { m with members := tmod {} m.members j.1 fun x => { x with serial := j.2 % 2 ^ 64, mrev := j.2 / 2 ^ 64 - 1 } })
      { s.cfg.cellMap with
        members := tmod {} (tmapAll {} (fun x => x) s.cfg.cellMap.members) s.boot.pos fun x => { x with serial := ownSerial s, mrev := 2 } })
  else none

/-- BUDDY of every position in a first map (R339). -/
def withBuddies (m : PMap) : PMap :=
  { m with members := forAll m.members (fun t e => tput {} t e.1 { e.2 with buddy := buddyOf m.nmem e.1 }) [] }

/-- The leader proposes when it has cause to and no proposal is under way: first what it collected, then its own (R343). -/
def leaderStep (s : State) : State :=
  if s.cell.prop.isSome || !s.cell.collecting.isEmpty then s
  else if s.cell.map.epoch = 0 then
    match firstMap s with
    | some m => proposeMap s (withBuddies m)
    | none => s
  else if !leads s then s
  else match s.cell.collect.foldl (fun (b : Option PMap) x => match b with
      | some y => if y.epoch < x.2.epoch then some x.2 else b
      | none => some x.2) none with
    | some m => proposeMap (onCell s fun c => { c with collect := [] }) m
    | none =>
      let m := wantedMap s
      if m = s.cell.map then s else proposeMap s m

/-- A member after a leader that is suspected acts as leader: it first collects (R343). -/
def actAsLeader (s : State) : State :=
  if s.cell.acting then s
  else
    let dsts := (voters s.cell.map).filter (· ≠ s.boot.pos)
    let own := match s.cell.accepted with | some a => [(s.boot.pos, a.2)] | none => []
    let s1 := onCell s fun c => { c with acting := true, collecting := dsts, collect := own, prop := none }
    forAll dsts (fun s p => sendFabric s (cellMsg s (posDev s p) 0x07 0 []) (.collect p)) s1

/-- A report of suspicion at the leader, or at the one who follows a leader that is suspected (R343, R347). -/
def suspectReport (s : State) (who subj : Nat) : State :=
  let m := s.cell.map
  let s1 := onCell s fun c => { c with reports := tmod [] c.reports subj fun l => if l.contains who then l else l ++ [who] }
  if leaderOf m none = some subj && leaderOf m (some subj) = some s.boot.pos then leaderStep (actAsLeader s1)
  else if leads s then leaderStep s1 else s

/-- A request to the leader that no message of R341 names: to commit a move entry (R353). A member that does not lead proposes
the map with it to the leader, which takes it as a request (log 42). -/
def askMove (s : State) (v : Move) : State :=
  if leads s then leaderStep (onCell s fun c => { c with moves := c.moves.filter (· ≠ v) ++ [v] })
  else match leaderOf s.cell.map none with
    | some p =>
      let m := putMove s.cell.map v
      sayCell s (cellMsg s (posDev s p) 0x04 0x3F (mapBytes { m with epoch := m.epoch + 1 }) (some (m.epoch + 1)))
    | none => s

/-! ## Answers -/

/-- A map has come in answer to JOIN or MAP_READ (R342, R344). -/
def mapCame (s : State) (a : Answer) : State :=
  match (if a.status = stOk then mapFrom a.payload else none) with
  | some m => leaderStep (adoptMap s m)
  | none => s

/-- An answer to COLLECT, or its loss (R343). -/
def collectCame (s : State) (p : Nat) (a : Answer) : State :=
  if !s.cell.collecting.contains p then s
  else
    let got := match (if a.status = stOk then mapFrom a.payload else none) with
      | some m => [(p, m)]
      | none => []
    leaderStep (onCell s fun c => { c with collecting := c.collecting.filter (· ≠ p), collect := c.collect ++ got })

/-- Entries of a journal from the answer to JOURNAL_READ: number, length, bytes. -/
def journalEntries : Nat → List Byte → List (Nat × List Byte)
  | 0, _ => []
  | n + 1, bs =>
    if bs.length < 10 then []
    else
      let len := leAt bs 8 2
      (leAt bs 0 8, byteSlice bs 10 len) :: journalEntries n (bs.drop (10 + len))

/-- The bytes of a journal entry in an answer. -/
def journalRecord (e : Nat × List Byte) : List Byte := natLe 8 e.1 ++ natLe 2 e.2.length ++ e.2

/-- The journal is read: SNP_DEV goes to every member (R306, R349 step 4). -/
def journalRead (s : State) (t : Tab (List Byte)) : State :=
  let ps := (List.range 64).filter (isLive s.cell.map)
  let s1 := onCell s fun c => { c with restored := some t }
  forAll ps devSnoop (onHome s1 fun h => { h with devWait := ps.map fun p => (p, s.clk.pilot, 0) })

/-- A part of the ward's journal has come; the next is asked for, or it is whole. A BUDDY that does not answer leaves it empty
(R350). -/
def journalCame (s : State) (a : Answer) : State :=
  if !s.cell.map.serving || s.cell.restored.isSome then s
  else if a.status ≠ stOk then journalRead s []
  else
    let t := forAll (journalEntries 4096 a.payload) (fun t e => tput [] t e.1 e.2) s.cell.readImage
    let s1 := onCell s fun c => { c with readImage := t }
    if a.result = BitVec.allOnes 64 then journalRead s1 t
    else
      let f := cellMsg s1 (posDev s1 (buddyOf s1.cell.map.nmem s1.cell.map.servePos)) 0x0D s1.cell.map.servePos []
      sendFabric s1 { f with jva := a.result } .journalRead

end Sys2Proof.Machine
end

