-- ==== Sys2Proof/Machine/FlagWait.lean ====
section
/-! DEFINITION. Class 0x7 but for FLAGCAS: crew counters and FLAGWAIT (R114, R125); class 0xB, fences (R114, R127). -/

namespace Sys2Proof.Machine

/-- A counter of a crew. -/
def crewCount (it : Item) (k : Nat) : BitVec 32 := tget 0 it.c (k % 8)

/-- CNTADD. -/
def execCntadd (t : ThreadRef) (w : BitVec 64) (s : State) : Ans :=
  issue s t w 7 0 fun it th =>
    let old := crewCount it (wImm w)
    let s1 := onThread s t fun x => nextPc (setS x (wDst w) (old.setWidth 64))
    .next (onItem s1 t.item fun x => { x with c := tput 0 x.c (wImm w % 8) (old + (sReg th (wSa w)).truncate 32) })

/-- CNTWAIT: the thread goes on when c − sSA, modulo 2^32, lies below 2^31; else it waits, and the command is given again. -/
def execCntwait (t : ThreadRef) (w : BitVec 64) (s : State) : Ans :=
  issue s t w 7 1 fun it th =>
    if (crewCount it (wImm w) - (sReg th (wSa w)).truncate 32).toNat < 2 ^ 31 then .next (onThread s t nextPc) else .next s

/-- CNTRD. -/
def execCntrd (t : ThreadRef) (w : BitVec 64) (s : State) : Ans :=
  issue s t w 7 2 fun it _ => .next (onThread s t fun x => nextPc (setS x (wDst w) ((crewCount it (wImm w)).setWidth 64)))

/-- The line of this module that a JVA's byte lies in, as the places read for it show. -/
def hereLine (srcs : List Src) : Option Nat :=
  match srcs.headD (.far 0) with
  | .here a => some (lineOf a)
  | _ => none

/-- FLAGWAIT (R125): a match ends it at once; else the home of a line of this module watches it while it has one of 1,024
watches, and any other line is polled. -/
def execFlagwait (t : ThreadRef) (w : BitVec 64) (s : State) : Ans :=
  issue s t w 7 3 fun _ th =>
    let a := (sReg th (wSa w)).toNat
    let v := (sReg th (wSb w)).toNat % 256
    let (s1, g) := readJva s t.item t.n 0 a 1
    onGot s1 t a g fun (bs, srcs) =>
      let s2 := chargeReads s1 t.item srcs
      if (bs.headD 0).toNat = v then .next (endFlagWait s2 t (wDst w) true)
      else
        match hereLine srcs with
        | some l =>
          if (sliceAt s2 (lineHearth l)).watches.length < 1024 then
            .next (onSlice (onThread s2 t fun x => { x with wait := .flag a v (wDst w) s.clk.pilot (wImm19 w) none }) (lineHearth l)
              fun x => { x with watches := x.watches ++ [(l, t)] })
          else .next (onThread s2 t fun x => { x with wait := .flag a v (wDst w) s.clk.pilot (wImm19 w) (some 0) })
        | none => .next (onThread s2 t fun x => { x with wait := .flag a v (wDst w) s.clk.pilot (wImm19 w) (some 0) })

/-- Microseconds from the start of the wait to poll `k`: 1 µs, then intervals that double up to 64 µs (R125). -/
def pollUs (k : Nat) : Nat := if k < 7 then 2 ^ (k + 1) - 1 else 127 + 64 * (k - 6)

/-- FLAGWAIT_POLL: the thread rereads the line. -/
def execFlagwaitPoll (t : ThreadRef) (s : State) : Ans :=
  match (threadOf s t).wait with
  | .flag a v dst since limit (some k) =>
    if !usPassed since s.clk.pilot (pollUs k) then notEnabled s
    else
      let (s1, g) := readJva s t.item t.n 0 a 1
      match g with
      | .wait => .next s1
      | .bad st => .next (onThread (fault s1 t (faultCode st) a) t fun x => { x with wait := .none })
      | .ok (bs, srcs) =>
        let s2 := chargeReads s1 t.item srcs
        if (bs.headD 0).toNat = v then .next (endFlagWait s2 t dst true)
        else .next (onThread s2 t fun x => { x with wait := .flag a v dst since limit (some (k + 1)) })
  | _ => notEnabled s

/-- FLAGWAIT_TIMEOUT: IMM19 pt have passed without a match. -/
def execFlagwaitTimeout (t : ThreadRef) (s : State) : Ans :=
  match (threadOf s t).wait with
  | .flag _ _ dst since limit _ =>
    if limit ≠ 0 && since + limit ≤ s.clk.pilot then .next (endFlagWait s t dst false) else notEnabled s
  | _ => notEnabled s

/-! ## Fences -/

/-- An issuer is thread `t`: a store, an atomic, or a line or tile fetched for it. -/
def issuedBy (t : ThreadRef) : Issuer → Bool
  | .store x => x = t
  | .reply x => x = t
  | .line i k => i = t.item && k / 2 ^ 61 = t.n
  | _ => false

/-- Requests of a thread that have neither been acknowledged nor exhausted their retries, to one device or to any (R127,
R219). A tile fetch that has sent no request counts against this module. -/
def fenceOpen (s : State) (t : ThreadRef) (dev : Option Nat) : Bool :=
  (s.net.outs.any fun o => (issuedBy t o.issuer || o.followers.any (issuedBy t)) && dev.all (· = o.f.dstDev)) ||
  (s.net.waitSync.any fun w => issuedBy t w.2.2 && dev.all (· = w.2.1.dstDev)) ||
  (s.net.reissue.any fun x => !x.2.2 && issuedBy t x.2.1 && dev.all (· = x.1.dstDev)) ||
  (dev.all (· = selfDev s) && match itemOf s t.item with
    | some it => it.fetches.any fun f => f.thread = t.n && f.st == .fetching
    | none => false)

/-- A fence returns the number of failed requests it covers, which no later fence counts again (R127). -/
def endFence (s : State) (t : ThreadRef) (dst : Nat) (dev : Option Nat) : State :=
  onThread s t fun x =>
    let hit := fun d => dev.all (· = d)
    nextPc { setS x dst (BitVec.ofNat 64 (x.fails.filter hit).length) with fails := x.fails.filter (!hit ·), wait := .none }

/-- A fence of a thread begins; with nothing outstanding it returns at once. -/
def fenceOp (s : State) (t : ThreadRef) (w : BitVec 64) (opc : Nat) (dev : Thread → Option Nat) : Ans :=
  issue s t w 0xB opc fun _ th =>
    if fenceOpen s t (dev th) then .next (onThread s t fun x => { x with wait := .fence (wDst w) (dev th) })
    else .next (endFence s t (wDst w) (dev th))

/-- FENCE of a thread. -/
def execFenceInstr (t : ThreadRef) (w : BitVec 64) (s : State) : Ans := fenceOp s t w 0 fun _ => none

/-- FENCED: requests to device sSA[13:0] only. -/
def execFenced (t : ThreadRef) (w : BitVec 64) (s : State) : Ans :=
  fenceOp s t w 1 fun th => some ((sReg th (wSa w)).toNat % 2 ^ 14)

end Sys2Proof.Machine
end

