-- ==== Sys2Proof/Machine/Lost.lean ====
section
/-! DEFINITION. What a serving spare does with the slots of a window that survived its member (R104, R147). The window itself has no
context any more; its slots are looked at one by one as their flag lines can be written. -/

namespace Sys2Proof.Machine

/-- The pin that a lost item held is given back (R147). Which of the two counters it raised is known where one alone is not zero;
where both are not, the parity of its VERSION is a free value (log 39). True once nothing is left to do. -/
def unpinLost (s : State) (job jva : Nat) : State × Bool :=
  match xlate s job jva 2 with
  | (.need _, s1) => (s1, false)
  | (.ok m _, s1) =>
    if mpaDev m ≠ selfDev s1 then (s1, true)
    else
      let l := lineOf (mpaLpa m)
      match prepRead s1 l with
      | (s2, false) => (s2, false)
      | (s2, true) =>
        match prepWrite s2 l false with
        | (s3, false) => (s3, false)
        | (s3, true) =>
          let bs := lineBytes s3 l
          let p0 := leAt bs 56 4
          let p1 := leAt bs 60 4
          if isPoisoned s3 l || (p0 = 0 && p1 = 0) then (s3, true)
          else
            let (s4, d) := if p0 = 0 || p1 = 0 then (s3, 0) else draw s3
            let odd := if p0 = 0 then true else if p1 = 0 then false else (Config.freeWord d).getLsbD 0
            let o := if odd then 60 else 56
            (applyWrite s4 l (overlay bs o (natLe 4 (leAt bs o 4 - 1))) false, true)
  | (_, s1) => (s1, true)

/-- A slot of a surviving window (R104): found TAKEN it is FAILED with UNKNOWN_OUTCOME, END 0b10 and PLACE + 1; found POSTED it is
detected anew. A pin held by the lost item goes first. -/
def lookLost (s : State) (c i : Nat) : State :=
  match (ctxOf s c).win with
  | none => s
  | some w =>
    let done := fun (s : State) => onWin s c fun x => { x with lostQ := x.lostQ.filter (· ≠ i) }
    let l := lineOf (slotLpa w i)
    match flagReady s w i with
    | (s1, false) => s1
    | (s1, true) =>
      if isPoisoned s1 l then done s1
      else if slotFlag s1 w i = 1 then detectPost (done s1) c i w
      else if slotFlag s1 w i ≠ 2 then done s1
      else
        let op := slotNat s1 w i 2 2
        let (s2, free) := if op = 0x20 || op = 0x21 then unpinLost s1 (ctxOf s1 c).job (slotNat s1 w i 32 8) else (s1, true)
        if !free then s2
        else
          let bs := overlay (flagLineWith s2 w i stUnknown 2 (slotNat s2 w i 14 2) 4) 22
            (natLe 2 ((slotNat s2 w i 22 2 + 1) % 65536))
          done (homeStore s2 l bs false false)

/-- Every slot still to be looked at is tried once. -/
def lookLosts (s : State) : State :=
  forAll s.ctx (fun s e => match e.2.win with
    | some w => forAll w.lostQ (fun s i => lookLost s e.1 i) s
    | none => s) s

end Sys2Proof.Machine
end

