-- ==== Sys2Proof/Machine/Resume.lean ====
section
/-! DEFINITION. How the module's own requests end (R216, R235, R263), the responses that arrive, and `settle`: what goes on
once a command has ended what others wait for. -/

namespace Sys2Proof.Machine

/-- An answer that counts as served (R205). -/
def servedSt (st : Nat) : Bool := st = stOk || st = stMoved

/-- A failed request of a thread counts for its next fence (R127, R219). -/
def threadFails (s : State) (t : ThreadRef) (st dev : Nat) : State :=
  if isFenceFailure st then onThread s t fun x => { x with fails := x.fails ++ [dev] } else s

/-- A line or tile that was asked for an item has come, or failed. -/
def lineCame (s : State) (i : ItemId) (key : Nat) (f : Frame) (a : Answer) : State :=
  let tag := BitVec.ofNat 8 (a.result.toNat % 256)
  if servedSt a.status then onItem s i fun it => { it with got := it.got.filter (·.1 ≠ key) ++ [(key, a.payload ++ [tag])] }
  else
    let s1 := threadFails s { item := i, n := key / 2 ^ 61 } a.status f.dstDev
    onItem s1 i fun it => { it with badPages := it.badPages ++ [(key, a.status)] }

/-- A walker read has its answer (R265). -/
def walkCame (s : State) (k : Nat) (a : Answer) : State :=
  match walkOf s k with
  | none => s
  | some w =>
    if servedSt a.status then onWalk s k fun x => { x with line := some (walkEntry w / 64 * 64, a.payload) }
    else if a.status = stPoison then stopWalk (countTrn s 2) w 7 w.level 0
    else if a.status = stTimeout || a.status = stUnknown then abandonWalk s w stTimeout
    else stopWalk s w 4 w.level 0

/-- An A or D update on another module has its answer (R267). -/
def updateCame (s : State) (k : Nat) (a : Answer) : State :=
  match walkOf s k with
  | none => s
  | some w =>
    match w.update, jobEntry s w.job with
    | some old, some (_, e) =>
      if a.status = stTimeout || a.status = stUnknown then abandonWalk s w stTimeout
      else if !servedSt a.status then stopWalk s w 4 w.level old
      else if a.result.toNat ≠ old then restartWalk s e k
      else
        let (s1, ws) := endWalk s w (some (leafFrom w.job w.jva w.level (adSet old w.acc)))
        goOn s1 ws
    | _, _ => s

/-- A contribution or delivery has its answer (R246). -/
def groupCame (s : State) (lpa j : Nat) (up : Bool) (a : Answer) : State :=
  if up && (a.status = stTimeout || a.status = stUnknown) then failRound s lpa j a.status false else s

/-- Who asked learns how the request ended. -/
def finishOut (s : State) (who : Issuer) (f : Frame) (a : Answer) : State :=
  match who with
  | .partner r => answer s r { a with result := if isReadReq r.f then 0 else a.result }
  | .line i key => lineCame s i key f a
  | .store t => threadFails s t a.status f.dstDev
  | .reply t =>
    onThread (threadFails s t a.status f.dstDev) t fun x => { x with reply := some (a.status, a.result), wait := .none }
  | .itemStore i =>
    let s1 := if servedSt a.status then s
      else onItem s i fun it => if it.result.isSome then it else { it with
        result := some { status := faultCode a.status, faultJva := f.jva.toNat } }
    if f.typ = tScatter && !servedSt a.status then onItem s1 i fun it => setCnt it 3 (itCnt it 3 - 1) else s1
  | .publish i => endItem s i (publishResult a)
  | .needs h c i => onSchedN s h fun x => { x with
      queue := updFirst (fun q => q.ctx = c && q.slot = i)
        (fun q => { q with asked := false, got := some (if servedSt a.status then some a.payload else none) }) x.queue }
  | .walk k => walkCame s k a
  | .adUpdate k => updateCame s k a
  | .table m => onTrn s fun t => { t with
      tableLines := t.tableLines.filter (·.1 ≠ m) ++ [(m, if servedSt a.status then a.payload else [BitVec.ofNat 8 a.status])] }
  | .contrib g j => groupCame s g j true a
  | .deliver g j => groupCame s g j false a
  | .copyUpd l => copyAcked s l a
  | .journal _ => journalAcked s a
  | .journalRead => journalCame s a
  | .joinAsked => mapCame s a
  | .mapAsked => mapCame s a
  | .collect p => collectCame s p a
  | .moveLine k => if a.status = stOk then s else onCell s fun c => { c with sent := c.sent.filter (· ≠ k) }
  | .rebuild p lpa => repairCame s (lineOf lpa) p a
  | .snoop => s

/-! ## Mismatches -/

/-- The item behind an issuer. -/
def itemBehind : Issuer → Option ItemId
  | .line i _ => some i
  | .store t => some t.item
  | .reply t => some t.item
  | .itemStore i => some i
  | .publish i => some i
  | _ => none

/-- The request was sent once more after a mismatch (R263). -/
def wasReissued (s : State) (f : Frame) (who : Issuer) : Bool :=
  s.net.reissue.any fun x => x.2.2 && x.2.1 == who && x.1.jva = f.jva

/-- The mark of a reissue is let go. -/
def dropReissue (s : State) (f : Frame) (who : Issuer) : State :=
  onNet s fun n => { n with reissue := n.reissue.filter fun x => !(x.2.2 && x.2.1 == who && x.1.jva = f.jva) }

/-- The entry module's own cache entry for a page goes (R263). -/
def dropLeaf (s : State) (job jva : Nat) : State :=
  onTrn s fun t => { t with leaves := t.leaves.filter fun l => !leafCovers job jva l }

/-- The entries of a request's page go, for a tile those of all its pages (R263, R276, log 51). -/
def dropLeaves (s : State) (f : Frame) : State :=
  if isTileReq f then forAll [0, 1, 2, 3] (fun s k => dropLeaf s f.job (f.jva.toNat / 16384 * 16384 + 4096 * k)) s
  else dropLeaf s f.job f.jva.toNat

/-- One issuer meets the end of its request; a first mismatch has the request translated again (R263). -/
def endFor (s : State) (f : Frame) (a : Answer) (who : Issuer) : State :=
  let mismatch := a.status = stUnmapped && a.info.getLsbD 0
  if !mismatch then finishOut (dropReissue s f who) who f a
  else if wasReissued s f who then finishOut (dropReissue s f who) who f a
  else
    let s1 := dropLeaves s f
    match who with
    | .partner r => partnerBody (onNet s1 fun n => { n with reissue := n.reissue ++ [(f, who, true)] }) r
    | _ => if (itemBehind who).isSome then onNet s1 fun n => { n with reissue := n.reissue ++ [(f, who, false)] }
           else finishOut s1 who f a

/-- A request that is to be translated again (R263): none while its translation waits. An access that now meets this module is
given again by its own command, a store is made at its home. -/
def reissueOne (s : State) (x : Frame × Issuer × Bool) : State × Bool :=
  let (f, who, _) := x
  match (itemBehind who).bind (itemOf s) with
  | none => (s, true)
  | some it =>
    match stoveXlate s it f.jva.toNat (reqAcc f) with
    | (s1, .wait) => (s1, false)
    | (s1, .bad st) => (finishOut s1 who f (plain st), true)
    | (s1, .ok (m, _)) =>
      let old := f.mpa.toNat
      let g := { f with mpa := BitVec.ofNat 64 m, dstDev := mpaDev m, cell := mpaDev m / 64, epoch := epochOf s1 (mpaDev m / 64),
                        sync := false, retry := false }
      if mpaDev m = selfDev s1 then
        (match who with
          | .store _ => (serveHome s1 { f := { g with srcCtx := 0xFFFF } }, true)
          | .itemStore _ => (serveHome s1 { f := { g with srcCtx := 0xFFFF } }, true)
          | .reply t => (onThread s1 t fun y => { y with wait := .none }, true)
          | _ => (s1, true))
      else
        let who1 := match who with | .line i k => .line i (k + m - old) | w => w
        (sendFabric (onNet s1 fun n => { n with reissue := n.reissue ++ [(g, who1, true)] }) g who1, true)

/-- Every request that waits to be translated again is tried once. -/
def tryReissues (s : State) : State :=
  let (todo, sent) := s.net.reissue.partition fun x => !x.2.2
  forAll todo (fun s x => match reissueOne s x with
    | (s1, true) => s1
    | (s1, false) => onNet s1 fun n => { n with reissue := n.reissue ++ [x] })
    (onNet s fun n => { n with reissue := sent })

/-! ## The end of a request -/

/-- A request of this module ends (R216, R219, R235, R448): its issuer and followers learn of it; after UNKNOWN_OUTCOME the
space starts again with SYNC (R213). -/
def endOut (s : State) (o : Out) (a : Answer) : State :=
  let s1 := onNet s fun n => { n with outs := n.outs.filter (·.num ≠ o.num) }
  let s2 := if a.status = stUnknown then
      setSpace s1 { spaceOf s1 o.f.srcCtx (issuedFor o.f) with needSync := true } else s1
  let s3 := if kindOf o.f.typ = 3 then s2 else meter s2 o.f.job 2 (o.f.payload.length + a.payload.length)
  forAll (o.issuer :: o.followers) (fun s w => endFor s o.f a w) s3

/-- One more transmission of a request, with its number and RETRY (R216); fragments of answers to earlier ones stay (R218). -/
def sendAgain (s : State) (o : Out) : State :=
  let f := { o.f with retry := true, epoch := epochOf s o.f.cell }
  let o1 := { o with f := f, tries := o.tries + 1, sentPt := s.clk.pilot }
  transmit (onNet s fun n => { n with outs := updFirst (·.num = o.num) (fun _ => o1) n.outs }) o1

/-- A request that had BUSY, or no answer in time, is sent again or ends with TIMEOUT (R216). -/
def againOrEnd (s : State) (o : Out) : State :=
  if o.tries < s.cfg.retries then sendAgain s o else endOut s o (plain stTimeout)

/-! ## What goes on -/

/-- A request set aside may be tried: its line is free, or what it asked for has come. -/
def parkReady (s : State) (m : Nat) : Bool :=
  m = 2 ^ 63 || (m = 2 ^ 64 && !s.auth.bufs.any (·.2.state = 3)) ||
    m ≠ 2 ^ 64 && (if mpaDev m = selfDev s then
       let l := lineOf (mpaLpa m)
       (txOf s l).isNone && (lockOf s l).isNone
     else s.trn.tableLines.any (·.1 = m / 64 * 64) || !outstanding s (· == .table (m / 64 * 64)))

/-- Every request set aside that may be tried is. -/
def tryParked (s : State) : State :=
  let ps := s.trn.parked
  forAll ps (fun s p =>
    if parkReady s p.2 then resume s p.1 else onTrn s fun t => { t with parked := t.parked ++ [p] })
    (onTrn s fun t => { t with parked := [] })

/-- Requests that waited for a copy of a region that has ended, or for lines to be taken back, are served (R325, R327). -/
def tryRegions (s : State) : State :=
  forAll s.ext.regions (fun s e => match tget none s.ext.regions e.1 with
    | some g => if g.copying.isSome || g.waiters.isEmpty then s
        else forAll g.waiters (fun s r => serveAny s r) (onRegion s e.1 fun x => { x with waiters := [] })
    | none => s) s

/-- A context whose close has begun has nothing left (R209): its window is closed, its requests answered. -/
def ctxQuiet (s : State) (c : Nat) : Bool :=
  (ctxOf s c).win.isNone && (tget [] s.net.legs c).all (·.ended) &&
    !(s.net.outs.any fun o => o.f.srcCtx = c && o.f.srcDev = selfDev s && !isInternal o.f && kindOf o.f.typ ≠ 3 && o.f.job ≠ 0) &&
    !(s.net.waitSync.any fun w => w.2.1.srcCtx = c && w.2.1.job ≠ 0) &&
    !(s.stv.items.any fun it => it.ctx = c)

/-- A closing context with nothing left closes (R209): its sequence state is freed, and its CTX_CLOSE answered. A later context
of the number starts its fabric spaces with SYNC after the last numbers (log 32). -/
def closeQuiet (s : State) (c : Nat) : State :=
  match (ctxOf s c).closing with
  | none => s
  | some q =>
    if !ctxQuiet s c then s
    else
      let s1 := onNet (onCtx s fun t => tput {} t c {}) fun n => { n with
        pwin := tput none n.pwin c none, legs := tput [] n.legs c []
        asms := n.asms.filter fun b => !(b.key.1 = 0 && b.key.2.1 = c)
        dropped := n.dropped.filter fun k => !(k.1 = 0 && k.2.1 = c)
        spaces := n.spaces.map fun x => if x.ctx = c && c ≠ 0 then { x with needSync := true } else x }
      match q with
      | some r => sendResponse s1 r (plain stOk)
      | none => s1

/-- Every INVAL with nothing left in its range is answered (R225). -/
def answerInvals (s : State) : State :=
  forAll s.trn.inval (fun s x =>
    let r := x.1
    let closing := s.ctx.any fun e => e.2.job = r.f.job && (match e.2.win with
      | some w => w.state = 2 && x.2.1 < w.base + winBytes w && w.base < x.2.2.1
      | none => false)
    if closing || spanBusy s r.f.job x.2.1 x.2.2.1 then s
    else answer (onTrn s fun t => { t with inval := t.inval.filter (· ≠ x) }) r (plain stOk)) s

/-- A Hearth has a crew seated or a slot queued (R406). -/
def hearthBusy (s : State) (h : Nat) : Bool :=
  s.stv.items.any (·.hearth = h) || !(schedOf s h).queue.isEmpty || !(schedOf s h).pend.isEmpty

/-- Since when each Hearth's Stove group has been idle: the Pilot count plus 1, or 0 while it is busy (R406). -/
def noteIdle (s : State) : State :=
  onPwr s fun p => { p with
    idleSince := forAll (List.range 8) (fun t h =>
      if hearthBusy s h then tput 0 t h 0 else if tget 0 t h = 0 then tput 0 t h (s.clk.pilot + 1) else t) p.idleSince }

/-- What can go on after a command does. -/
def settle (s : State) : State :=
  let s1 := tryRegions (tryParked (tryReissues (releaseHeld s)))
  let s2 := lookLosts (finishSlots s1)
  let s3 := forAll s2.ctx (fun s e => closeQuiet (finishWindow s e.1) e.1) s2
  noteIdle (syncJournal (answerInvals s3))

/-! ## Responses -/

/-- The outstanding request that a response answers: by its type, context, number and tag, first from the device asked. -/
def matchOut (s : State) (f : Frame) : Option Out :=
  let hit := fun (o : Out) => o.f.typ + 128 = f.typ && o.f.srcCtx = f.srcCtx && o.f.seq = f.seq && o.f.tag = f.tag &&
    o.f.job = f.job
  match s.net.outs.find? fun o => hit o && o.f.dstDev = f.srcDev with
  | some o => some o
  | none => s.net.outs.find? hit

/-- A response's epoch is adopted where it is later than the one held (R221): the full epoch that STALE_EPOCH and MOVED carry
(R202), else its low 8 bits. This cell's own moves by commit alone. -/
def adoptEpoch (s : State) (f : Frame) : State :=
  let held := tget 0 s.net.epochs f.cell
  let full := f.status = stStaleEpoch || f.status = stMoved
  let d := if full then (f.opa.toNat % 2 ^ 32 + 2 ^ 32 - held % 2 ^ 32) % 2 ^ 32 else (f.epoch + 256 - held % 256) % 256
  if f.cell ≠ s.boot.cell && 1 ≤ d && d < (if full then 2 ^ 31 else 128) then
    onNet s fun n => { n with epochs := tput 0 n.epochs f.cell ((held + d) % 2 ^ 32) } else s

/-- The answer that a response carries. -/
def answerOf (f : Frame) (bs : List Byte) : Answer :=
  { status := f.status, result := f.jva, hint := f.mpa, info := f.opa, payload := bs, origin := some (f.srcDev, f.epoch) }

/-- A response for one of this module's requests (R205, R216, R218). One that is answered NO_STAGE is restarted once with a new
number (log 33). -/
def responseCame (s : State) (f : Frame) : State :=
  match matchOut s f with
  | none => countDiscard s 1
  | some o =>
    let s1 := adoptEpoch s f
    if f.status = stBusy then againOrEnd s1 o
    else if f.status = stNoStage && !o.reissued then
      let s2 := onNet s1 fun n => { n with outs := n.outs.filter (·.num ≠ o.num) }
      let k := s2.net.nextOut
      let s3 := sendFabric s2 { o.f with retry := false, sync := false } o.issuer
      onNet s3 fun n => { n with outs := updFirst (·.num = k) (fun x => { x with reissued := true, followers := o.followers }) n.outs }
    else if f.payload.isEmpty || f.fragsM1 = 0 then endOut s1 o (answerOf f f.payload)
    else if o.frags.any (·.1 = f.frag) || f.fragsM1 < f.frag then s1
    else
      let fs := o.frags ++ [(f.frag, f.payload)]
      if fs.length = f.fragsM1 + 1 then endOut s1 o (answerOf f (joinFrags fs.length fs))
      else onNet s1 fun n => { n with outs := updFirst (·.num = o.num) (fun x => { x with frags := fs }) n.outs }

/-- RESPONSE_RECEIVE (R200, R202, R203, R216). -/
def execResponseReceive (a : Arrival) (f : Frame) (s : State) : Ans :=
  if !isResponse f || f.typ = tHello + 128 || !(linkOf s a.link).up || (f.leg && f.dstDev ≠ selfDev s) then notEnabled s
  else
    let s1 := countLink s a.link 1
    if !isService a.link && (linkOf s a.link).hello.isNone then .next (countDiscard s1 5)
    else if f.len ≠ f.payload.length || payloadLimit s a.link < f.len then .next (countDiscard s1 4)
    else if s.cfg.hopsMax ≤ f.hops then .next (countLink s1 a.link 8)
    else if !f.leg then .next (countDiscard s1 1)
    else .next (settle (responseCame s1 f))

/-- RETRANSMIT_TIMEOUT (R216): of the request with number `k`. -/
def execRetransmitTimeout (k : Nat) (s : State) : Ans :=
  match s.net.outs.find? (·.num = k) with
  | none => notEnabled s
  | some o => if retxDue s o.sentPt then .next (settle (againOrEnd s o)) else notEnabled s

/-- FENCE_COUNT_ZERO (R127, R219, R220). -/
def execFenceCountZero (r : FenceRef) (s : State) : Ans :=
  match r with
  | .thread t =>
    (match (threadOf s t).wait with
      | .fence dst dev => if fenceOpen s t dev then notEnabled s else .next (endFence s t dst dev)
      | _ => notEnabled s)
  | .partner c q =>
    match s.net.fences.find? fun x => x.ctx = c && x.seq = q with
    | some x => if fenceDone s x then .next (settle (endPartnerFence s x)) else notEnabled s
    | none => notEnabled s

/-- FENCE_GAP_TIMEOUT (R220): numbers missing for 450 µs count as failures. -/
def execFenceGapTimeout (ctx seq : Nat) (s : State) : Ans :=
  match s.net.fences.find? fun x => x.ctx = ctx && x.seq = BitVec.ofNat 32 seq with
  | none => notEnabled s
  | some x =>
    let gone := missingBefore s ctx x.seq
    if gone.isEmpty || !usPassed x.sincePt s.clk.pilot 450 then notEnabled s
    else
      let y := { x with missing := gone }
      let s1 := onNet s fun n => { n with fences := updFirst (· == x) (fun _ => y) n.fences }
      .next (if fenceDone s1 y then settle (endPartnerFence s1 y) else s1)

/-- ASSEMBLY_TIMEOUT (R218): buffer `k`, not complete 1,024 pt after its first fragment. -/
def execAssemblyTimeout (k : Nat) (s : State) : Ans :=
  match nth none (s.net.asms.map some) k with
  | none => notEnabled s
  | some b =>
    if b.sincePt + 1024 ≤ s.clk.pilot then
      .next (onNet s fun n => { n with
        asms := dropFirst (· == b) n.asms, dropped := lastN 4096 (n.dropped.filter (· ≠ b.key) ++ [b.key]) })
    else notEnabled s

/-- EPOCH_HOLD_TIMEOUT (R221): held request `k` is answered BUSY after 1,024 pt. -/
def execEpochHoldTimeout (k : Nat) (s : State) : Ans :=
  match nth none (s.net.held.map some) k with
  | none => notEnabled s
  | some h =>
    if h.2 + 1024 ≤ s.clk.pilot then
      .next (turnAway (onNet s fun n => { n with held := dropFirst (· == h) n.held }) h.1 stBusy)
    else notEnabled s

end Sys2Proof.Machine
end

