-- ==== Sys2Proof/Machine/Requests.lean ====
section
/-! DEFINITION. The commands that are a request of another module or of a partner arriving (R203): memory, leases, snapshots,
groups, coherence, fences and INVAL; and what ends a wait at the homes. -/

namespace Sys2Proof.Machine

/-- The frame is on its way to another module: TRANSIT_FRAME's. -/
def inTransit (s : State) (f : Frame) : Bool := f.leg && f.dstDev ≠ selfDev s

/-- A request of a type arrives for this module; a frame of another type is not this command's (log 16). -/
def takeReq (s : State) (a : Arrival) (f : Frame) (mine : Bool) : Ans :=
  if !mine || inTransit s f || !(linkOf s a.link).up then notEnabled s else .next (settle (enter s a f))

/-- READ (R204). -/
def execRead (a : Arrival) (f : Frame) (s : State) : Ans := takeReq s a f (f.typ = tRead)

/-- WRITE (R204). -/
def execWrite (a : Arrival) (f : Frame) (s : State) : Ans := takeReq s a f (f.typ = tWrite)

/-- WRITE_PUSH (R204). -/
def execWritePush (a : Arrival) (f : Frame) (s : State) : Ans := takeReq s a f (f.typ = tWritePush)

/-- TILE_READ (R204). -/
def execTileRead (a : Arrival) (f : Frame) (s : State) : Ans := takeReq s a f (f.typ = tTileRead)

/-- TILE_WRITE, or a fragment of one (R204, R218). -/
def execTileWrite (a : Arrival) (f : Frame) (s : State) : Ans := takeReq s a f (f.typ = tTileWrite)

/-- ATOMIC (R204). -/
def execAtomic (a : Arrival) (f : Frame) (s : State) : Ans := takeReq s a f (f.typ = tAtomic)

/-- SCATTER_UPDATE request (R156). -/
def execScatterUpdateRequest (a : Arrival) (f : Frame) (s : State) : Ans := takeReq s a f (f.typ = tScatter)

/-- PUBLISH request (R325). -/
def execPublishRequest (a : Arrival) (f : Frame) (s : State) : Ans := takeReq s a f (f.typ = tPublish)

/-- LEASE ACQUIRE (R318); a reserved LOP is answered MALFORMED here. -/
def execLeaseAcquire (a : Arrival) (f : Frame) (s : State) : Ans :=
  takeReq s a f (f.typ = tLease && !(2 ≤ lopOf f && lopOf f ≤ 4))

/-- LEASE RENEW (R319). -/
def execLeaseRenew (a : Arrival) (f : Frame) (s : State) : Ans := takeReq s a f (f.typ = tLease && lopOf f = 2)

/-- LEASE RELEASE (R319). -/
def execLeaseRelease (a : Arrival) (f : Frame) (s : State) : Ans := takeReq s a f (f.typ = tLease && lopOf f = 3)

/-- LEASE QUERY (R319). -/
def execLeaseQuery (a : Arrival) (f : Frame) (s : State) : Ans := takeReq s a f (f.typ = tLease && lopOf f = 4)

/-- SNAP CREATE (R323); a reserved SOP is answered MALFORMED here. -/
def execSnapCreate (a : Arrival) (f : Frame) (s : State) : Ans :=
  takeReq s a f (f.typ = tSnap && !(2 ≤ sopOf f && sopOf f ≤ 5))

/-- SNAP OPEN (R329). -/
def execSnapOpen (a : Arrival) (f : Frame) (s : State) : Ans := takeReq s a f (f.typ = tSnap && sopOf f = 2)

/-- SNAP CLOSE (R331). -/
def execSnapClose (a : Arrival) (f : Frame) (s : State) : Ans := takeReq s a f (f.typ = tSnap && sopOf f = 3)

/-- SNAP QUERY (R322). -/
def execSnapQuery (a : Arrival) (f : Frame) (s : State) : Ans := takeReq s a f (f.typ = tSnap && sopOf f = 4)

/-- SNAP DESTROY (R332). -/
def execSnapDestroy (a : Arrival) (f : Frame) (s : State) : Ans := takeReq s a f (f.typ = tSnap && sopOf f = 5)

/-- CONTRIB (R241). -/
def execContrib (a : Arrival) (f : Frame) (s : State) : Ans := takeReq s a f (f.typ = tContrib)

/-- DELIVER (R245). -/
def execDeliver (a : Arrival) (f : Frame) (s : State) : Ans := takeReq s a f (f.typ = tDeliver)

/-- A COH message arrives. -/
def takeCoh (s : State) (a : Arrival) (f : Frame) (m : Nat) : Ans := takeReq s a f (f.typ = tCoh && cohMsg f = m)

/-- COH RD_S (R295); a message that the table does not list is answered MALFORMED here (R293). -/
def execCohRdS (a : Arrival) (f : Frame) (s : State) : Ans :=
  takeReq s a f (f.typ = tCoh && (cohMsg f = 1 || !listedMsg (cohMsg f)))

/-- COH RD_X (R295). -/
def execRdX (a : Arrival) (f : Frame) (s : State) : Ans := takeCoh s a f 2

/-- COH UPGRADE (R295). -/
def execUpgrade (a : Arrival) (f : Frame) (s : State) : Ans := takeCoh s a f 3

/-- COH ATOM (R303). -/
def execAtom (a : Arrival) (f : Frame) (s : State) : Ans := takeCoh s a f 4

/-- COH EVICT_S (R295). -/
def execEvictS (a : Arrival) (f : Frame) (s : State) : Ans := takeCoh s a f 5

/-- COH EVICT_X (R295). -/
def execEvictX (a : Arrival) (f : Frame) (s : State) : Ans := takeCoh s a f 6

/-- COH WB (R295, R302). -/
def execWb (a : Arrival) (f : Frame) (s : State) : Ans := takeCoh s a f 7

/-- COH FETCH (R301). -/
def execFetch (a : Arrival) (f : Frame) (s : State) : Ans := takeCoh s a f 8

/-- COH ACK_I (R297, R299). -/
def execAckI (a : Arrival) (f : Frame) (s : State) : Ans := takeCoh s a f 0x10

/-- COH ACK_S (R297). -/
def execAckS (a : Arrival) (f : Frame) (s : State) : Ans := takeCoh s a f 0x11

/-- COH ACK_DATA_I (R297). -/
def execAckDataI (a : Arrival) (f : Frame) (s : State) : Ans := takeCoh s a f 0x12

/-- COH ACK_DATA_S (R297). -/
def execAckDataS (a : Arrival) (f : Frame) (s : State) : Ans := takeCoh s a f 0x13

/-- COH ACK_FWD (R300). -/
def execAckFwd (a : Arrival) (f : Frame) (s : State) : Ans := takeCoh s a f 0x14

/-- FENCE of a partner (R220). -/
def execFence (a : Arrival) (f : Frame) (s : State) : Ans := takeReq s a f (f.typ = tFence)

/-- INVAL (R225, R274). -/
def execInval (a : Arrival) (f : Frame) (s : State) : Ans := takeReq s a f (f.typ = tInval)

/-- UNSUPPORTED_TYPE (R203): a request whose TYPE is not listed. -/
def execUnsupportedType (a : Arrival) (f : Frame) (s : State) : Ans :=
  let l := a.link
  if isResponse f || f.typ ∈ listedTypes || inTransit s f || !(linkOf s l).up then notEnabled s
  else
    let s1 := countLink s l 1
    if !isService l && (linkOf s l).hello.isNone then .next (countDiscard s1 5)
    else if f.len ≠ f.payload.length || payloadLimit s l < f.len then .next (turnAway (countDiscard s1 4) { a := a, f := f } stMalformed)
    else if s.cfg.hopsMax ≤ f.hops then .next (countLink s1 l 8)
    else match headStatus s l f with
      | some st => .next (turnAway s1 { a := a, f := f } st)
      | none => .next (turnAway s1 { a := a, f := f } stUnsupported)

/-- FRAME_DAMAGED (R198, R199, R200): a frame is discarded and counted. -/
def execFrameDamaged (link : Nat) (why : Damage) (s : State) : Ans :=
  if !(linkOf s link).up then notEnabled s
  else match why with
    | .fcs => .next (countLink s link 2)
    | .udpChecksum => .next (countDiscard s 2)
    | .ipFragment => .next (countDiscard s 2)
    | .dstMac => .next (countDiscard s 3)
    | .length => .next (countDiscard s 4)

/-- TRANSIT_FRAME (R202, R231, R232, R248, R252): a fabric frame for another module goes on by its route. A red request, and one
that finds no path or room, is answered BUSY in the destination's place; any other frame is discarded. -/
def execTransitFrame (a : Arrival) (f : Frame) (s : State) : Ans :=
  let l := a.link
  if !inTransit s f || !(linkOf s l).up || isService l || linkRole s l = 3 then notEnabled s
  else
    let s1 := countLink s l 1
    let r : Req := { a := a, f := f }
    if (linkOf s l).hello.isNone then .next (countDiscard s1 5)
    else if f.len ≠ f.payload.length || payloadLimit s l < f.len then
      .next (if isResponse f then countDiscard s1 4 else turnAway (countDiscard s1 4) r stMalformed)
    else if s.cfg.hopsMax ≤ f.hops then .next (countLink s1 l 8)
    else
      let quiet := isResponse f || (f.typ = tCoh && 0x20 ≤ cohMsg f)
      let (s2, red) := if quiet then (s1, false) else police s1 a f
      if red then .next (turnAway s2 r stBusy)
      else match route s2 f (some l) with
        | (s3, .sent) => .next s3
        | (s3, .hopLimit) => .next s3
        | (s3, .noRoute) => .next (if quiet then s3 else turnAway s3 r stBusy)
        | (s3, .noRoom _) => .next (if quiet then s3 else turnAway s3 r stBusy)

/-! ## Timers of the homes -/

/-- SNOOP_TIMEOUT (R305): of a snoop of this home, of a delivery to an agent of this member, or of SNP_DEV. -/
def execSnoopTimeout (h line agent : Nat) (s : State) : Ans :=
  let own := (txOf s line).bind fun t => t.snoops.find? fun x => x.agent = agent && !x.pend && retxDue s x.sentPt
  match own with
  | some x => if lineHearth line = h then .next (settle (snoopLate s h line x)) else notEnabled s
  | none =>
    match s.home.deliveries.find? fun d =>
        lineOf (mpaLpa d.f.mpa.toNat) = line && agent = s.boot.pos * 128 + d.link && retxDue s d.sentPt with
    | some d => .next (settle (deliveryLate s d))
    | none =>
      match s.home.devWait.find? fun w => w.1 = agent && retxDue s w.2.1 with
      | some w =>
        if w.2.2 < s.cfg.retries then
          .next (devSnoop (onHome s fun x => { x with
            devWait := updFirst (· == w) (fun _ => (w.1, s.clk.pilot, w.2.2 + 1)) x.devWait }) w.1)
        else .next (onHome s fun x => { x with devWait := dropFirst (· == w) x.devWait })
      | none => notEnabled s

/-- ROW_LOCK_RELEASE (R156): the row's update is complete, within 2 µs; what waited for its lines is served. -/
def execRowLockRelease (h line : Nat) (s : State) : Ans :=
  match lockOf s line with
  | none => notEnabled s
  | some k =>
    if k.owner.isSome || lineHearth line ≠ h then notEnabled s
    else
      let s1 := onSlice s h fun x => { x with locks := dropFirst (· == k) x.locks }
      .next (settle (forAll k.waiters (fun s r => serveAny s r) s1))

end Sys2Proof.Machine
end

