-- ==== Sys2Proof/Machine/LinkRows.lean ====
section
/-! DEFINITION. Links: HELLO (R206, R207), links that train, go down or doze (R233, R418), the Damper's scheduler and gates
(R249 to R254), partner contexts (R208, R209). -/

namespace Sys2Proof.Machine

/-- The 64 bytes of a HELLO body (R206). -/
def helloBytes (h : Hello) : List Byte :=
  natLe 8 (h.maxrev % 16 + h.role % 4 * 2 ^ 4 + h.dev % 2 ^ 14 * 2 ^ 8 + h.cell % 2 ^ 12 * 2 ^ 24 + h.pos % 64 * 2 ^ 36 +
    h.flue % 32 * 2 ^ 48 + h.link % 4 * 2 ^ 53 + b2n h.fec * 2 ^ 55) ++
  natLe 8 (h.maxpay % 2 ^ 13) ++ natLe 8 h.features ++ natLe 8 h.serial ++ List.replicate 32 0

/-- A HELLO body read (R206). -/
def helloOf (bs : List Byte) : Hello :=
  let x := leNat (bs.take 64)
  { maxrev := fld x 0 4, role := fld x 4 2, dev := fld x 8 14, cell := fld x 24 12, pos := fld x 36 6, flue := fld x 48 5,
    link := fld x 53 2, fec := tbit x 55, maxpay := fld x 64 13, features := fld x 128 64, serial := fld x 192 64 }

/-- This module's own HELLO body on a link (R206, R374, R380). -/
def ownHello (s : State) (l : Nat) : Hello :=
  { maxrev := 2, role := s.boot.role, dev := s.boot.device, cell := s.boot.cell, pos := s.boot.pos, flue := flueOf l,
    link := if isService l then 0 else l % 4, fec := (flueEntry s l).fullFec,
    maxpay := if isService l then s.cfg.svcPayload else 4096, features := ownFeatures, serial := ownSerial s }

/-- A HELLO request leaves on a link (R206). -/
def sendHello (s : State) (l : Nat) : State :=
  sendOn s l { f := { tc := 7, typ := tHello, srcDev := selfDev s, payload := helloBytes (ownHello s l), len := 64, hops := 1 } }

/-- A HELLO body with a reserved ROLE or a payload limit out of range (R8, R206). -/
def helloBad (h : Hello) : Bool := 3 ≤ h.role || h.maxpay < 64 || 4096 < h.maxpay

/-- Why a peer's HELLO keeps the link down (R30, R207), with the record's code and data. -/
def helloRefused (s : State) (l : Nat) (h : Hello) : Option (Nat × List (Nat × List Byte)) :=
  let role := linkRole s l
  let fits := (role = 1 && h.role ≤ 1) || (role = 2 && h.role = 0) || (role = 3 && h.role = 2)
  let own := b2n (flueEntry s l).fullFec + 2 * b2n (flueEntry s l).quartered
  if !fits then some (0x0307, [(0, natLe 1 l), (1, natLe 1 role), (2, natLe 1 h.role)])
  else if h.maxrev = 0 || (role ≠ 3 && h.maxrev < 2) then some (0x0301, [(0, natLe 1 l), (1, natLe 1 h.maxrev)])
  else if role ≠ 3 && h.fec ≠ (flueEntry s l).fullFec then
    some (0x0302, [(0, natLe 1 l), (1, natLe 1 own), (2, natLe 1 (b2n h.fec + 2 * b2n (flueEntry s l).quartered))])
  else none

/-- A HELLO of the peer completes the negotiation, or keeps the link down with one record (R206, R207). -/
def peerHello (s : State) (l : Nat) (h : Hello) : State :=
  if (linkOf s l).hello.isSome then s
  else match helloRefused s l h with
    | none => onLink s l fun x => { x with hello := some h, helloSent := none }
    | some (code, d) =>
      if (linkOf s l).refused then s
      else ashLimited (onLink s l fun x => { x with up := false, refused := true, helloSent := none }) 3 (0x10 + flueOf l) code d

/-- HELLO (R206, R207, R223): the peer's body is learned, and a request is answered with the device's own. -/
def execHello (a : Arrival) (f : Frame) (s : State) : Ans :=
  let l := a.link
  let x := linkOf s l
  if !(f.typ = tHello || f.typ = tHello + 128) || !(x.up || x.refused) || (isService l && isResponse f) then notEnabled s
  else
    let s1 := countLink s l 1
    let reply := fun (s : State) (st : Nat) (bs : List Byte) =>
      let g := mkResponse s f { status := st, payload := bs }
      sendOn s l { f := { g with hops := 1 }, ip := a.ip, port := a.port, vlan := a.vlan }
    if f.len ≠ f.payload.length || f.payload.length ≠ 64 then
      .next (if isResponse f then countDiscard s1 4 else reply (countDiscard s1 4) stMalformed [])
    else if f.rev = 0 || 3 ≤ f.rev then
      .next (if isResponse f then s1 else reply s1 (if f.rev = 0 then stMalformed else stUnsupported) [])
    else if !isService l && helloBad (helloOf f.payload) then .next (if isResponse f then s1 else reply s1 stMalformed [])
    else if s.boot.phase < 9 || s.boot.phase = 12 then .next (if isResponse f then s1 else reply s1 stNotReady [])
    else
      let s2 := if isService l then s1 else peerHello s1 l (helloOf f.payload)
      .next (if isResponse f then s2 else reply s2 stOk (helloBytes (ownHello s2 l)))

/-- A link is enabled by the image (R374), its Flue group powered (R405), the module not asleep (R408). -/
def linkEnabled (s : State) (l : Nat) : Bool :=
  (flueEntry s l).en && (isService l || (linkRole s l ≠ 0 && ((flueEntry s l).quartered || l % 4 = 0))) &&
    s.pwr.domains.getLsbD (if isService l then 26 else 20 + l / 16) && (s.pwr.state = 0 || s.pwr.state = 5)

/-- LINK_TRAINED (R206, R207): a link has trained or retrained, and HELLO goes out; or its ends disagree on FEC mode or width,
and one record is written while it keeps retraining. -/
def execLinkTrained (link : Nat) (agrees : Bool) (s : State) : Ans :=
  if 96 ≤ link || !linkEnabled s link || (linkOf s link).up || s.boot.phase < 9 || s.boot.phase = 12 then notEnabled s
  else if !agrees then
    let own := b2n (flueEntry s link).fullFec + 2 * b2n (flueEntry s link).quartered
    .next (ashLimited s 3 (0x10 + flueOf link) 0x0302 [(0, natLe 1 link), (1, natLe 1 own), (2, natLe 1 0xFF)])
  else
    let s1 := onLink s link fun x => { x with
      up := true, dozing := false, hello := none, refused := false, helloSent := some s.clk.pilot, tx := none }
    .next (sendHello s1 link)

/-- HELLO_REPEAT (R206): every 1,024 pt until the peer's HELLO has come. -/
def execHelloRepeat (link : Nat) (s : State) : Ans :=
  let x := linkOf s link
  match x.helloSent with
  | some t =>
    if x.up && x.hello.isNone && t + 1024 ≤ s.clk.pilot then
      .next (sendHello (onLink s link fun x => { x with helloSent := some (t + 1024) }) link)
    else notEnabled s
  | none => notEnabled s

/-- SERVICE_FLUE_LINK_UP (R206): a service Flue is in use while its link is up. -/
def execServiceFlueLinkUp (link : Nat) (s : State) : Ans :=
  if !isService link || (linkOf s link).up || s.boot.phase < 5 || !linkEnabled s link then notEnabled s
  else .next (onLink s link fun x => { x with up := true, dozing := false })

/-! ## Links that go -/

/-- A frame that stood in the queue of a link that went down leaves by another path, or is handled as one that finds none
(R233). A frame of the partner leg has no other path. -/
def requeue (s : State) (l : Nat) (o : OutFrame) : State :=
  if !o.f.leg then countLink s l 7
  else match pickLink s o.f with
    | some k => if hasRoom s k o.f.tc o then enqueue s k o else countLink s k 6
    | none => noPath s o.f none

/-- A link is down (R209, R233): its queues are requeued, what it negotiated is gone, its contexts close. -/
def takeDown (s : State) (l : Nat) : State :=
  let x := linkOf s l
  let s1 := onLink s l fun x => { x with
    up := false, hello := none, helloSent := none, q := [], tx := none, deficit := [], lostPt := some s.clk.pilot }
  let s2 := forAll x.q (fun s e => forAll e.2 (fun s o => requeue s l o) s) s1
  forAll s2.ctx (fun s e => if e.2.isOpen && e.2.link = l then closeSilent s e.1 else s) s2

/-- LINK_DOWN (R233): with its cause (R479). -/
def execLinkDown (link : Nat) (cause : Nat) (s : State) : Ans :=
  if !(linkOf s link).up then notEnabled s
  else
    let s1 := ashLimited (takeDown s link) 3 (0x10 + flueOf link) 0x0303 [(0, natLe 1 link), (1, natLe 1 cause)]
    .next (settle s1)

/-- DOZE_NOTICE (R418): a link that went down is dozing. -/
def execDozeNotice (link : Nat) (s : State) : Ans :=
  if (linkOf s link).up || isService link || !linkEnabled s link then notEnabled s
  else .next (onLink s link fun x => { x with dozing := true })

/-- LINK_RETRAIN_TIMER (R380): links still down train again, once per second; a link that a HELLO kept down will exchange HELLO
again. -/
def execLinkRetrainTimer (s : State) : Ans :=
  if s.boot.phase ≠ 11 then notEnabled s
  else .next (onLinks s fun x => { x with tab := tmapAll {} (fun l => if l.up then l else { l with refused := false }) x.tab })

/-! ## The Damper -/

/-- FRAME_TX_END (R249): the frame has left, and the scheduler chooses the next. -/
def execFrameTxEnd (link : Nat) (s : State) : Ans :=
  match (linkOf s link).tx with
  | none => notEnabled s
  | some (_, o) =>
    let s1 := countLink (onLink s link fun x => { x with tx := none }) link 0
    .next (startNext (onLinks s1 fun x => { x with wire := x.wire ++ [(link, o)] }) link)

/-- GCL_INTERVAL_END (R253). -/
def execGclIntervalEnd (flue : Nat) (s : State) : Ans :=
  let g := tget {} s.chim.gates flue
  let d := (nth (0, 0) g.list g.cur).2
  if g.list.isEmpty || s.clk.chimney1024 / 1024 < g.curCyc + d then notEnabled s
  else
    let s1 := onChim s fun c => { c with
      gates := tput {} c.gates flue { g with cur := (g.cur + 1) % g.list.length, curCyc := g.curCyc + d } }
    .next (forAll (flueLinks s1 (if flue < 24 then 4 * flue else flue + 72)) startNext s1)

/-- GATE_LIST_AT (R254): at its count the new list is in force, from its entry 0. -/
def execGateListAt (flue : Nat) (s : State) : Ans :=
  let g := tget {} s.chim.gates flue
  match g.next with
  | none => notEnabled s
  | some (cyc, l) =>
    if s.clk.chimney1024 / 1024 < cyc then notEnabled s
    else
      let s1 := onChim s fun c => { c with gates := tput {} c.gates flue { list := l, cur := 0, curCyc := cyc, next := none } }
      .next (forAll (flueLinks s1 (if flue < 24 then 4 * flue else flue + 72)) startNext s1)

/-- SHAPER_ELIGIBLE (R250): the tokens of a class now suffice for its first frame. -/
def execShaperEligible (link cls : Nat) (s : State) : Ans :=
  if (linkOf s link).tx.isNone && classReady s link cls then .next (startNext s link) else notEnabled s

/-- PAUSE_FRAME (R229): discarded and counted. -/
def execPauseFrame (link : Nat) (s : State) : Ans :=
  if (linkOf s link).up then .next (countLink s link 11) else notEnabled s

/-! ## Contexts -/

/-- CTX_OPEN (R208). -/
def execCtxOpen (a : Arrival) (f : Frame) (s : State) : Ans := takeReq s a f (f.typ = tCtxOpen)

/-- CTX_CLOSE (R209). -/
def execCtxClose (a : Arrival) (f : Frame) (s : State) : Ans := takeReq s a f (f.typ = tCtxClose)

end Sys2Proof.Machine
end

