-- ==== Sys2Proof/Machine/WalkRows.lean ====
section
/-! DEFINITION. The commands of translation: reads of walks (R265), faults and their ring (R270 to R273). -/

namespace Sys2Proof.Machine

/-- WALK_READ_COMPLETE (R265): one read of walk `k`; accesses whose walk has ended go on. -/
def execWalkReadComplete (k : Nat) (ecc : Ecc) (s : State) : Ans :=
  match walkOf s k with
  | none => notEnabled s
  | some _ =>
    let (s1, ws) := walkRead s k ecc
    .next (settle (goOn s1 ws))

/-- What the translation of a fault ring needs first is begun (R270). -/
def fetchRing (s : State) (e : BitVec 512) : Nat → Nat → State
  | 0, _ => s
  | n + 1, i =>
    match xlate s (jobId e) (jobRing e + 64 * i) 1 with
    | (.need t, s1) => fetchNeed s1 (jobId e) 0 t
    | (_, s1) => fetchRing s1 e n (i + 1)

/-- A raised fault of a job that has no record yet, the oldest. -/
def unreported (s : State) (job : Nat) : Option PFault :=
  s.trn.faults.find? fun p => p.job = job && p.recLpa.isNone && p.answer.isNone

/-- One fault declined for want of a usable ring or record, and its queue entry freed (R270, R272). -/
def declineOne (s : State) (p : PFault) (why : Nat) : State :=
  dropFault (declineAll (recordDecline s p.job why) p.cause p.waiters) p.id

/-- FAULT_RECORD_WRITE (R270 to R272): the job's oldest unreported fault is written to the record at the ring's next index, once
that reads FREE. -/
def execFaultRecordWrite (job : Nat) (s : State) : Ans :=
  match unreported s job, jobEntry s job with
  | some p, some (i, e) =>
    (match ringNow s i e with
      | .unknown => .next (fetchRing s e (jobRingSlots e) 0)
      | .never why => .next (settle (declineOne s p why))
      | .ready r =>
        let a := nth 0 r.lpas (r.next % jobRingSlots e)
        let (s1, ready) := prepWrite s (lineOf a) true
        if !ready then .next s1
        else if isPoisoned s1 (lineOf a) then .next (settle (declineOne s1 p 4))
        else if readNat s1 a 1 ≠ 0 then .next s1
        else
          let s2 := devStore s1 a (faultRecord s1 p) false
          .next (onTrn s2 fun t => { t with
            rings := tput none t.rings i (some { r with next := (r.next + 1) % jobRingSlots e })
            faults := updFirst (·.id = p.id) (fun x => { x with recLpa := some a }) t.faults }))
  | _, _ => notEnabled s

/-- A fault by its number that has the partner's answer. -/
def answered (s : State) (id : Nat) (retry : Bool) : Option PFault :=
  s.trn.faults.find? fun p => p.id = id && p.answer = some retry

/-- The record of an answered fault is written FREE (R272 step 5): false while its line must be made ready. -/
def freeRecord (s : State) (p : PFault) : State × Bool :=
  match p.recLpa with
  | none => (s, true)
  | some a =>
    let (s1, ready) := prepWrite s (lineOf a) false
    if !ready then (s1, false)
    else if isPoisoned s1 (lineOf a) then (s1, true)
    else (devStore s1 a [0] false, true)

/-- FAULT_RETRY (R272 steps 3 and 5): every waiter walks again. -/
def execFaultRetry (id : Nat) (s : State) : Ans :=
  match answered s id true with
  | none => notEnabled s
  | some p =>
    match freeRecord s p with
    | (s1, false) => .next s1
    | (s1, true) =>
      let s2 := dropFault s1 id
      let again := fun (s : State) (w : Waiting) => match jobEntry s w.job with
        | some (_, e) => needWalk s e w
        | none => failWaiter s stDenied w
      .next (settle (forAll p.waiters again s2))

/-- FAULT_DECLINE (R272 steps 4 and 5): every waiter fails. -/
def execFaultDecline (id : Nat) (s : State) : Ans :=
  match answered s id false with
  | none => notEnabled s
  | some p =>
    match freeRecord s p with
    | (s1, false) => .next s1
    | (s1, true) => .next (settle (declineAll (dropFault s1 id) p.cause p.waiters))

/-- Every access that waits for translation: for a walker, in a walk, for a fault. -/
def allWaiting (s : State) : List Waiting :=
  s.trn.waiting ++ s.trn.walks.flatMap (·.waiters) ++ s.trn.faults.flatMap (·.waiters)

/-- An access waits no longer. -/
def unwait (s : State) (w : Waiting) : State :=
  onTrn s fun t => { t with
    waiting := t.waiting.filter (· ≠ w)
    walks := t.walks.map fun k => { k with waiters := k.waiters.filter (· ≠ w) }
    faults := t.faults.map fun p => { p with waiters := p.waiters.filter (· ≠ w) } }

/-- TRANSLATION_TIMEOUT (R273): the waiting access of number `k` ends with TIMEOUT; its fault stays raised for the others. The numbers
after those name the requests that wait for a site held in self-refresh (R47). -/
def execTranslationTimeout (k : Nat) (s : State) : Ans :=
  match nth none ((allWaiting s).map some) k with
  | none =>
    (match nth none (s.sites.waits.map some) (k - (allWaiting s).length) with
      | none => notEnabled s
      | some w =>
        if w.2 + ttoPt s w.1.f.job ≤ s.clk.pilot then
          .next (settle (countTrn (refuse (onSites s fun x => { x with waits := dropFirst (· == w) x.waits }) w.1 stTimeout) 6))
        else notEnabled s)
  | some w =>
    if w.since + ttoPt s w.job ≤ s.clk.pilot then .next (settle (countTrn (failWaiter (unwait s w) stTimeout w) 6)) else notEnabled s

end Sys2Proof.Machine
end

