-- ==== Sys2Proof/Machine/ExtentRows.lean ====
section
/-! DEFINITION. Leases that end, drains, copies of regions and zeroing (R312, R316, R320, R327, R331). -/

namespace Sys2Proof.Machine

/-- Numbers of the lines of a range of LPAs that hold a byte other than zero. -/
def linesIn (s : State) (lo hi : Nat) : List Nat :=
  ((s.mem.cells.filter fun e => lo ≤ e.1 && e.1 < hi).map fun e => e.1 / 64).eraseDups

/-- The copy member of a protected extent learns a line's change (R345). -/
def followCopy (s : State) (l : Nat) (old new : List Byte) : State :=
  if protOf s (l * 64) = 0 || old = new then s else sendCopy s l old new

/-- Tiles of a range of LPAs with a tag other than that of zeros. -/
def tagsIn (s : State) (lo hi : Nat) : Tab Tag := s.mem.tags.filter fun e => lo / 16384 ≤ e.1 && e.1 < hi / 16384

/-- A range of an extent zeroed through its protection (R41, R312, R345). -/
def zeroThrough (s : State) (lo n : Nat) : State :=
  let s1 := if protOf s lo = 0 then s
    else
      let s0 := if n % 16384 = 0 then forAll (tagsIn s lo (lo + n)) (fun s e => setTagAt s (e.1 * 256) (.fmt 0)) s else s
      forAll (linesIn s lo (lo + n)) (fun s l => followCopy s l (lineBytes s l) (List.replicate 64 0)) s0
  zeroRange s1 lo n

/-- `n` bytes copied from one place of the store to another with their poison and tags (R45, R327). -/
def copyRange (s : State) (src dst n : Nat) : State :=
  let moved := fun (x : Nat) => x - src + dst
  let ls := ((linesIn s src (src + n)).map fun l => lineOf (moved (l * 64))) ++ linesIn s dst (dst + n)
  let news := fun (l : Nat) => readBytes s (l * 64 - dst + src) 64
  let s1 := if protOf s dst = 0 then s else forAll ls.eraseDups (fun s l => followCopy s l (lineBytes s l) (news l)) s
  let cells := (s.mem.cells.filter fun e => src ≤ e.1 && e.1 < src + n).map fun e => (moved e.1, e.2)
  let bad := (poisonedIn s src (src + n)).map fun l => lineOf (moved (l * 64))
  let tags := if n % 16384 ≠ 0 then [] else
    (tagsIn s src (src + n)).map fun e => (e.1 - src / 16384 + dst / 16384, e.2)
  let s2 := if protOf s dst = 0 || n % 16384 ≠ 0 then s1 else
    let gone := (tagsIn s dst (dst + n)).filter fun e => tget (.fmt 0) tags e.1 = .fmt 0
    forAll (gone.map (fun e => (e.1, Tag.fmt 0)) ++ tags) (fun s e => setTagAt s (e.1 * 256) e.2) s1
  onMem (zeroRange s2 dst n) fun m => { m with
    cells := forAll cells (fun t e => tput 0 t e.1 e.2) m.cells
    poison := forAll bad (fun p l => insertNat l p) m.poison
    tags := forAll tags (fun t e => tput (.fmt 0) t e.1 e.2) m.tags }

/-- LEASE_LAPSE (R316, R320, R331): the module's Pilot has reached the end of a lease. -/
def execLeaseLapse (no : Nat) (s : State) : Ans :=
  match s.ext.tab.find? fun e => e.2.state = 3 && e.2.leaseNo = no && e.2.leaseEnd ≤ s.clk.pilot with
  | some e => .next (settle (countLse (endLease s e.1 1) 2))
  | none =>
    match s.ext.snaps.find? fun l => l.no = no && l.endPt ≤ s.clk.pilot with
    | some l => .next (settle (countLse (endSnap s l) 2))
    | none => notEnabled s

/-- REVOKE_DRAIN_DONE (R320 step 4): nothing admitted is left and every snoop is answered; the extent is ASSIGNED again. A line
whose transaction ran when the lease ended is snooped first. -/
def execRevokeDrainDone (h slot : Nat) (s : State) : Ans :=
  let k := 512 * h + slot
  let e := extN s k
  if e.state ≠ 4 || e.admitted ≠ 0 then notEnabled s
  else if drained s k then
    let s1 := ashExempt s 1 h 0x0403 [(0, slotBytes k), (4, natLe 4 e.leaseNo)]
    .next (settle (onExtN s1 k fun x => { x with
      state := 2, leaseNo := 0, term := 0 }))
  else
    let left := (extentLines s k).filter fun l => (txOf s l).isNone
    if left.isEmpty then notEnabled s else .next (settle (forAll left invalidateLine s))

/-- COW_COPY_DONE (R327): the version block holds the region, every version that shared the working copy points at it, and what
waited goes on. -/
def execCowCopyDone (lpa : Nat) (s : State) : Ans :=
  let k := regionOf lpa
  match tget none s.ext.regions k with
  | none => notEnabled s
  | some r =>
    match r.copying with
    | none => notEnabled s
    | some b =>
      let s1 := copyRange s (k * 2 ^ 21) b (2 ^ 21)
      let s2 := onRegion (countLse s1 7) k fun x => { x with
        copying := none, versions := x.versions.map fun v => if v.block.isNone && !v.lost then { v with block := some b } else v }
      .next (settle (freeVersions s2 k))

/-- Regions that lie in an extent. -/
def extentRegions (s : State) (k : Nat) : List (Nat × Region) :=
  s.ext.regions.filterMap fun e => match e.2 with
    | some r => if e.1 / 512 = k then some (e.1, r) else none
    | none => none

/-- An extent begins to be zeroed (R312): its regions are destroyed first; `job` is whom it will be assigned to, 0 nobody. -/
def beginZeroing (s : State) (k job : Nat) : State :=
  let e := extN s k
  let s1 := forAll (extentRegions s k) (fun s r => destroyRegion s r.1) s
  onExt (onExtN s1 k fun x => { x with state := 5 }) fun x => { x with zeroing := tput none x.zeroing k (some (job, e.job)) }

/-- EXTENT_ZEROING_DONE (R311, R312): once no region's version shares the extent any more, its lines are zero, one record is
written, and the extent is FREE or assigned. -/
def execExtentZeroingDone (h slot : Nat) (s : State) : Ans :=
  let k := 512 * h + slot
  match tget none s.ext.zeroing k with
  | none => notEnabled s
  | some (job, old) =>
    let shares := (extentRegions s k).any fun r => r.2.copying.isSome || regionShared r.2
    if (extN s k).state ≠ 5 then notEnabled s
    else if shares then
      .next (forAll (extentRegions s k) (fun s r =>
        if r.2.copying.isNone && regionShared r.2 then startCopy s (r.1 * 2 ^ 21) none else s) s)
    else
      let s1 := forAll s.t0.pairs (fun s p => match p.prim.find? fun t => lpaExt (t * 16384) = k with
        | some t => if p.valid then clearPairings s (t * 256) else s
        | none => s) s
      let s2 := countLse (zeroThrough s1 (k * 2 ^ 30) (2 ^ 30)) 4
      let s3 := ashLimited s2 0 h 0x0401 [(0, slotBytes k), (4, natLe 4 old), (8, natLe 4 job)]
      let s4 := onExtN s3 k fun x => { x with
        state := if job = 0 then 1 else 2, job := job, gen := if job = old then x.gen else (x.gen + 1) % 2 ^ 32 }
      .next (settle (onExt s4 fun x => { x with zeroing := tput none x.zeroing k none }))

end Sys2Proof.Machine
end

