-- ==== Sys2Proof/Machine/CellRows.lean ====
section
/-! DEFINITION. The commands of the cell (R341 to R353): its messages as they arrive, its timers, takeover, rebuild and the end of
a move's copying. Which messages are answered, and what the unlisted bodies hold, is the model's own (log 42). -/

namespace Sys2Proof.Machine

/-! ## Arrival -/

/-- COPs that the table of R341 lists. -/
def listedCop (c : Nat) : Bool := 1 ≤ c && c ≤ 0x0E

/-- CELL messages that are answered by a response. -/
def answeredCop (c : Nat) : Bool := 7 ≤ c || c = 0

/-- An answer to a CELL message; one that is not of the answered kind has none. -/
def cellTurn (s : State) (r : Req) (st : Nat) : State := if answeredCop (copOf r.f) then replyCell s r (plain st) else s

/-- A CELL frame meets the checks of its link (R200, R202, R203, R207), of the phase (R381, R382), of the power state (R412) and of
its cell (R341): none where it goes no further. -/
def cellArrive (s : State) (a : Arrival) (f : Frame) : State × Option Req :=
  let l := a.link
  let r : Req := { a := a, f := f }
  let s := countLink s l 1
  if !isService l && (linkOf s l).hello.isNone then (countDiscard s 5, none)
  else if f.len ≠ f.payload.length || payloadLimit s l < f.len then (cellTurn (countDiscard s 4) r stMalformed, none)
  else if s.cfg.hopsMax ≤ f.hops then (countLink s l 8, none)
  else
    match headStatus s l f with
    | some st => (cellTurn s r st, none)
    | none =>
      if !legOk s l f then (cellTurn s r stDenied, none)
      else if s.boot.phase ≠ 10 && s.boot.phase ≠ 11 then (cellTurn s r stNotReady, none)
      else if s.pwr.state ≠ 0 then (cellTurn s r stBusy, none)
      else if !listedCop (copOf f) then (cellTurn s r stMalformed, none)
      else if f.srcDev ≠ 0x3FFF && f.srcDev / 64 ≠ s.boot.cell && copOf f ≠ 8 then (cellTurn s r stDenied, none)
      else assemble s r

/-- A CELL message of a COP arrives for this module and does what it does. -/
def takeCell (s : State) (a : Arrival) (f : Frame) (mine : Bool) (body : State → Req → State) : Ans :=
  if f.typ ≠ tCell || !mine || inTransit s f || !(linkOf s a.link).up then notEnabled s
  else match cellArrive s a f with
    | (s1, none) => .next s1
    | (s1, some r) => .next (settle (body s1 r))

/-! ## Liveness (R347, R348) -/

/-- A neighbour as this member probes it, changed. -/
def onNbr (s : State) (p : Nat) (f : Nbr → Nbr) : State := onCell s fun c => { c with nbrs := tmod {} c.nbrs p f }

/-- Live neighbours of this member. -/
def liveNbrs (s : State) : List Nat := (neighbours s.cell.map.nmem s.boot.pos).filter (isLive s.cell.map)

/-- This module is a live member of its cell at Ready. -/
def liveMember (s : State) : Bool := atReady s && s.boot.role = 0 && isLive s.cell.map s.boot.pos

/-- PROBE (R347); a message with a reserved COP is answered MALFORMED here (R341). -/
def execProbe (a : Arrival) (f : Frame) (s : State) : Ans :=
  takeCell s a f (copOf f = 1 || !listedCop (copOf f)) fun s r =>
    seenEpoch (sayCell s (cellMsg s r.f.srcDev 2 (subjOf r.f) [])) (epochIn r.f) r.f.srcDev

/-- PROBE_TIMER (R347): every 100 µs each live row and column neighbour is probed. -/
def execProbeTimer (s : State) : Ans :=
  if !liveMember s then notEnabled s
  else .next (forAll (liveNbrs s) (fun s p =>
    let s1 := sayCell s (cellMsg s (posDev s p) 1 p [])
    onNbr s1 p fun n => { n with outstanding := if n.outstanding.isSome then n.outstanding else some s.clk.pilot }) s)

/-- PROBE_ACK (R342, R347, R348). -/
def execProbeAck (a : Arrival) (f : Frame) (s : State) : Ans :=
  takeCell s a f (copOf f = 2) fun s r =>
    let s1 := onNbr s (fromPosOf r.f) fun n => { n with misses := 0, outstanding := none, lastAck := s.clk.pilot }
    seenEpoch s1 (epochIn r.f) r.f.srcDev

/-- PROBE_MISS (R347): 20 µs without a PROBE_ACK. From the third in a row on, the neighbour is reported to the leader, or where it
is the leader itself to the member that follows it (R343). -/
def execProbeMiss (pos : Nat) (s : State) : Ans :=
  let n := tget {} s.cell.nbrs pos
  match n.outstanding with
  | none => notEnabled s
  | some t =>
    if !liveMember s || !usPassed t s.clk.pilot 20 then notEnabled s
    else
      let s1 := onCell (onNbr s pos fun n => { n with misses := n.misses + 1, outstanding := none }) fun c => { c with
        ctr := tmod 0 c.ctr 0 (satInc 64) }
      if n.misses + 1 < 3 then .next s1
      else
        let whom := if leaderOf s.cell.map none = some pos then leaderOf s.cell.map (some pos) else leaderOf s.cell.map none
        .next (match whom with
          | some p => if p = s.boot.pos then settle (suspectReport s1 s.boot.pos pos)
                      else sayCell s1 (cellMsg s1 (posDev s1 p) 3 pos [])
          | none => s1)

/-- SUSPECT (R343, R347). -/
def execSuspect (a : Arrival) (f : Frame) (s : State) : Ans :=
  takeCell s a f (copOf f = 3) fun s r => suspectReport s (fromPosOf r.f) (subjOf r.f)

/-- SELF_FENCE (R348): for 1,024 pt more than half of the live neighbours have acknowledged no probe. -/
def execSelfFence (s : State) : Ans :=
  let ns := liveNbrs s
  let silent := ns.filter fun p => (tget {} s.cell.nbrs p).lastAck + 1024 ≤ s.clk.pilot
  if liveMember s && ns.length < 2 * silent.length then .next (fenceSelf s 1) else notEnabled s

/-! ## Agreement (R342, R343) -/

/-- Two proposals of one content, whoever proposes. -/
def sameProposal (a b : PMap) : Bool := { a with leader := 0 } == { b with leader := 0 }

/-- PROPOSE (R342): accepted from epoch E where no proposal of a lower position is held; one that a new leader collected and
proposes again is the same proposal (R343). A map that names this leader is a request to commit its move entries (log 42). -/
def execPropose (a : Arrival) (f : Frame) (s : State) : Ans :=
  takeCell s a f (copOf f = 4) fun s r =>
    match mapFrom r.f.payload with
    | none => s
    | some m =>
      let from_ := fromPosOf r.f
      if leads s && m.leader ≠ from_ then
        forAll (m.moves.filter fun v => !s.cell.map.moves.contains v) askMove s
      else
        let free := match s.cell.accepted with
          | none => true
          | some x => from_ ≤ x.1 || sameProposal x.2 m
        if s.boot.role = 1 || m.cell ≠ s.boot.cell || m.epoch ≠ s.cell.map.epoch + 1 || !free then
          seenEpoch s (epochIn r.f - 1) r.f.srcDev
        else
          let s1 := onCell s fun c => { c with accepted := some (from_, m) }
          sayCell s1 (cellMsg s1 r.f.srcDev 5 (subjOf r.f) [] (some m.epoch))

/-- ACCEPT (R342). -/
def execAccept (a : Arrival) (f : Frame) (s : State) : Ans :=
  takeCell s a f (copOf f = 5) fun s r =>
    match s.cell.prop with
    | none => s
    | some x =>
      if x.map.epoch ≠ epochIn r.f || !(electors s x.map).contains (fromPosOf r.f) then s
      else
        leaderStep (tryCommit (onCell s fun c => { c with
          prop := some { x with accepts := x.accepts.filter (· ≠ fromPosOf r.f) ++ [fromPosOf r.f] } }))

/-- COMMIT (R342, R348): the proposal accepted from this leader is adopted; a member that holds another or none asks for the map. -/
def execCommit (a : Arrival) (f : Frame) (s : State) : Ans :=
  takeCell s a f (copOf f = 6) fun s r =>
    match s.cell.accepted with
    | some (p, m) =>
      if m.epoch = epochIn r.f && p = fromPosOf r.f then leaderStep (adoptMap s m) else seenEpoch s (epochIn r.f) r.f.srcDev
    | none => seenEpoch s (epochIn r.f) r.f.srcDev

/-- A position that is reported once and has not answered the proposal under way counts as failed (R347); 64 stands for that
second witness. -/
def markAbsent (s : State) (x : Prop342) : State :=
  onCell s fun c => { c with
    reports := forAll c.reports (fun t e =>
      if e.2.isEmpty || x.accepts.contains e.1 || e.2.contains 64 then t else tput [] t e.1 (e.2 ++ [64])) c.reports }

/-- PROPOSAL_TIMEOUT (R342): without a quorum in 200 µs the proposal is sent again up to 3 times, then dropped. -/
def execProposalTimeout (s : State) : Ans :=
  match s.cell.prop with
  | none => notEnabled s
  | some x =>
    if !usPassed x.sentPt s.clk.pilot 200 then notEnabled s
    else
      let s1 := markAbsent s x
      if x.tries < 4 then
        let y := { x with tries := x.tries + 1, sentPt := s.clk.pilot }
        .next (tellElectors (onCell s1 fun c => { c with prop := some y }) y 4 (mapBytes y.map))
      else
        let s2 := onCell s1 fun c => { c with
          prop := none, accepted := c.accepted.filter fun a => !(a.1 = s.boot.pos), ctr := tmod 0 c.ctr 2 (satInc 64) }
        .next (ashExempt s2 4 0x33 0x0502 [(0, natLe 4 x.map.epoch)])

/-- COLLECT (R343): answered with the proposal accepted and not committed, if one is held. -/
def execCollect (a : Arrival) (f : Frame) (s : State) : Ans :=
  takeCell s a f (copOf f = 7) fun s r =>
    replyCell s r (match s.cell.accepted with
      | some x => { payload := mapBytes x.2 }
      | none => plain stOk)

/-- MAP_READ (R341): answered from the committed map, to this cell and to others. -/
def execMapRead (a : Arrival) (f : Frame) (s : State) : Ans :=
  takeCell s a f (copOf f = 8) fun s r =>
    if s.cell.map.epoch = 0 then replyCell s r (plain stNotReady)
    else replyCell s r { payload := mapBytes s.cell.map }

/-- Links of the cell that may carry frames. -/
def cellLinks (s : State) : List Nat :=
  (List.range 96).filter fun l => linkRole s l = 1 && (linkOf s l).up && (linkOf s l).hello.isSome

/-- JOIN (R337, R344): its payload is the joiner's member entry, with MSTATE live of a member and absent of a spare. Whoever holds a
map answers with it and sees that the leader hears; without one the join is passed on once, and counted toward the first map. -/
def execJoin (a : Arrival) (f : Frame) (s : State) : Ans :=
  takeCell s a f (copOf f = 9) fun s r =>
    let x := memberFrom (byteSlice r.f.payload 0 16)
    let spare := x.mstate = 0
    let k := if spare then 64 else subjOf r.f
    let key := joinKey x.serial x.mrev
    let own := r.f.srcDev = 0x3FFF || (!spare && fromPosOf r.f = subjOf r.f)
    let s1 := if !own then s
      else if s.cell.map.epoch = 0 then replyCell s r (plain stOk) else replyCell s r { payload := mapBytes s.cell.map }
    let known := tget 0 s.cell.joins k = key
    let s2 := onCell s1 fun c => { c with joins := tput 0 c.joins k key }
    if s.boot.role = 1 then s1
    else if s.cell.map.epoch = 0 then
      let s3 := if known then s2 else
        forAll ((cellLinks s2).filter (· ≠ r.a.link)) (fun s l => sayOn s l { cellMsg s 0 9 (subjOf r.f) r.f.payload with dstDev := (
          match (linkOf s l).hello with | some h => h.dev | none => 0) }) s2
      leaderStep s3
    else if leads s then leaderStep s2
    else match leaderOf s.cell.map none with
      | some p => if p = s.boot.pos then s1 else sayCell s1 (cellMsg s1 (posDev s1 p) 9 (subjOf r.f) r.f.payload)
      | none => s1

/-! ## Updates under a window (R341, R345, R350) -/

/-- A message with an update number is applied once (R341): a repeated number has the stored status again. BUSY is not stored. -/
def underUpd (s : State) (r : Req) (body : State → Req → State × Nat) : State :=
  let u := updOf r.f
  let dev := r.f.srcDev
  let w := (tget none s.cell.updWin dev).getD { h := u - 1 }
  match judge w u with
  | .replay e => replyCell s r (plain e.status)
  | .behind => countDiscard s 0
  | .progress => s
  | .fresh =>
    let (s1, st) := body s r
    if st = stBusy then replyCell s1 r (plain st)
    else
      let v := settleSeen (markSeen w u tCell s.clk.pilot) u (plain st)
      replyCell (onCell s1 fun c => { c with updWin := tput none c.updWin dev (some v) }) r (plain st)

/-- The move under way, if any, whose destination an LPA lies in (R353). -/
def moveInto (s : State) (a : Nat) : Option Move :=
  s.cell.map.moves.find? fun v => v.stage = 1 && v.toPos = s.boot.pos && v.toH * 512 + v.toSlot = lpaExt a

/-- This member holds the copy of an LPA's slot (R340). -/
def isCopySlot (s : State) (a : Nat) : Bool :=
  match groupOf s a with
  | some g => copyPos g a = s.boot.pos
  | none => false

/-- A repair of the line gives way to an update, and what waited is served. -/
def cutRepair (s : State) (l : Nat) : State :=
  match txOf s l with
  | some t => match t.stage with
    | .repairing _ _ => releaseLine s l t
    | _ => s
  | none => s

/-- The tile's tag as an update carries it (log 15). -/
def takeTag (s : State) (l : Nat) (jva : W64) (xor : Bool) : State :=
  if !jva.getLsbD 4 then s
  else
    let n := fld jva.toNat 0 4
    setTag s (l / 256) (tagFrom (if xor then n.xor (tagCode s (l / 256)) else n))

/-- MIRROR_WR (R345, R353): the line is written at the copy, or at the destination of a move. -/
def mirrorBody (s : State) (r : Req) : State × Nat :=
  let a := mpaLpa r.f.mpa.toNat
  let l := lineOf a
  if r.f.payload.length ≠ 64 then (s, stMalformed)
  else if isCopySlot s a then
    if siteDown s l then (s, stBusy)
    else (cutRepair (markFresh (takeTag (homeStore s l r.f.payload true false) l r.f.jva false) l) l, stOk)
  else match moveInto s a with
    | some _ =>
      if siteDown s l then (s, stBusy)
      else
        let s1 := homeStore s l r.f.payload true false
        let s2 := if r.f.jva.getLsbD 4 then setTagAt s1 l (tagFrom (fld r.f.jva.toNat 0 4)) else s1
        (onCell s2 fun c => { c with incoming := tput 0 c.incoming (lpaExt a) (r.f.job + 1) }, stOk)
    | none => (s, stUnmapped)

/-- PARITY_XOR (R345, R351): the change enters the parity line. A line that is still to be re-formed from its data needs none. -/
def parityBody (s : State) (r : Req) : State × Nat :=
  let a := mpaLpa r.f.mpa.toNat
  let l := lineOf a
  if r.f.payload.length ≠ 64 then (s, stMalformed)
  else if !isCopySlot s a then (s, stUnmapped)
  else if siteDown s l then (s, stBusy)
  else if notRebuilt s l then (cutRepair s l, stOk)
  else if isPoisoned s l then (s, stPoison)
  else (takeTag (homeStore s l (xorBytes (lineBytes s l) r.f.payload) false false) l r.f.jva true, stOk)

/-- MIRROR_WR (R345). -/
def execMirrorWr (a : Arrival) (f : Frame) (s : State) : Ans :=
  takeCell s a f (copOf f = 0x0A) fun s r => underUpd s r mirrorBody

/-- PARITY_XOR (R345). -/
def execParityXor (a : Arrival) (f : Frame) (s : State) : Ans :=
  takeCell s a f (copOf f = 0x0B) fun s r => underUpd s r parityBody

/-- Number under which an entry of a member's journal is kept at its BUDDY. -/
def wardKey (pos key : Nat) : Nat := pos * 2 ^ 40 + key % 2 ^ 40

/-- JOURNAL (R350): one entry of the sender's journal is kept. -/
def execJournal (a : Arrival) (f : Frame) (s : State) : Ans :=
  takeCell s a f (copOf f = 0x0C) fun s r => underUpd s r fun s r =>
    (onCell s fun c => { c with ward := tput [] c.ward (wardKey (fromPosOf r.f) r.f.jva.toNat) r.f.payload }, stOk)

/-- JOURNAL_READ (R349): entries of the position SUBJ from place JVA on, at most 8; RESULT names the next place, or is all ones
after the last. -/
def execJournalRead (a : Arrival) (f : Frame) (s : State) : Ans :=
  takeCell s a f (copOf f = 0x0D) fun s r =>
    let p := subjOf r.f
    let es := tslice s.cell.ward (wardKey p 0) (wardKey (p + 1) 0)
    let n := r.f.jva.toNat
    replyCell s r { payload := ((es.drop n).take 8).flatMap journalRecord,
                    result := if es.length ≤ n + 8 then BitVec.allOnes 64 else BitVec.ofNat 64 (n + 8) }

/-! ## Rebuild (R44, R351, R352) -/

/-- REBUILD_READ (R351, R352): the line as it stands here; POISON where it is bad, still to be rebuilt, or unknown; BUSY while its
site is down, or while the copy has not acknowledged the line's last change and another than the copy asks. RESULT carries the
tile's tag (log 15). -/
def execRebuildRead (a : Arrival) (f : Frame) (s : State) : Ans :=
  takeCell s a f (copOf f = 0x0E) fun s r =>
    let a := mpaLpa r.f.mpa.toNat
    let l := lineOf a
    let unacked := match txOf s l with | some t => t.copies ≠ 0 | none => false
    match groupOf s a with
    | none => replyCell s r (plain stUnmapped)
    | some g =>
      if isPoisoned s l || notRebuilt s l then replyCell s r (plain stPoison)
      else if siteDown s l then replyCell s r (plain stBusy)
      else if unacked && copyPos g a ≠ fromPosOf r.f then replyCell s r (plain stBusy)
      else replyCell (meterUn s 1 64) r { payload := lineBytes s l, result := BitVec.ofNat 64 (tagCode s (l / 256)) }

/-- REBUILD_UNIT_DONE (R351): the first unit still to do. While lines of it are missing they are asked for; once every line is
here the unit is counted. -/
def execRebuildUnitDone (k : Nat) (s : State) : Ans :=
  if s.cell.units.head? ≠ some k then notEnabled s
  else
    let left := (List.range 1024).map (k * 1024 + ·) |>.filter (notRebuilt s)
    if left.isEmpty then
      .next (onCell s fun c => { c with
        units := c.units.filter (· ≠ k), freshLines := c.freshLines.filter fun l => l / 1024 ≠ k || siteDown s l
        ctr := tmod 0 c.ctr 4 (satInc 64) })
    else .next (settle (forAll (left.filter fun l => (txOf s l).isNone) (fun s l =>
      if (repairFrom s (l * 64)).isEmpty then markFresh s l else startRepair s l none []) s))

/-! ## Takeover (R104, R333, R349, R350, R354) -/

/-- One journal entry set in the tables. -/
def restoreEntry (s : State) (e : Nat × List Byte) : State :=
  let n := e.1 % 2 ^ 32
  match e.1 / 2 ^ 32 with
  | 0 => onExt s fun x => { x with rowModes := tput 0 x.rowModes n (leAt e.2 0 1) }
  | 1 => onTrn s fun t => { t with jobs := tput 0 t.jobs n (BitVec.ofNat 512 (leNat e.2)) }
  | 2 => onExt s fun x => { x with tab := tput {} x.tab n (let d := extFrom e.2
      if d.state = 3 then { d with leaseEnd := s.clk.pilot + d.term } else d) }
  | 3 => onExt s fun x => { x with snaps := x.snaps ++ [let l := snapFrom e.2
      { l with endPt := s.clk.pilot + l.term }] }
  | 4 => onExt s fun x => { x with regions := tput none x.regions n (some (regionFrom e.2)) }
  | _ => onExt s fun x => { x with zeroing := tput none x.zeroing n (some (leAt e.2 0 4, leAt e.2 4 4)) }

/-- The extents of the spare's own image, FREE, with the protection that the served position has: what it serves when there is no
journal (R340, R350). -/
def protectOwn (s : State) : State :=
  onExt s fun x => { x with
    tab := tmapAll {} (fun e => e) (forAll x.tab (fun t e =>
      let a := e.1 * 2 ^ 30
      match groupOf s a with
      | some g => tput {} t e.1 (if copyPos g a = s.boot.pos then { e.2 with state := 0, prot := 0 }
                                 else { e.2 with state := 1, job := 0, prot := g.kind })
      | none => tput {} t e.1 { e.2 with state := if e.2.state = 0 then 0 else 1, job := 0, prot := 0 }) x.tab) }

/-- The tables of the failed member (R349 step 3). -/
def restoreTables (s : State) (j : Tab (List Byte)) : State :=
  if j.isEmpty then protectOwn s
  else
    let s1 := onTrn (onExt s fun x => { x with tab := [], rowModes := [], snaps := [], regions := [], zeroing := [] })
      fun t => { t with jobs := [] }
    let s2 := forAll j restoreEntry s1
    onExt s2 fun x => { x with nextLease := (forAll x.snaps (fun n l => max n l.no)
      (forAll x.tab (fun n e => max n e.2.leaseNo) 0)) + 1 }

/-- Forwarding entries that the map's finished moves leave at the served position (R222, R353). -/
def restoreForwards (s : State) : State :=
  forAll (s.cell.map.moves.filter fun v => v.stage = 2 && v.fromPos = s.boot.pos) (fun s v => onExt s fun x => { x with
    fwd := tput none x.fwd (v.fromH * 512 + v.fromSlot) (some (posDev s v.toPos, v.toH * 512 + v.toSlot)) }) s

/-- Stripe units of the served position: of every data extent and every copy that a group places there (R351). -/
def unitsToDo (s : State) : List Nat :=
  (List.range 4096).flatMap fun k =>
    if (groupOf s (k * 2 ^ 30)).isSome && (isCopySlot s (k * 2 ^ 30) || (tget {} s.ext.tab k).state ≠ 0) then
      (List.range 16384).map (k * 16384 + ·) else []

/-- Plain extents come back with every line poisoned, and versions whose blocks lay in them are lost (R352, R354). -/
def losePlain (s : State) : State :=
  let plain_ := (s.ext.tab.filter fun e => e.2.state ≠ 0 && e.2.prot = 0).map Prod.fst
  let s1 := onMem s fun m => { m with void := plain_, filled := [] }
  onExt s1 fun x => { x with
    regions := tmapAll none (fun r => r.map fun r => { r with
      versions := r.versions.map fun v => match v.block with
        | some b => if plain_.contains (lpaExt b) then { v with lost := true, block := none } else v
        | none => v }) x.regions }

/-- A window that survives in a protected extent stands under the failed member's identity until its slots are settled (R104). -/
def takeWindow (s : State) (w : LostWin) : State :=
  let a := nth 0 w.pages 0
  if w.pages.isEmpty || (extOf s a).prot = 0 || (extOf s a).state ≠ 3 then s
  else onCtxN s w.ctx fun _ => {
    job := w.job
    win := some { base := w.base, nslots := w.nslots, pages := w.pages, lastPt := s.clk.pilot, lostQ := List.range w.nslots } }

/-- SPARE_SERVE (R349 steps 3 to 5, R350, R351, R352): the journal is whole, every member has answered SNP_DEV, and 2,048 pt have
passed since the commit. `wins` are the windows that survive in protected extents. -/
def execSpareServe (wins : List LostWin) (s : State) : Ans :=
  match s.cell.restored, s.cell.commitPt with
  | some j, some t =>
    if !notServing s || !atReady s || s.pwr.state ≠ 0 || !s.home.devWait.isEmpty || s.clk.pilot < t + 2048 then notEnabled s
    else
      let s1 := losePlain (restoreForwards (restoreTables s j))
      let s2 := onCell s1 fun c => { c with
        served := true, journalOk := true, journaled := j, units := unitsToDo s1, freshLines := [] }
      .next (settle (forAll wins takeWindow s2))
  | _, _ => notEnabled s

/-- SPARE_ABSENT_TIMEOUT (R349): 6 ms after the commit the spare has answered on no spare lane; the next proposal marks it absent. -/
def execSpareAbsentTimeout (s : State) : Ans :=
  match s.cell.commitPt with
  | none => notEnabled s
  | some t =>
    let x := linkOf s 16
    if leads s && s.cell.map.serving && !s.cell.spareGone && usPassed t s.clk.pilot 6000 && !(x.up && x.hello.isSome) then
      .next (settle (leaderStep (onCell s fun c => { c with spareGone := true })))
    else notEnabled s

/-! ## Moves (R353) -/

/-- Every line of an extent goes to where it moves: those that hold anything, and line 0, with the tags of their tiles. -/
def sendMove (s : State) (v : Move) : State :=
  let src := v.fromH * 512 + v.fromSlot
  let e := tget {} s.ext.tab src
  let lo := src * 2 ^ 30
  let dst := (v.toH * 512 + v.toSlot) * 2 ^ 30
  let dev := posDev s v.toPos
  let tagged := (tagsIn s lo (lo + 2 ^ 30)).map (·.1 * 256)
  let ls := (lineOf lo :: (tagged ++ linesIn s lo (lo + 2 ^ 30))).eraseDups
  let s1 := onCell s fun c => { c with sent := insertNat src c.sent }
  forAll ls (fun s l =>
    let (f, s1) := updFrame s dev 0x0A
    let tag := if l % 256 = 0 then 16 + tagCode s (l / 256) else 0
    sendFabric s1 { f with
      job := e.job, mpa := BitVec.ofNat 64 (dev * 2 ^ 42 + (l * 64 - lo + dst)), jva := BitVec.ofNat 64 tag
      payload := lineBytes s l, len := 64 } (.moveLine src)) s1

/-- MOVE_COPY_DONE (R353 step 2): of move entry `k`, at its source. The lines are sent, or copied where both slots are this
module's; once every one is acknowledged the leader is asked to commit the end of the move. -/
def execMoveCopyDone (k : Nat) (s : State) : Ans :=
  match s.cell.map.moves[k]? with
  | none => notEnabled s
  | some v =>
    let src := v.fromH * 512 + v.fromSlot
    let dst := v.toH * 512 + v.toSlot
    if v.stage ≠ 1 || v.fromPos ≠ s.boot.pos || !atReady s then notEnabled s
    else if v.toPos = v.fromPos then
      .next (settle (askMove (copyRange s (src * 2 ^ 30) (dst * 2 ^ 30) (2 ^ 30)) { v with stage := 2 }))
    else if !s.cell.sent.contains src then .next (settle (sendMove s v))
    else if outstanding s (· == .moveLine src) then notEnabled s
    else .next (settle (askMove s { v with stage := 2 }))

end Sys2Proof.Machine
end

