-- ==== Sys2Proof/Machine/Space.lean ====
section
/-! DEFINITION. The management space as it reads (R223, R224): 64 bytes by their place, block by block. What each byte means is the
rule named beside its block. -/

namespace Sys2Proof.Machine

/-! ## Pieces -/

/-- A field of a fuse map (R387). -/
def fuseFld (x : BitVec 2048) (lo w : Nat) : Nat := (x.extractLsb' lo w).toNat

/-- Blown bits among the low `w` bits of a number. -/
def popc (w x : Nat) : Nat := ((List.range w).filter fun i => tbit x i).length

/-- The anti-rollback count of a fuse map (R364, R387). -/
def fuseRollback (x : BitVec 2048) : Nat := popc 64 (fuseFld x 1216 64)

/-- IDN_ROLE (R384): 0 Member, 1 Spare, 2 Spare serving. -/
def idnRole (s : State) : Nat := if s.boot.role = 0 then 0 else if s.cell.served then 2 else 1

/-- A site's bit for each site of which `p` holds. -/
def siteBits (s : State) (p : Site → Bool) : Nat :=
  ((List.range 32).map fun k => if p (siteAt s k) then 2 ^ k else 0).sum

/-- Milliseconds since internal reset release, which stop at Ready (R383). -/
def elapsedMs (s : State) : Nat :=
  if s.clk.readyMs ≠ 0 || s.boot.phase = 11 then s.clk.readyMs else (s.clk.pilot - s.clk.releasePt) / 1024

/-- Entry `slot` of a history that keeps its first `first` entries and then its newest, `size` in all; `n` entries were ever
written, of which `xs` are those kept (R442). -/
def historyAt {α : Type} (first size n : Nat) (xs : List α) (slot : Nat) : Option α :=
  if slot < first then xs[slot]?
  else
    let span := size - first
    let oldest := max first (n - span)
    let w := oldest + (slot - first + span - (oldest - first) % span) % span
    if w < n then xs[first + (w - oldest)]? else none

/-- A history that has gained an entry. -/
def historyAdd {α : Type} (first size : Nat) (h : Nat × List α) (x : α) : Nat × List α :=
  if h.1 < size then (h.1 + 1, h.2 ++ [x]) else (h.1 + 1, h.2.take first ++ (h.2.drop (first + 1)) ++ [x])

/-! ## Identity and status -/

/-- The identity block (R384), 512 bytes. -/
def idnBytes (s : State) : List Byte :=
  let x := s.boot.idn
  let n := 0x5741 + 0x2032 * 2 ^ 16 + 2 * 2 ^ 32 + s.boot.stepping % 16 * 2 ^ 36 + fuseFld x 0 128 * 2 ^ 64 + s.boot.straps.toNat * 2 ^ 192 +
    fuseFld x 1152 4 * 2 ^ 256 + fuseFld x 1156 4 * 2 ^ 260 + fuseRollback x * 2 ^ 264 + fuseFld x 1160 2 * 2 ^ 271 +
    s.boot.device % 2 ^ 14 * 2 ^ 320 + s.boot.cell % 2 ^ 12 * 2 ^ 336 + s.boot.pos % 64 * 2 ^ 348 + idnRole s * 2 ^ 354 +
    b2n s.boot.slot * 2 ^ 384 + b2n s.boot.fallback * 2 ^ 385 + s.boot.imgRollback % 128 * 2 ^ 392 + s.boot.imgKeySlot % 4 * 2 ^ 400 +
    s.boot.imgVersion % 2 ^ 32 * 2 ^ 416 + s.boot.imgLen % 2 ^ 32 * 2 ^ 448
  natLe 64 n ++ natLe 32 s.boot.imgHash ++ natLe 4 (96 * popc 32 (siteBits s (·.trained))) ++ List.replicate 28 0 ++ natLe 384 Config.devKey

/-- STS_PHASE (R383), 64 bytes. -/
def phaseBytes (s : State) : List Byte :=
  let b := s.boot
  natLe 4 (b.phase % 16 + b.failStep % 16 * 16 + b.failCode % 256 * 256 + b2n b.slot * 2 ^ 16 + b2n b.fallback * 2 ^ 17 +
    b2n b.watchdog * 2 ^ 18 + b.checkA % 16 * 2 ^ 24 + b.checkB % 16 * 2 ^ 28) ++
  natLe 4 (elapsedMs s) ++ natLe 4 s.clk.readyMs ++ natLe 4 s.clk.pcycles ++ natLe 8 s.clk.opSec ++ natLe 4 (siteBits s (·.trained)) ++
  natLe 4 b.sitesLow ++ natLe 32 ((List.range 98).map fun l => if (linkOf s l).up then 2 ^ l else 0).sum

/-- STS_PWR (R427), 64 bytes. -/
def pwrBytes (s : State) : List Byte :=
  let p := s.pwr
  natLe 8 (p.state % 8 + p.refuse % 128 * 2 ^ 8 + p.wakeSrc % 16 * 2 ^ 16 + p.wakeLink % 128 * 2 ^ 20 + p.domains.toNat * 2 ^ 32) ++
  natLe 4 p.smEntries ++ natLe 4 p.emEntries ++ natLe 4 p.refusals ++ natLe 4 p.wakesInEntry ++ natLe 1 p.tjMax ++ natLe 1 p.throttled ++
  natLe 4 p.throttleEvents ++ natLe 2 p.lastExitUs ++ natLe 4 p.smS ++ natLe 4 p.emS ++ List.replicate 24 0

/-- STS_ASH (R440), 64 bytes. -/
def ashStatusBytes (s : State) : List Byte :=
  natLe 8 s.ash.nextRno ++ natLe 4 (s.ash.sevMax % 8 + 8 * b2n s.ash.nvmFail) ++ natLe 4 s.ash.sev3 ++ List.replicate 48 0

/-- A record entered in a list that falls by RNO. -/
def insertRec (r : Rec) : List Rec → List Rec
  | [] => [r]
  | x :: xs => if x.rno = r.rno then x :: xs else if x.rno < r.rno then r :: x :: xs else x :: insertRec r xs

/-- The 8 newest records of severity 2 or above, newest first, held in the buffer or the recorder (R440). -/
def newestRecs (s : State) : List Rec :=
  let nvm := s.ash.nvm.filterMap Prod.snd
  ((forAll ((s.ash.buffer ++ nvm).filter fun r => 2 ≤ r.sev) (fun l r => insertRec r l) []).take 8)

/-- STS_EXT of extent `k` (R310), 64 bytes. -/
def stsExtBytes (s : State) (k : Nat) : List Byte :=
  let e := tget {} s.ext.tab k
  let regions := (s.ext.regions.filter fun r => r.1 / 512 = k && r.2.isSome).length
  natLe 4 (2 + e.state % 8 * 16 + b2n e.dense * 2 ^ 7 + e.prot % 4 * 2 ^ 8 + b2n e.vpool * 2 ^ 10 + e.rowgrp % 64 * 2 ^ 16 + e.pos % 32 * 2 ^ 22) ++
  natLe 4 (e.job % 2 ^ 20) ++ natLe 4 (if e.state = 3 then e.leaseNo else 0) ++ natLe 4 e.leaseEnd ++ natLe 2 (e.holderDev % 2 ^ 14) ++ natLe 2 (e.holderCtx % 2 ^ 12) ++
  natLe 4 e.admitted ++ natLe 4 regions ++ natLe 4 e.gen ++ List.replicate 32 0

/-! ## Counters -/

/-- The first `n` counters of a table, 8 bytes each. -/
def ctrBytes (t : Tab Nat) (n : Nat) : List Byte := (List.range n).flatMap fun k => natLe 8 (tget 0 t k)

/-- Coherence counters of a Hearth (R308). -/
def cohBytes (s : State) (h : Nat) : List Byte :=
  let c := (sliceAt s h).ctr
  ctrBytes c 10 ++ natLe 10 (waysInUse s h % 2 ^ 20 + tget 0 c 10 % 2 ^ 64 * 2 ^ 20)

/-- Live leases of both kinds (R334). -/
def leasesLive (s : State) : Nat := (s.ext.tab.filter fun e => e.2.state = 3).length + s.ext.snaps.length

/-- Free version blocks of the module (R334): 512 in each extent of the pool, less those in use. -/
def poolFree (s : State) : Nat := 512 * (poolExtents s).length - (blocksInUse s).length

/-- Lease and snapshot counters (R334). -/
def lseBytes (s : State) : List Byte := ctrBytes s.ext.ctr 9 ++ natLe 4 (leasesLive s) ++ natLe 4 (poolFree s)

/-- Cell counters (R356). -/
def cellBytes (s : State) : List Byte := ctrBytes s.cell.ctr 5 ++ natLe 4 s.cell.units.length

/-! ## Change intake -/

/-- A change buffer. -/
def bufOf (s : State) (b : Nat) : Buf := tget {} s.auth.bufs b

/-- CHG_STATE (R391), 64 bytes. -/
def chgBytes (s : State) : List Byte :=
  (List.range 4).flatMap (fun k => natLe 8 (tget 0 s.auth.lastSeq k)) ++ natLe 1 s.auth.funcs ++ List.replicate 15 0 ++
    natLe 16 (fuseFld s.fuse.a 1280 128)

/-- TAKEN items that a FUNC_SET's drain still waits for (R400). -/
def drainLeft (s : State) (d : Nat × Nat × List ItemId) : Nat := (d.2.2.filter fun i => (itemOf s i).isSome).length

/-- The control of a buffer (R391), 64 bytes. -/
def bufBytes (s : State) (b : Nat) : List Byte :=
  let x := bufOf s b
  natLe 4 (x.state % 16 * 2 ^ 4 + x.result % 256 * 2 ^ 8 + x.check % 16 * 2 ^ 16) ++ natLe 4 (x.item % 1024) ++ natLe 4 (((s.auth.drains.filter (·.1 = b)).map (drainLeft s)).sum) ++
  List.replicate 4 0 ++ natLe 8 x.seq ++ natLe 8 x.opsec ++
  natLe 32 (x.imgWin % 512 + x.who.flue % 2 * 2 ^ 16 + x.who.port % 2 ^ 16 * 2 ^ 32 + x.who.ip % 2 ^ 128 * 2 ^ 48)

/-- The buffer whose image session the image window shows (R391, R398). -/
def sessionBuf (s : State) : Option Nat := (List.range 4).find? fun b => (bufOf s b).session.isSome

/-- Bytes of the image NVM. -/
def imgBytes (s : State) (a n : Nat) : List Byte := upTo n fun i => tget 0 s.boot.nvm (a + i)

/-- First byte of an image slot (R365). -/
def slotBase (b : Bool) : Nat := if b then 0x2000000 else 0

/-- A line of the image window. -/
def imgWindow (s : State) (o : Nat) : List Byte :=
  match sessionBuf s with
  | some b => (match (bufOf s b).session with
    | some x =>
      let a := 65536 * (bufOf s b).imgWin + o
      if a < 0x2000000 then imgBytes s (slotBase x.slot + a) 64 else List.replicate 64 0
    | none => List.replicate 64 0)
  | none => List.replicate 64 0

/-- A cursor. -/
def cursorOf (s : State) (c : Nat) : Cursor := tget {} s.ash.cursors c

/-- The control of a cursor (R439), 64 bytes. -/
def cursorBytes (s : State) (c : Nat) : List Byte :=
  let x := cursorOf s c
  natLe 8 (b2n x.held * 16) ++ natLe 8 x.ashBase ++
    natLe 48 (x.mtrBase % 2 ^ 14 + x.who.flue % 2 * 2 ^ 16 + x.who.port % 2 ^ 16 * 2 ^ 32 + x.who.ip % 2 ^ 128 * 2 ^ 48)

/-! ## Ashpit window -/

/-- ASH_STATE (R438), 64 bytes. -/
def ashStateBytes (s : State) : List Byte :=
  let a := s.ash
  [a.nextRno, ashOldest s, a.backlog.length, a.suppressedTotal, a.lostTotal, a.flushes, a.crcErrors, a.nvmErrors].flatMap (natLe 8)

/-! ## Health record -/

/-- One copy of the header (R441). -/
def hlthHeader (s : State) : List Byte :=
  let a := s.ash
  let b := natLe 8 a.headerRno ++ natLe 8 a.headerLost ++ natLe 4 a.headerPcycles ++ natLe 8 a.headerOpSec
  b ++ natLe 4 (crc32c b)

/-- One copy of the authority area (R394, R441). -/
def hlthAuth (s : State) : List Byte :=
  let b := (List.range 4).flatMap fun k => natLe 8 (tget 0 s.auth.lastSeq k)
  b ++ natLe 4 (crc32c b)

/-- A bank entry. -/
def bankBytes (e : BankErr) : List Byte :=
  natLe 4 e.corrected ++ natLe 2 e.uncorrected ++ natLe 2 0 ++ natLe 4 e.aggressor ++ natLe 4 e.lastRow

/-- A row entry; channel in bits 2:0 and rank in bit 3 of their byte (log 43). -/
def rowBytes (e : RowErr) : List Byte :=
  natLe 4 e.opSec ++ natLe 1 (e.chan + 8 * e.rank) ++ natLe 1 e.bank ++ natLe 3 e.row ++ natLe 1 e.kind ++ natLe 2 e.symbol ++ natLe 4 e.count

/-- An eye entry. -/
def eyeBytes (e : EyeEntry) : List Byte := natLe 4 e.opSec ++ natLe 1 e.rw ++ natLe 1 e.rh ++ natLe 1 e.ww ++ natLe 1 e.wh

/-- A lane entry. -/
def laneBytes (e : LaneEntry) : List Byte :=
  natLe 4 e.opSec ++ natLe 1 e.width ++ natLe 1 e.height ++ natLe 2 0 ++ natLe 4 e.ber.toNat ++ natLe 4 e.codewords

/-- A droop entry. -/
def droopBytes (e : Droop) : List Byte :=
  natLe 4 e.opSec ++ natLe 1 e.rail ++ natLe 1 0 ++ natLe 2 e.depth ++ natLe 4 (min e.dur (2 ^ 32 - 1)) ++ natLe 4 e.pcycles

/-- A boot entry; CHECK_A in the low half of its byte, SLOT, FALLBACK and WATCHDOG from bit 0 up (log 43). -/
def bootBytes (e : BootEntry) : List Byte :=
  natLe 8 e.opSec ++ natLe 4 e.pcycles ++ natLe 1 (e.checkA % 16 + e.checkB % 16 * 16) ++ natLe 1 e.flags ++ natLe 1 e.failCode ++
    natLe 1 e.phase ++ natLe 4 e.version ++ natLe 4 e.readyMs ++ List.replicate 8 0 ++ natLe 32 e.hash

/-- `n` bytes of an entry, zeros where there is none. -/
def entryBytes {α : Type} (n : Nat) (f : α → List Byte) (e : Option α) : List Byte :=
  match e with | some x => byteSlice (f x) 0 n | none => List.replicate n 0

/-- 64 bytes of the health record from a 64-aligned offset (R441, R442). -/
def hlthLine (s : State) (o : Nat) : List Byte :=
  let h := s.hlth
  if o < 0x800 then byteSlice (hlthHeader s) (o % 1024) 64
  else if o < 0x1000 then byteSlice (hlthAuth s) (o % 1024) 64
  else if o < 0x41000 then
    let site := (o - 0x1000) / 8192
    let i := (o - 0x1000) % 8192 / 16
    (List.range 4).flatMap fun k =>
      if i + k < 256 then bankBytes (tget {} h.banks (256 * site + i + k))
      else entryBytes 16 rowBytes (tget [] h.rows site)[i + k - 256]?
  else if o < 0x61000 then
    let i := (o - 0x41000) / 8
    let e := tget (0, []) h.eyes (i / 64)
    (List.range 8).flatMap fun k => entryBytes 8 eyeBytes (historyAt 8 64 e.1 e.2 (i % 64 + k))
  else if o < 0x7B000 then
    let i := (o - 0x61000) / 16
    let e := tget (0, []) h.lanes (i / 64)
    (List.range 4).flatMap fun k => entryBytes 16 laneBytes (historyAt 8 64 e.1 e.2 (i % 64 + k))
  else if o < 0x7E000 then
    let i := (o - 0x7B000) / 4
    (List.range 16).flatMap fun k => natLe 4 (tget 0 h.therm (i + k))
  else if o < 0x8E000 then
    let i := (o - 0x7E000) / 16
    (List.range 4).flatMap fun k => entryBytes 16 droopBytes (historyAt 0 4096 h.droops.length (lastN 4096 h.droops) (i + k))
  else if o < 0x9E000 then entryBytes 64 bootBytes (historyAt 64 1024 h.boots.1 h.boots.2 ((o - 0x8E000) / 64))
  else List.replicate 64 0

/-! ## Metering -/

/-- A metering record (R447), 256 bytes. -/
def mtrBytes (r : MtrRec) (live : Bool) : List Byte :=
  natLe 4 (2 + 16 * b2n live) ++ natLe 4 (r.job % 2 ^ 20) ++ natLe 4 r.gen ++ natLe 4 0 ++ natLe 8 r.start ++ ctrBytes r.ctr 10 ++
    ctrBytes r.ops 10 ++ natLe 8 (tget 0 r.ctr 10) ++ List.replicate 64 0

/-- The record of a job-table entry, zeros past the last. -/
def mtrEntry (s : State) (i : Nat) : List Byte :=
  if i < 16384 then mtrBytes (tget {} s.mtr.recs i) (jobValid (tget 0 s.trn.jobs i)) else List.replicate 256 0

/-! ## The whole -/

/-- 64 bytes of the management space from a 64-aligned offset (R224), but for the records of the Ashpit window. -/
def spaceLine (s : State) (o : Nat) : List Byte :=
  let zero := List.replicate 64 (0 : Byte)
  if o < 0x10000 then (if o < 512 then byteSlice (idnBytes s) o 64 else zero)
  else if o < 0x100000 then
    if o = 0x10000 then phaseBytes s
    else if o = 0x10100 then byteSlice (natLe 8 (s.clk.chimney1024 / 1024)) 0 64
    else if o = 0x10200 then pwrBytes s
    else if o = 0x10400 then ashStatusBytes s
    else if 0x10440 ≤ o && o < 0x10640 then entryBytes 64 recBytes (newestRecs s)[(o - 0x10440) / 64]?
    else if 0x20000 ≤ o && o < 0x60000 then stsExtBytes s ((o - 0x20000) / 64)
    else if 0x80000 ≤ o && o < 0x80000 + mapSize then
      (if s.cell.map.epoch = 0 then zero else byteSlice (mapBytes s.cell.map) (o - 0x80000) 64)
    else zero
  else if o < 0x200000 then
    let c := o - 0x100000
    if c < 0x200 * 98 then byteSlice (ctrBytes (linkOf s (c / 0x200)).ctr 12) (c % 0x200) 64
    else if 0xD000 ≤ c && c < 0xE000 then byteSlice (ctrBytes s.trn.ctr 12) (c - 0xD000) 64
    else if 0xE000 ≤ c && c < 0xE800 then byteSlice (cohBytes s ((c - 0xE000) / 0x100)) (c % 0x100) 64
    else if 0xF000 ≤ c && c < 0x10000 then byteSlice (lseBytes s) (c - 0xF000) 64
    else if c = 0x10000 then byteSlice (cellBytes s) 0 64
    else zero
  else if o < 0x300000 then
    let c := o - 0x200000
    if c = 0 then chgBytes s
    else if 0x100 ≤ c && c < 0x200 then bufBytes s ((c - 0x100) / 64)
    else if 0x10000 ≤ c && c < 0x20000 then
      let b := (c - 0x10000) / 0x4000
      upTo 64 fun i => tget 0 (bufOf s b).data (c % 0x4000 + i)
    else if 0x20000 ≤ c && c < 0x30000 then imgWindow s (c - 0x20000)
    else if 0x30000 ≤ c && c < 0x30200 then cursorBytes s ((c - 0x30000) / 64)
    else zero
  else if o < 0x400000 then (if o = 0x300000 then ashStateBytes s else zero)
  else if o < 0x500000 then byteSlice s.boot.shadow (o - 0x400000) 64
  else if o < 0x600000 then hlthLine s (o - 0x500000)
  else if o < 0x700000 then
    let c := o - 0x600000
    if c < 256 then byteSlice (mtrBytes s.mtr.un false) c 64
    else if 0x10000 ≤ c && c < 0x90000 then
      let x := cursorOf s ((c - 0x10000) / 0x10000)
      if x.held then byteSlice (mtrEntry s (x.mtrBase + c % 0x10000 / 256)) (c % 256) 64 else zero
    else zero
  else zero

/-- The record of the Ashpit window at a 64-aligned offset, where there is one (R438, R439). -/
def ashWindowRec (s : State) (o : Nat) : Option Nat :=
  if 0x310000 ≤ o && o < 0x390000 then
    let x := cursorOf s ((o - 0x310000) / 0x10000)
    if x.held then some (x.ashBase + o % 0x10000 / 64) else none
  else if 0x390000 ≤ o && o < 0x3D0000 then some ((o - 0x390000) / 64)
  else none

/-- A 64-byte line read: a record of the Ashpit window that fails its test counts (R438). -/
def readLine (s : State) (o : Nat) : State × List Byte :=
  match ashWindowRec s o with
  | some n =>
    let (bs, bad) := ashRead s n
    (if bad then onAsh s fun a => { a with crcErrors := satInc 64 a.crcErrors } else s, bs)
  | none => (s, spaceLine s o)

/-- The cursor whose windows hold an offset (R439). -/
def windowCursor (o : Nat) : Option Nat :=
  if 0x310000 ≤ o && o < 0x390000 then some ((o - 0x310000) / 0x10000)
  else if 0x610000 ≤ o && o < 0x690000 then some ((o - 0x610000) / 0x10000)
  else none

/-- `n` bytes from an offset (R223): a read of a cursor's window keeps the cursor (R439). -/
def readSpace (s : State) (o n : Nat) : State × List Byte :=
  let (s1, bs) := forAll (List.range ((o + n + 63) / 64 - o / 64))
    (fun (x : State × List Byte) i => let (s1, b) := readLine x.1 ((o / 64 + i) * 64); (s1, x.2 ++ b)) (s, [])
  let s2 := match windowCursor o with
    | some c => if (cursorOf s1 c).held then onAsh s1 fun a => { a with
        cursors := tmod {} a.cursors c fun x => { x with lastPt := s.clk.pilot } } else s1
    | none => s1
  (s2, byteSlice bs (o % 64) n)

end Sys2Proof.Machine
end

