-- ==== Sys2Proof/Machine/Sect.lean ====
section
/-! DEFINITION. The sections of the image (R369 to R375, R425, R445) and the entries that change records share with them (R230, R250,
R252, R253, R258): their fields, ranges and defaults. Every function on a section takes it as bytes. -/

namespace Sys2Proof.Machine

/-- A list of bytes as one number. -/
def sectNat (bs : List Byte) : Nat := leNat bs

/-- Bits of `x` outside the listed fields (low bit, width) are zero. -/
def onlyBits (x w : Nat) (fs : List (Nat × Nat)) : Bool :=
  (List.range w).all fun i => !tbit x i || fs.any fun f => f.1 ≤ i && i < f.1 + f.2

/-- Zero, or within a range. -/
def zeroOr (lo hi x : Nat) : Bool := x = 0 || (lo ≤ x && x ≤ hi)

/-! ## MODULE (R370) -/

/-- Every field of a MODULE section is in range, every reserved bit zero. -/
def moduleOk (bs : List Byte) : Bool :=
  let x := sectNat bs
  bs.length = 64 && onlyBits x 512 [(0, 30), (32, 32)] && zeroOr 1 1000 (fld x 0 10) && zeroOr 10 1000 (fld x 10 10) &&
    fld x 20 5 ≤ 16 && zeroOr 8 24 (fld x 25 5) && zeroOr 256 65535 (fld x 32 16) && zeroOr 0x0600 0xFFFF (fld x 48 16)

/-- A value, or its default where it is zero. -/
def orElse0 (x d : Nat) : Nat := if x = 0 then d else x

/-- The EtherType that a MODULE section sets. -/
def moduleEther (bs : List Byte) : Nat := orElse0 (fld (sectNat bs) 48 16) 0x88B6

/-- A MODULE section in force. -/
def putModule (c : Cfg) (bs : List Byte) : Cfg :=
  let x := sectNat bs
  { c with
    ttoMs := orElse0 (fld x 0 10) 10, retxUs := orElse0 (fld x 10 10) 50
    retries := if fld x 20 5 = 0 then 7 else fld x 20 5 - 1
    hopsMax := orElse0 (fld x 25 5) 24, rhThresh := orElse0 (fld x 32 16) 2048, etherType := moduleEther bs }

/-! ## Entries of the Damper and the Chimney -/

/-- A route entry (R230): no path valid without a link. -/
def routeOk (x : Nat) : Bool :=
  (List.range 4).all fun i =>
    let l := fld x (8 * i) 7
    l ≤ 97 || (l = 0x7F && !tbit x (8 * i + 7))

/-- A class control entry (R250); QUANTUM serves classes 0 to 6 only. -/
def shaperOk (x c : Nat) : Bool :=
  fld x 0 20 ≤ 800000 && 4352 ≤ fld x 20 24 && (6 < c || 1024 ≤ fld x 44 20)

/-- A shaper as an entry sets it, with full or empty bucket. -/
def shaperFrom (s : State) (x : Nat) (full : Bool) : Shaper :=
  let b := fld x 20 24
  { rate := fld x 0 20, burst := b, quantum := fld x 44 20, tokens := if full then b * tokenByte else 0, lastCyc := s.clk.chimney1024 }

/-- A policer entry (R252): ranges and reserved bits. -/
def policerOk (x : Nat) : Bool :=
  onlyBits x 128 [(0, 3), (8, 20), (32, 20), (64, 24), (96, 24)] && fld x 0 2 ≠ 3 && fld x 8 20 ≤ 800000 && fld x 32 20 ≤ 800000 &&
    (fld x 0 2 ≠ 2 || fld x 8 20 ≤ fld x 32 20)

/-- The bursts of a policer entry (R252). -/
def policerBursts (x : Nat) : Bool :=
  fld x 0 2 = 0 || (4352 ≤ fld x 64 24 && (fld x 96 24 = 0 || 4352 ≤ fld x 96 24))

/-- A policer as an entry sets it, with full buckets (R252). -/
def policerFrom (s : State) (x : Nat) : Policer :=
  { mode := fld x 0 2, aware := tbit x 2, cir := fld x 8 20, pir := fld x 32 20, cbs := fld x 64 24, ebs := fld x 96 24
    tc := fld x 64 24 * tokenByte, te := fld x 96 24 * tokenByte, lastCyc := s.clk.chimney1024 }

/-- The entries of a gate control list (R253). -/
def gateEntries (bs : List Byte) : List (Nat × Nat) :=
  (chunks 4 64 bs).map fun e => (leAt e 0 1, leAt e 1 3)

/-- Every interval is at least one cycle. -/
def gatesOk (l : List (Nat × Nat)) : Bool := l.length ≤ 64 && l.all fun e => 1 ≤ e.2

/-- Longest run of cycles that keeps class 7 closed, across the wrap (R254). -/
def closed7 (l : List (Nat × Nat)) : Nat :=
  if l.any fun e => tbit e.1 7 then
    ((l ++ l).foldl (fun (x : Nat × Nat) e => if tbit e.1 7 then (0, x.2) else (x.1 + e.2, max x.2 (x.1 + e.2))) (0, 0)).2
  else if l.isEmpty then 0 else 2 ^ 64

/-! ## Flues (R374) -/

/-- A Flue entry: reserved bits zero. -/
def flueOk (x : Nat) : Bool := onlyBits x 64 [(0, 3), (8, 6), (16, 8)]

/-- A Flue entry in force. -/
def flueFrom (x : Nat) : Flue :=
  { en := tbit x 0, quartered := tbit x 1, fullFec := tbit x 2, overhead := fld x 8 6, roles := fld x 16 8 }

/-- Links of R335 by their index, on a member or on the spare: the roles that a Flue section must leave them. -/
def cellWired (spare : Bool) (l : Nat) : Bool := if spare then l < 64 else l < 17

/-- The role of link `k` of a Flue. -/
def entryRole (x : Flue) (k : Nat) : Nat := fld x.roles (2 * k) 2

/-- Check 10 on one Flue: S0 and S1 Whole with Full FEC; links of R335 cell or unused; a Spare without partner or inter-cell
links. -/
def flueFits (spare : Bool) (f : Nat) (x : Flue) : Bool :=
  if 24 ≤ f then !x.quartered && x.fullFec
  else (List.range 4).all fun k =>
    (!cellWired spare (4 * f + k) || entryRole x k ≤ 1) && (!spare || entryRole x k ≤ 1)

/-- Roles of the links of Flue `f` under R335 where the image has no FLUES section. -/
def defaultRoles (spare : Bool) (pos f : Nat) : Nat :=
  let row := pos / 8
  let col := pos % 8
  let role := fun (l : Nat) =>
    if spare then (if l < 64 then 1 else 0)
    else if l < 8 then (if l = col then 0 else 1)
    else if l < 16 then (if l = 8 + row then 0 else 1)
    else if l = 16 then 1
    else if l < 20 then 0
    else 3
  ((List.range 4).map fun k => role (4 * f + k) * 2 ^ (2 * k)).sum

/-- A Flue's default (R374). -/
def defaultFlue (spare : Bool) (pos f : Nat) : Flue :=
  if 24 ≤ f then { en := true, fullFec := true }
  else if spare then { en := f < 16, quartered := f < 16, roles := if f < 16 then defaultRoles true pos f else 0 }
  else if f < 5 then { en := true, quartered := true, roles := defaultRoles false pos f }
  else { en := true, roles := 3 }

/-! ## POWER (R425) and ASHPIT (R445) -/

/-- POLICY of domain `n`. -/
def policyOf (x n : Nat) : Nat := fld x (16 + 2 * n) 2

/-- The policy that a domain takes: 1 on, 2 auto, 3 off (R425). -/
def policyIn (x n : Nat) : Nat := if policyOf x n = 0 then (if n < 8 then 2 else 1) else policyOf x n

/-- The table of R405 allows a domain the policy. -/
def policyAllowed (n p : Nat) : Bool :=
  p = 0 || p = 1 || (p = 2 && n < 8) || (p = 3 && 8 ≤ n && n ≠ 26 && n ≠ 28 && n ≠ 29)

/-- Fields of a POWER section in range, reserved bits zero. -/
def powerOk (bs : List Byte) : Bool :=
  let x := sectNat bs
  bs.length = 64 && onlyBits x 512 [(0, 12), (16, 60), (80, 10), (96, 44), (160, 21)] && fld x 0 2 ≠ 3 && fld x 2 10 ≤ 1000 &&
    zeroOr 60 110 (fld x 80 7) && zeroOr 480 600 (fld x 96 10) && zeroOr 480 600 (fld x 106 10) &&
    zeroOr 3000 3300 (fld x 116 12) && zeroOr 3300 3600 (fld x 128 12) && zeroOr 64 1048576 (fld x 160 21)

/-- Every policy of a POWER section is one that its domain allows. -/
def policiesAllowed (bs : List Byte) : Bool := (List.range 30).all fun n => policyAllowed n (policyOf (sectNat bs) n)

/-- A field of the POWER section in force, or its default. -/
def powerFld (s : State) (lo w d : Nat) : Nat := orElse0 (fld s.cfg.power.toNat lo w) d

/-- Fields of an ASHPIT section in range, reserved bits zero. -/
def ashpitOk (bs : List Byte) : Bool :=
  let x := sectNat bs
  bs.length = 64 && onlyBits x 512 [(0, 50)] && zeroOr 10 100 (fld x 0 8) && zeroOr 10 200 (fld x 8 8) && zeroOr 5 100 (fld x 16 8) &&
    zeroOr 3 12 (fld x 24 4) && (fld x 28 4 ≤ 8 || fld x 28 4 = 15) && zeroOr 10 200 (fld x 32 8) && zeroOr 50 540 (fld x 40 10)

/-- A field of the ASHPIT section in force, or its default. -/
def ashpitFld (s : State) (lo w d : Nat) : Nat := orElse0 (fld s.cfg.ashpit.toNat lo w) d

/-! ## Job-table entry (R258) -/

/-- A job-table entry that JOB_SET may carry. -/
def jobOk (x : Nat) : Bool :=
  onlyBits x 512 [(0, 5), (8, 7), (16, 20), (40, 7), (48, 11), (64, 44), (128, 64), (192, 11), (208, 16), (224, 44), (288, 32), (320, 98)] &&
    fld x 0 4 = 2 && (fld x 8 4 = 9 || fld x 8 4 = 10) && fld x 48 11 ≤ 1792 && fld x 128 64 % 4096 = 0 && fld x 192 11 ≤ 1024 &&
    (fld x 128 64 = 0 || 1 ≤ fld x 192 11) && fld x 208 16 ≤ 1000

/-! ## EXTENTS entry (R372) -/

/-- An entry as Hearth, slot, row group, position, version pool. -/
structure ExtEntry where
  hearth : Nat := 0
  slot : Nat := 0
  rowgrp : Nat := 0
  pos : Nat := 0
  vpool : Bool := false
deriving DecidableEq, Repr

/-- An entry from its 8 bytes. -/
def extEntry (bs : List Byte) : ExtEntry :=
  let x := sectNat (bs.take 8)
  { hearth := fld x 0 3, slot := fld x 3 9, rowgrp := fld x 12 6, pos := fld x 18 5, vpool := tbit x 23 }

/-- Ranges of an entry that do not hang on its group's mode. -/
def extEntryOk (bs : List Byte) : Bool :=
  onlyBits (sectNat (bs.take 8)) 64 [(0, 24)] && (extEntry bs).rowgrp < 48

/-- The position of an entry fits a group of mode 1 Fine or 2 Dense, named by its set's first group (R36, R372). -/
def posFits (mode : Nat) (e : ExtEntry) : Bool := (mode = 1 && e.pos ≤ 6) || (mode = 2 && e.rowgrp % 4 = 0 && e.pos ≤ 30)

/-- The groups of a placement map obey R340: kinds, counts, ranges, distinct positions, and no two groups meet at one position. -/
def groupOk (n : Nat) (g : Group) : Bool :=
  ((g.kind = 1 && g.k = 1) || (g.kind = 2 && 3 ≤ g.k && g.k ≤ 7)) && 1 ≤ g.nslots && g.first + g.nslots ≤ 512 &&
    g.pos.length = g.k + 1 && g.pos.all (· < n) && g.pos.eraseDups.length = g.k + 1

/-- Two groups name one slot of one position. -/
def groupsMeet (a b : Group) : Bool :=
  a.hearth = b.hearth && a.first < b.first + b.nslots && b.first < a.first + a.nslots && a.pos.any b.pos.contains

/-- Pairs of a list in order. -/
def pairsOf {α : Type} : List α → List (α × α)
  | [] => []
  | x :: xs => xs.map (fun y => (x, y)) ++ pairsOf xs

/-- Every group obeys R340. -/
def groupsOk (m : PMap) : Bool := m.groups.all (groupOk m.nmem) && (pairsOf m.groups).all fun p => !groupsMeet p.1 p.2

/-- The protection and the copy of a slot at a position under a map's groups (R340): its PROT, and whether it is a copy slot. -/
def slotRole (m : PMap) (spare : Bool) (pos k : Nat) : Nat × Bool :=
  if spare then (0, false)
  else match m.groups.find? fun g =>
      g.hearth = k / 512 && g.first ≤ k % 512 && k % 512 < g.first + g.nslots && (g.pos.take (g.k + 1)).contains pos with
    | some g => if nth 0 g.pos ((k % 512 - g.first) % (g.k + 1)) = pos then (0, true) else (g.kind, false)
    | none => (0, false)

end Sys2Proof.Machine
end

