-- ==== Sys2Proof/Machine/Power.lean ====
section
/-! DEFINITION. Power (R405 to R425): the policies of the switched domains and what gating one does, the entry rule, entry into
Smoulder or Ember, and wake events. -/

namespace Sys2Proof.Machine

/-! ## Domains (R405 to R407) -/

/-- The domains that a POWER section leaves powered in Run: all but those off; a Stove group goes with its Hearth's domain (R405). -/
def policyDomains (x : Nat) : BitVec 30 :=
  BitVec.ofNat 30 ((List.range 30).map fun n =>
    if policyIn x n ≠ 3 && !(n < 8 && policyIn x (n + 8) = 3) then 2 ^ n else 0).sum

/-- A domain is powered. -/
def domainOn (s : State) (d : Nat) : Bool := s.pwr.domains.getLsbD d

/-- A domain powered, or unpowered. -/
def setDomain (s : State) (d : Nat) (on : Bool) : State :=
  onPwr s fun p => { p with domains := BitVec.ofNat 30 (setFld p.domains.toNat d 1 (b2n on)), returning := tput none p.returning d none }

/-- The links of a Flue group. -/
def groupLinks (k : Nat) : List Nat := (List.range 16).map (16 * k + ·)

/-- A tier-0 tile leaves its quadrant (R57): a dirty one is written back, a fill is abandoned and tier 1 takes its writes, a
clean one is gone. -/
def dropTile (s : State) (h : Nat) (t : T0Tile) : State :=
  let s1 := onT0Slice s h fun x => { x with tiles := dropFirst (·.tile = t.tile) x.tiles }
  match t.status with
  | .filling _ => forAll t.held serveHome (onT0 s1 fun x => { x with abandoned := satInc 64 x.abandoned })
  | .whole =>
    if t.dirty then
      forAll (List.range 256) (fun s k => queueDram s (t.tile * 256 + k) true) (meter s1 (extOf s1 (t.tile * 16384)).job 1 16384)
    else forAll t.under setPoison s1
  | .evicting =>
    forAll (List.range 256) (fun s k => queueDram s (t.tile * 256 + k) true) (meter s1 (extOf s1 (t.tile * 16384)).job 1 16384)

/-- The tier-0 slice of a Hearth is emptied (R57). -/
def emptySlice (s : State) (h : Nat) : State :=
  let s1 := forAll (t0Slice s h).tiles (fun s t => dropTile s h t) s
  onT0Slice s1 h fun _ => {}

/-- A link whose group is gated: a doze notice leaves, and what stood in its queues is lost (R405, R418, R428). -/
def gateLink (s : State) (l : Nat) : State :=
  if !(linkOf s l).up then s
  else
    let s1 := onLinks s fun x => { x with dozes := x.dozes ++ [(l, s.clk.pilot)] }
    let s2 := takeDown (onLink s1 l fun x => { x with q := [], tx := none }) l
    ashLimited s2 3 (0x10 + flueOf l) 0x0303 [(0, natLe 1 l), (1, natLe 1 5)]

/-- A domain is gated in Run (R405, R407). -/
def gateDomain (s : State) (d : Nat) : State :=
  if !domainOn s d then setDomain s d false
  else
    let s1 :=
      if d < 8 then s
      else if d < 16 then onHome (setDomain s (d - 8) false) fun x => { x with slices := tput {} x.slices (d - 8) {} }
      else if d < 20 then emptySlice (emptySlice s (2 * (d - 16))) (2 * (d - 16) + 1)
      else if d < 26 then forAll (groupLinks (d - 20)) gateLink s
      else s
    setDomain s1 d false

/-- A domain is asked to return (R406). -/
def recallDomain (s : State) (d : Nat) : State :=
  if domainOn s d || (tget none s.pwr.returning d).isSome then s
  else onPwr s fun p => { p with returning := tput none p.returning d (some s.clk.pilot) }

/-- A new POWER section in force: each policy that changes takes effect (R406, R426). -/
def applyPower (s : State) (x : Nat) : State :=
  let old := s.cfg.power.toNat
  let s1 := onCfg s fun c => { c with power := BitVec.ofNat 512 x }
  forAll (List.range 30) (fun s d =>
    if policyIn old d = policyIn x d then s
    else if policyIn x d = 3 then gateDomain s d
    else if d < 8 then (if policyIn x d = 1 && domainOn s (d + 8) then recallDomain s d else s)
    else if d < 16 then (if policyIn x (d - 8) = 1 then recallDomain (recallDomain s d) (d - 8) else recallDomain s d)
    else recallDomain s d) s1

/-- The module is a live Member in its committed map (R406, R410). -/
def isMember (s : State) : Bool := s.boot.role = 0 && isLive s.cell.map s.boot.pos

/-- The CELL section names a copy slot or the journal slot in a Hearth at this position. -/
def namedSlots (s : State) (h : Nat) : Bool :=
  h = 0 || (s.boot.role = 0 && s.cell.map.groups.any fun g => g.hearth = h && g.pos.contains s.boot.pos)

/-- The state refuses to gate a domain (R406). -/
def gateRefused (s : State) (d : Nat) : Bool :=
  if 8 ≤ d && d < 16 then
    let h := d - 8
    (s.ext.tab.any fun e => e.1 / 512 = h && e.2.state ≠ 0 && e.2.state ≠ 1) ||
      (blocksInUse s).any (fun b => b / 2 ^ 39 = h) || namedSlots s h
  else if 20 ≤ d && d < 26 then isMember s && (groupLinks (d - 20)).any fun l => cellWired false l && linkRole s l = 1
  else d = 27 && isMember s

/-- A POWER section is refused at check 10 (R406). -/
def powerRefused (s : State) (x : Nat) : Bool :=
  let old := s.cfg.power.toNat
  (List.range 30).any fun d =>
    policyIn old d ≠ policyIn x d && (!policyAllowed d (policyOf x d) || (policyIn x d = 3 && gateRefused s d))

/-! ## The entry rule (R410) -/

/-- The conditions that refuse entry, as the bits of REFUSE; `own` is the buffer whose record asks. -/
def entryRefuse (s : State) (own : Option Nat) : Nat :=
  let bufs := s.auth.bufs.any fun b => some b.1 ≠ own && (b.2.state = 2 || b.2.state = 3 || b.2.session.isSome)
  let posted := s.sched.any (fun e => !e.2.queue.isEmpty || !e.2.pend.isEmpty) || !s.stv.items.isEmpty
  let moving := s.cell.map.moves.any fun v => v.stage = 1 && (v.fromPos = s.boot.pos || v.toPos = s.boot.pos)
  b2n (leasesLive s ≠ 0) + 2 * b2n ((List.range 8).any fun h => waysInUse s h ≠ 0) + 4 * b2n (!s.ext.snaps.isEmpty) +
    8 * b2n posted + 16 * b2n (isMember s) +
    32 * b2n (bufs || s.sites.sites.any fun e => e.2.test.isSome) +
    64 * b2n (!s.cell.units.isEmpty || (moving && s.boot.role = 0) || s.chim.regs.any fun r => !r.rounds.isEmpty)

/-- An entry refused: the module stays in Run (R410). -/
def refuseEntry (s : State) (bits : Nat) : State :=
  onPwr s fun p => { p with refuse := bits, refusals := satInc 32 p.refusals }

/-! ## Entry (R412) -/

/-- Partner and fabric requests among accesses that wait for translation. -/
def waitingReqs (s : State) : List Waiting :=
  (s.trn.waiting ++ s.trn.walks.flatMap (·.waiters) ++ s.trn.faults.flatMap (·.waiters)).filter fun w =>
    match w.who with | .req _ => true | _ => false

/-- Every request not yet ordered at a home is answered BUSY (R412 step 1). -/
def answerUnordered (s : State) : State :=
  let notReq := fun (w : Waiting) => match w.who with | .req _ => false | _ => true
  let s1 := forAll (waitingReqs s) (fun s w => failWaiter s stBusy w) (onTrn s fun t => { t with
    waiting := t.waiting.filter notReq
    walks := t.walks.map fun w => { w with waiters := w.waiters.filter notReq }
    faults := t.faults.map fun p => { p with waiters := p.waiters.filter notReq } })
  let late := s1.trn.parked.map Prod.fst ++ s1.net.held.map Prod.fst ++ s1.sites.waits.map Prod.fst ++
    s1.net.asms.map (·.r)
  let s2 := onTrn s1 fun t => { t with parked := [] }
  let s3 := onNet s2 fun n => { n with held := [], asms := [] }
  forAll late (fun s r => turnAway s r stBusy) (onSites s3 fun x => { x with waits := [] })

/-- Entry begins (R412 steps 1 and 2): into Ember where `deep`. A doze notice leaves on every fabric link that is up. -/
def beginEntry (s : State) (deep : Bool) (wakeAfter : Nat) : State :=
  let s1 := onPwr (answerUnordered s) fun p => { p with
    state := if deep then 3 else 1, pendingWake := none
    wakeTimer := if wakeAfter = 0 then none else some (s.clk.pilot + wakeAfter) }
  let ups := (List.range 96).filter fun l => (linkOf s1 l).up
  onLinks s1 fun x => { x with dozes := x.dozes ++ ups.map fun l => (l, s.clk.pilot) }

/-- A request to enter a state, judged by the entry rule (R410, R411). -/
def tryEntry (s : State) (deep : Bool) : State :=
  let bits := entryRefuse s none
  if bits = 0 then beginEntry s deep 0 else refuseEntry s bits

/-- SPARE_STATE (R425): 0 Smoulder, 1 Ember, 2 Run. -/
def spareState (s : State) : Nat := fld s.cfg.power.toNat 0 2

/-- A Spare that does not serve enters SPARE_STATE (R411). -/
def enterSpareState (s : State) : State := if spareState s = 2 then s else tryEntry s (spareState s = 1)

/-! ## Wake (R413 to R415) -/

/-- A wake event (R413 to R415): asleep, exit begins and the domains return as their policies say; during entry it is recorded and counted; during exit the first stands. -/
def wakeEvent (s : State) (src link : Nat) : State :=
  let st := s.pwr.state
  if st = 2 || st = 4 then
    onPins (onPwr s fun p => { p with
      state := 5, wakeSrc := src, wakeLink := link, wakeTimer := none, domains := policyDomains s.cfg.power.toNat })
      fun p => { p with refclkEn := true }
  else if st = 1 || st = 3 then
    onPwr s fun p => { p with
      wakesInEntry := satInc 32 p.wakesInEntry
      pendingWake := match p.pendingWake with | some w => some w | none => some (src, link) }
  else s

/-- What entry and exit do to the links: lanes are off, and HELLO is exchanged again (R412, R413). -/
def sleepLinks (s : State) : State :=
  forAll ((List.range 98).filter fun l => (linkOf s l).up) (fun s l =>
    takeDown (onLink s l fun x => { x with q := [], tx := none }) l) s

end Sys2Proof.Machine
end

