-- ==== Sys2Proof/Machine/Image.lean ====
section
/-! DEFINITION. The configuration image (R365 to R376): its parts, the checks of R366, and what it puts in force. Hashes, moduli and
signatures are taken little-endian, first byte first (log 44). -/

namespace Sys2Proof.Machine

/-! ## Parts (R365) -/

/-- A section-table entry. -/
structure SectEntry where
  styp : Nat := 0
  srev : Nat := 0
  offset : Nat := 0
  length : Nat := 0
  crc : Nat := 0
  raw : Nat := 0
deriving DecidableEq, Repr

/-- A section-table entry from its 32 bytes. -/
def sectEntry (bs : List Byte) : SectEntry :=
  let x := leNat bs
  { styp := fld x 0 8, srev := fld x 8 4, offset := fld x 32 32, length := fld x 64 32, crc := fld x 96 32, raw := x }

/-- NSECT, IMAGE_LEN and KEY_SLOT of an image header. -/
def imgNsect (h : Nat) : Nat := fld h 40 6
def imgLength (h : Nat) : Nat := fld h 64 32
def imgKey (h : Nat) : Nat := fld h 136 2

/-- The section table of an image. -/
def sectTable (im : List Byte) : List SectEntry :=
  upTo (imgNsect (leAt im 0 8)) fun i => sectEntry (byteSlice im (640 + 32 * i) 32)

/-- The bytes of a section, where the image has it. -/
def sectOf (im : List Byte) (styp : Nat) : Option (List Byte) :=
  ((sectTable im).find? (·.styp = styp)).map fun e => byteSlice im e.offset e.length

/-- A section's bytes, or the empty list. -/
def sectOr (im : List Byte) (styp : Nat) : List Byte := (sectOf im styp).getD []

/-! ## Keys (R388) -/

/-- A key slot is programmed and not revoked. -/
def keyUsable (x : BitVec 2048) (k : Nat) : Bool := tbit (fuseFld x 1152 4) k && !tbit (fuseFld x 1156 4) k

/-- The authority matrix grants a class to a slot; classes from 0x14 on grant nothing (R389). -/
def keyGrants (x : BitVec 2048) (k c : Nat) : Bool := c < 0x14 && tbit (fuseFld x (1280 + 32 * k) 32) c

/-- The hash of a modulus is the slot's (R388). -/
def keyMatches (x : BitVec 2048) (k : Nat) (modulus : List Byte) : Bool := leNat (sha256 modulus) = fuseFld x (128 + 256 * k) 256

/-- RSASSA-PSS over all but the last 384 bytes, which are the signature (R365, R390). -/
def signedBy (modulus bs : List Byte) : Bool :=
  rsaPssVerify (leNat modulus) (leNat (bs.drop (bs.length - 384))) (bs.take (bs.length - 384))

/-! ## Ranges (check 9) -/

/-- The SITES section (R371). -/
def sitesOk (bs : List Byte) : Bool :=
  bs.length = 144 && onlyBits (leNat bs) 1152 ((0, 32) :: (List.range 8).map fun h => (128 + 128 * h, 96))

/-- The EXTENTS section's entries (R372). -/
def extList (bs : List Byte) : List ExtEntry := (chunks 8 2976 bs).map extEntry

/-- The EXTENTS section (R372). -/
def extentsOk (bs : List Byte) : Bool :=
  bs.length % 8 = 0 && bs.length ≤ 8 * 2976 && (chunks 8 2976 bs).all extEntryOk

/-- The FLUES section (R374). -/
def fluesOk (bs : List Byte) : Bool :=
  bs.length = 1536 && (List.range 26).all (fun f => flueOk (leAt bs (8 * f) 8)) &&
    zeroOr 1024 4096 (leAt bs 242 2) && leAt bs 244 12 = 0 && (List.range 320).all fun i => routeOk (leAt bs (256 + 4 * i) 4)

/-- Place of a link's entries in the DAMPERS section (log 45). -/
def damperAt (l : Nat) : Nat := 200 * l

/-- Bytes of the gate list of a Flue in the DAMPERS section: its entries, as many as its count says (log 45). -/
def damperGates (bs : List Byte) (f : Nat) : List Byte :=
  let o := 200 * 98 + 260 * f
  byteSlice bs (o + 4) (4 * min 64 (leAt bs o 4))

/-- The DAMPERS section (R250, R252, R253, log 45): an entry of zeros is the default. -/
def dampersOk (bs : List Byte) : Bool :=
  bs.length = 200 * 98 + 260 * 26 &&
    (List.range 98).all (fun l =>
      (List.range 9).all (fun c => let x := leAt bs (damperAt l + 8 * c) 8; x = 0 || shaperOk x c) &&
      (List.range 8).all fun c => let x := leAt bs (damperAt l + 72 + 16 * c) 16; policerOk x && policerBursts x) &&
    (List.range 26).all fun f =>
      leAt bs (200 * 98 + 260 * f) 4 ≤ 64 && gatesOk (gateEntries (damperGates bs f)) && closed7 (gateEntries (damperGates bs f)) ≤ 125000

/-- The CELL section (R375): the fields that it uses are in range, all others zero. -/
def cellOk (bs : List Byte) : Bool :=
  let x := leAt bs 0 64
  bs.length = 9280 && onlyBits x 512 [(0, 16), (40, 7), (48, 9), (224, 9)] && (fld x 0 4 = 0 || fld x 0 4 = 2) &&
    (fld x 4 4 = 0 || fld x 4 4 = 0xC) && 8 ≤ fld x 40 7 && fld x 40 7 ≤ 64 && fld x 48 9 ≤ 256 &&
    (List.range 64).all (fun p => let e := leAt bs (64 + 16 * p) 16; onlyBits e 128 [(0, 65)]) &&
    (List.range 256).all fun g =>
      let e := leAt bs (1088 + 32 * g) 32
      if fld x 48 9 ≤ g then e = 0
      else onlyBits e 256 [(0, 27), (32, 48)] && (List.range 8).all fun i => i ≤ fld e 2 3 || fld e (32 + 6 * i) 6 = 0

/-- Every field of the image is in range and every reserved field zero. -/
def imageRanges (im : List Byte) : Bool :=
  let opt := fun (t : Nat) (p : List Byte → Bool) => match sectOf im t with | some bs => p bs | none => true
  onlyBits (leAt im 0 256) 2048 [(0, 46), (64, 71), (136, 2), (144, 16)] && fld (leAt im 0 256) 128 7 ≤ 64 &&
    (sectTable im).all (fun e => onlyBits e.raw 256 [(0, 12), (32, 96)]) &&
    opt 1 moduleOk && opt 2 sitesOk && opt 3 extentsOk && opt 4 fluesOk && opt 5 dampersOk && opt 6 cellOk &&
    opt 7 powerOk && opt 8 ashpitOk && opt 9 fun bs => 65536 ≤ bs.length && bs.length ≤ 2 ^ 24

/-! ## Consistency (check 10) -/

/-- The row-group mode that a SITES section names: 0 unnamed, 1 Fine, 2 Dense, 3 unassigned (R371). -/
def namedMode (sites : List Byte) (h g : Nat) : Nat := fld (leAt sites (16 + 16 * h) 12) (2 * g) 2

/-- The mode of a row group: 0 unassigned, 1 Fine, 2 Dense; an unnamed one takes STRAP_STORE (R360, R371). -/
def rowMode (store : Nat) (sites : List Byte) (h g : Nat) : Nat :=
  let m := namedMode sites h g
  if m = 0 then
    (if store = 0 then 1
     else if store = 1 && (List.range 4).all (fun i => namedMode sites h (g / 4 * 4 + i) = 0) then 2
     else 0)
  else if m = 3 then 0 else m

/-- Every named Dense group's set is wholly Dense (R371). -/
def denseWhole (store : Nat) (sites : List Byte) : Bool :=
  (List.range 8).all fun h => (List.range 48).all fun g =>
    namedMode sites h g ≠ 2 || (List.range 4).all fun i => rowMode store sites h (g / 4 * 4 + i) = 2

/-- The rules of R372 on the named extents. -/
def extentsFit (s : State) (m : PMap) (jslot : Nat) (sites : List Byte) (es : List ExtEntry) : Bool :=
  let store := fld s.boot.straps.toNat 1 2
  let spare := s.boot.role = 1
  let names := fun (h k : Nat) => es.any fun e => e.hearth = h && e.slot = k
  es.all (fun e => posFits (rowMode store sites e.hearth e.rowgrp) e) &&
    ((es.map fun e => (e.hearth, e.slot)).eraseDups.length = es.length) &&
    ((es.map fun e => (e.hearth, e.rowgrp, e.pos)).eraseDups.length = es.length) &&
    names 0 jslot && (List.range 4096).all fun k => !(slotRole m spare s.boot.pos k).2 || names (k / 512) (k % 512)

/-- A Member's position is named in the CELL section, for its die or for any (R375). -/
def positionNamed (s : State) (m : PMap) : Bool :=
  let e := memberAt m s.boot.pos
  s.boot.role = 1 || (e.mstate = 1 && (e.serial = 0 || e.serial = ownSerial s))

/-- Length of the image shadow (R376). -/
def shadowLen (im : List Byte) : Nat :=
  ((sectTable im).filter (·.styp ≠ 9)).foldl (fun a e => roundUp 64 a + e.length) (640 + 32 * imgNsect (leAt im 0 8))

/-- The rules of R370 to R376 and R425 hold. -/
def imageFits (s : State) (im : List Byte) : Bool :=
  let m := mapFields (sectOr im 6)
  let flues := sectOf im 4
  denseWhole (fld s.boot.straps.toNat 1 2) (sectOr im 2) &&
    extentsFit s m (fld (leAt (sectOr im 6) 0 64) 224 9) (sectOr im 2) (extList (sectOr im 3)) &&
    (match flues with
      | some bs => (List.range 26).all fun f => flueFits (s.boot.role = 1) f (flueFrom (leAt bs (8 * f) 8))
      | none => true) &&
    groupsOk m && positionNamed s m && policiesAllowed (sectOr im 7) && shadowLen im ≤ 2 ^ 20

/-! ## The checks in order (R366) -/

/-- Every section within the image, aligned, none meeting another (check 3). -/
def sectionsPlaced (len : Nat) (es : List SectEntry) : Bool :=
  es.all (fun e => 640 + 32 * es.length ≤ e.offset && e.offset + e.length ≤ len - 384 && e.offset % 64 = 0) &&
    (pairsOf es).all fun p => p.1.offset + p.1.length ≤ p.2.offset || p.2.offset + p.2.length ≤ p.1.offset

/-- The check that rejects the slot at byte `base` of the image NVM; 0 where every check passes. -/
def imageCheck (s : State) (base : Nat) : Nat :=
  let h := leNat (imgBytes s base 256)
  let len := imgLength h
  let k := imgKey h
  let f := s.boot.idn
  if fld h 0 32 ≠ 0x4756494D || fld h 36 4 ≠ 0xD || fld h 144 16 ≠ 0x2032 then 1
  else if fld h 32 4 ≠ 2 then 2
  else if len < 4096 || 33554432 < len || len % 64 ≠ 0 || imgNsect h = 0 || 32 < imgNsect h ||
      !sectionsPlaced len (sectTable (imgBytes s base (640 + 32 * imgNsect h))) then 3
  else if fld h 128 7 < fuseRollback f then 4
  else if !keyUsable f k || !keyGrants f k 0 || !keyMatches f k (imgBytes s (base + 256) 384) then 5
  else
    let im := imgBytes s base len
    let es := sectTable im
    if !signedBy (byteSlice im 256 384) im then 6
    else if !es.all (fun e => crc32c (byteSlice im e.offset e.length) = e.crc && e.srev = 2 && 1 ≤ e.styp && e.styp ≤ 9) ||
        (es.map (·.styp)).eraseDups.length ≠ es.length then 7
    else if (sectOf im 9).isNone || (sectOf im 6).isNone then 8
    else if !imageRanges im then 9
    else if !imageFits s im then 10
    else 0

/-! ## What the image puts in force -/

/-- The image shadow (R376). -/
def shadowImage (im : List Byte) : List Byte :=
  let es := sectTable im
  let start := 640 + 32 * es.length
  let (_, table, body) := es.foldl (fun (x : Nat × List Byte × List Byte) e =>
    if e.styp = 9 then
      (x.1, x.2.1 ++ natLe 32 (setFld (setFld e.raw 32 32 0) 64 32 0), x.2.2)
    else
      let o := roundUp 64 x.1
      (o + e.length, x.2.1 ++ natLe 32 (setFld e.raw 32 32 o),
        x.2.2 ++ List.replicate (o - x.1) 0 ++ byteSlice im e.offset e.length)) (start, [], [])
  natLe 256 (setFld (leAt im 0 256) 64 32 (shadowLen im)) ++ byteSlice im 256 384 ++ table ++ body

/-- The Flues as the FLUES section sets them, or by default (R374). -/
def flueTab (s : State) (bs : Option (List Byte)) : Tab Flue :=
  forAll (List.range 26) (fun t f => tput {} t f (match bs with
    | some x => flueFrom (leAt x (8 * f) 8)
    | none => defaultFlue (s.boot.role = 1) s.boot.pos f)) []

/-- A route table of `n` entries in the FLUES section, from its byte `o`. -/
def routeTab (bs : List Byte) (o n : Nat) : Tab (BitVec 32) :=
  forAll (List.range n) (fun t i => tput 0x7F7F7F7F t i (BitVec.ofNat 32 (leAt bs (o + 4 * i) 4))) []

/-- The FLUES section in force (R374). -/
def applyFlues (s : State) (bs : Option (List Byte)) : State :=
  let x := bs.getD []
  let s1 := onCfg s fun c => { c with
    flues := flueTab s bs, udpPort := orElse0 (leAt x 240 2) 47062, svcPayload := orElse0 (leAt x 242 2) 1024
    ipv6 := tput 0 (tput 0 [] 0 (leAt x 208 16)) 1 (leAt x 224 16) }
  match bs with
  | some x => onChim s1 fun c => { c with cellTab := routeTab x 256 256, posTab := routeTab x 1280 64 }
  | none => s1

/-- The DAMPERS section in force (R250, R252, R253); its gate lists start at Ready (R375). -/
def applyDampers (s : State) (bs : List Byte) : State :=
  let one := fun (s : State) (l : Nat) =>
    let shapers := forAll (List.range 9) (fun (t : Tab (Option Shaper)) c =>
      let x := leAt bs (damperAt l + 8 * c) 8
      if x = 0 then t else tput none t c (some (shaperFrom s x true))) []
    let pols := forAll (List.range 8) (fun (t : Tab Policer) c =>
      let x := leAt bs (damperAt l + 72 + 16 * c) 16
      if x = 0 then t else tput {} t c (policerFrom s x)) []
    onLink s l fun y => { y with shapers := shapers, pols := pols }
  let s1 := forAll (List.range 98) one s
  onChim s1 fun c => { c with
    gates := forAll (List.range 26) (fun t f => tput {} t f { list := gateEntries (damperGates bs f) }) [] }

/-- The image of a slot loaded (R361 step 4, R369 to R376). -/
def loadImage (s : State) (slot : Bool) : State :=
  let h := leNat (imgBytes s (slotBase slot) 256)
  let im := imgBytes s (slotBase slot) (imgLength h)
  let cell := sectOr im 6
  let m := mapFields cell
  let s1 := onBoot s fun b => { b with
    slot := slot, imgVersion := fld h 96 32, imgLen := imgLength h, imgRollback := fld h 128 7, imgKeySlot := imgKey h
    imgHash := leNat (sha256 im), shadow := shadowImage im, cell := m.cell }
  let s2 := onCfg s1 fun c => { putModule c (sectOr im 1) with
    siteOff := leAt (sectOr im 2) 0 4, cellMap := { cell := m.cell, nmem := m.nmem, members := m.members, groups := m.groups }
    jslot := fld (leAt cell 0 64) 224 9, power := BitVec.ofNat 512 (leNat (sectOr im 7)), ashpit := BitVec.ofNat 512 (leNat (sectOr im 8)) }
  let s3 := applyFlues s2 (sectOf im 4)
  let s4 := match sectOf im 5 with | some bs => applyDampers s3 bs | none => s3
  let s5 := onMtr s4 fun t => { t with staticW := ashpitFld s4 40 10 170 }
  onPwr s5 fun p => { p with domains := policyDomains s5.cfg.power.toNat }

/-! ## Extents of the image (R371 to R373) -/

/-- A section of the image in use, as the shadow holds it (R376). -/
def shadowSect (s : State) (styp : Nat) : List Byte := sectOr s.boot.shadow styp

/-- One extent created: FREE, its PROT by the groups; a copy slot and the journal slot read ABSENT (R340, R350, R372, R373). -/
def makeExtent (s : State) (mode : Nat) (e : ExtEntry) : State :=
  let k := 512 * e.hearth + e.slot
  let (prot, copy) := slotRole s.cfg.cellMap (s.boot.role = 1) s.boot.pos k
  let hidden := copy || k = s.cfg.jslot
  onExt s fun x => { x with
    tab := tput {} x.tab k { state := if hidden then 0 else 1, dense := mode = 2, prot := prot, vpool := e.vpool, rowgrp := e.rowgrp, pos := e.pos,
                               term := if hidden then 1 else 0 } }

/-- The lowest slot of a Hearth that holds no extent. -/
def freeSlot (s : State) (h : Nat) : Option Nat := (List.range 512).find? fun k => tget {} s.ext.tab (512 * h + k) = {}

/-- An extent of an unnamed row group, in the lowest free slot (R373). -/
def fillExtent (s : State) (h mode g pos : Nat) : State :=
  if s.ext.tab.any fun e => e.1 / 512 = h && e.2 ≠ {} && e.2.rowgrp = g && e.2.pos = pos then s
  else match freeSlot s h with
    | some k => makeExtent s mode { hearth := h, slot := k, rowgrp := g, pos := pos }
    | none => s

/-- Row-group modes and extents of every Hearth (R371 to R373): none in a Hearth with a site out of service. -/
def makeExtents (s : State) : State :=
  let store := fld s.boot.straps.toNat 1 2
  let sites := shadowSect s 2
  let mode := fun (h g : Nat) => rowMode store sites h g
  let s1 := onExt s fun x => { x with
    rowModes := forAll (List.range 384) (fun t i => tput 0 t i (mode (i / 48) (i % 48))) [], tab := [] }
  let whole := fun (h : Nat) => (List.range 4).all fun i => (siteAt s (4 * h + i)).trained
  let s2 := forAll ((extList (shadowSect s 3)).filter fun e => whole e.hearth) (fun s e => makeExtent s (mode e.hearth e.rowgrp) e) s1
  forAll ((List.range 384).filter fun i => whole (i / 48)) (fun s i =>
    let h := i / 48
    let g := i % 48
    if namedMode sites h g ≠ 0 then s
    else if mode h g = 1 then forAll (List.range 7) (fun s p => fillExtent s h 1 g p) s
    else if mode h g = 2 && g % 4 = 0 then forAll (List.range 31) (fun s p => fillExtent s h 2 g p) s
    else s) s2

end Sys2Proof.Machine
end

