-- ==== Sys2Proof/Machine/Reset.lean ====
section
/-! DEFINITION. What a loss of power or a reset leaves (R357, R358, R421, R423), and the boot history (R367, R442). -/

namespace Sys2Proof.Machine

/-! ## What is kept -/

/-- Every switched domain and the DRAM have lost power: fuses, NVMs, the Pilot domain and the straps it holds stay, and bring-up
stands at step 4 (R359, R421, R462). -/
def losePower (s : State) : State :=
  { ({} : State) with
    clk := { s.clk with readyMs := 0 }
    pins := { s.pins with imgBusy := false, refclkEn := false }
    boot := {
      phase := 4, straps := s.boot.straps, watchdogs := s.boot.watchdogs, watchdog := s.boot.watchdog, tryOther := s.boot.tryOther
      idn := s.boot.idn, stepping := s.boot.stepping, pos := s.boot.pos, role := s.boot.role, nvm := s.boot.nvm }
    fuse := s.fuse
    auth := { lastSeq := s.auth.lastSeq, applied := s.auth.applied }
    ash := { s.ash with cursors := [] }
    hlth := s.hlth
    pwr := {
      refuse := s.pwr.refuse, wakeSrc := s.pwr.wakeSrc, wakeLink := s.pwr.wakeLink, smEntries := s.pwr.smEntries, emEntries := s.pwr.emEntries
      refusals := s.pwr.refusals, wakesInEntry := s.pwr.wakesInEntry, tjMax := s.pwr.tjMax, throttleEvents := s.pwr.throttleEvents
      lastExitUs := s.pwr.lastExitUs, smS := s.pwr.smS, emS := s.pwr.emS }
    links := { wire := s.links.wire, patterns := s.links.patterns, dozes := s.links.dozes }
    draws := s.draws
    pending := s.pending }

/-- A reset (R358): the Pilot counters, the Ashpit buffer and the watchdog count are kept, and bring-up stands at step 2. -/
def resetDevice (s : State) : State :=
  { losePower s with
    clk := { pilot := s.clk.pilot, opSec := s.clk.opSec, pcycles := s.clk.pcycles, releasePt := s.clk.pilot }
    pins := { s.pins with imgBusy := false, refclkEn := false, smbPtr := 0, smbOut := [], smbNack := false }
    boot := { phase := 2, watchdogs := s.boot.watchdogs, stepping := s.boot.stepping, nvm := s.boot.nvm }
    pwr := {} }

/-- The auxiliary rail is lost (R358, R363, R436): the buffer and the watchdog count go too, and bring-up stands at step 1. -/
def loseRail (s : State) : State :=
  let s1 := resetDevice s
  { s1 with
    pins := { s1.pins with vaux := false, smbAlert := false, tap := .idcode }
    boot := { phase := 1, stepping := s.boot.stepping, nvm := s.boot.nvm }
    ash := { s1.ash with buffer := [], backlog := [], tokens := [], suppressed := [], tries := 0, waits203 := 0, waits404 := 0 } }

/-! ## Boot history (R367, R442) -/

/-- One entry for this bring-up (R367). -/
def addBoot (s : State) : State := onHlth s fun h => { h with boots := historyAdd 64 1024 h.boots (bootEntry s) }

/-- Bring-up stands at another step. -/
def toPhase (s : State) (n : Nat) : State := touchBoot (onBoot s fun b => { b with phase := n })

/-- Bring-up stops at step `n` with a cause (R361, R363, R364, R367): the boot ROM runs step 5 with the default Flues (R377). -/
def stopBoot (s : State) (n code : Nat) : State :=
  let s1 := applyFlues (onBoot s fun b => { b with phase := 12, failStep := n, failCode := code }) none
  addBoot (onPins (onPwr s1 fun p => { p with domains := BitVec.ofNat 30 (2 ^ 26 + 2 ^ 29) }) fun p => { p with
    imgBusy := false, refclkEn := true })

end Sys2Proof.Machine
end

