-- ==== Sys2Proof/Machine/BootRows.lean ====
section
/-! DEFINITION. The commands of bring-up (R357 to R385). -/

namespace Sys2Proof.Machine

/-! ## Steps 1 to 3 -/

/-- AUX_RAIL_UP (R357, R435, R437): the power-cycle count advances; a recorder NVM all of whose copies fail is taken as new. -/
def execAuxRailUp (s : State) : Ans :=
  if s.pins.vaux then notEnabled s
  else
    let s1 := onClk (onPins s fun p => { p with vaux := true }) fun c => { c with pcycles := satInc 32 c.pcycles }
    let s2 := onBoot s1 fun b => { b with phase := 1 }
    if s2.ash.blank then
      .next (ashExempt (onAuth (onAsh s2 fun a => { a with nextRno := 0, lostTotal := 0 }) fun x => { x with lastSeq := [] })
        4 0x30 0x0801 [(0, natLe 1 1)])
    else .next s2

/-- AUX_RAIL_LOSS (R358, R436, R474). -/
def execAuxRailLoss (s : State) : Ans := if s.pins.vaux then .next (loseRail s) else notEnabled s

/-- INTERNAL_RESET_RELEASE (R357, R360, R433, R471): the straps are sampled; counts since internal reset release restart. -/
def execInternalResetRelease (straps : BitVec 12) (s : State) : Ans :=
  if !s.pins.vaux || s.pwr.tripped || !(s.boot.phase = 1 || s.boot.phase = 2) then notEnabled s
  else
    let s1 := onPins s fun p => { p with modResetN := true, tap := .idcode }
    let s2 := onClk s1 fun c => { c with chimney1024 := 0, releasePt := c.pilot, readyMs := 0, step10Pt := none }
    let s3 := onAsh s2 fun a => { a with
      suppressedTotal := 0, flushes := 0, crcErrors := 0, nvmErrors := 0, nvmFail := false, sevMax := 0, sev3 := 0, tokens := [] }
    let role := fld straps.toNat 3 1
    let s4 := onBoot s3 fun b => { b with
      phase := 3, straps := straps, role := role, pos := if role = 0 then fld straps.toNat 4 6 else 0
      watchdog := b.tryOther, tryOther := false }
    if fld straps.toNat 1 2 = 3 then .next (ashLimited s4 2 0x30 0x0601 [(0, natLe 2 straps.toNat)]) else .next s4

/-- MOD_RESET_ASSERT (R358). -/
def execModResetAssert (s : State) : Ans :=
  if !s.pins.vaux || !s.pins.modResetN then notEnabled s
  else if s.pwr.tripped then .next (onPins s fun p => { p with modResetN := false })
  else
    let s1 := resetDevice s
    .next (onPins (if s.boot.phase = 1 then onBoot s1 fun b => { b with phase := 1 } else s1) fun p => { p with modResetN := false })

/-- FIREBRICK_READ (R364, R387): copies that disagree stop bring-up with debug and JTAG held locked. -/
def execFirebrickRead (s : State) : Ans :=
  if s.boot.phase ≠ 3 then notEnabled s
  else if s.fuse.a ≠ s.fuse.b then
    .next (stopBoot (onBoot s fun b => { b with idn := s.fuse.a ||| BitVec.ofNat 2048 (2 ^ 1160 + 2 ^ 1161) }) 3 1)
  else .next (onPins (onBoot s fun b => { b with idn := s.fuse.a, phase := 4 }) fun p => { p with imgBusy := !p.powerFail })

/-! ## Step 4 -/

/-- A slot checked (R366): a slot that is rejected has its check in CHECK_A or CHECK_B and one record. -/
def checkSlot (s : State) (slot : Bool) : State × Bool :=
  let n := imageCheck s (slotBase slot)
  if n = 0 then (s, true)
  else
    let s1 := onBoot s fun b => if slot then { b with checkB := n } else { b with checkA := n }
    (ashLimited s1 3 0x31 0x0602 [(0, natLe 1 (b2n slot)), (1, natLe 1 n)], false)

/-- IMAGE_VERIFY (R359, R363, R366, R367): the preferred slot first, after a watchdog reset the other; FALLBACK tells that the
preferred slot was rejected. -/
def execImageVerify (s : State) : Ans :=
  if s.boot.phase ≠ 4 || s.pins.powerFail || !s.pins.vin54 then notEnabled s
  else if 2 ≤ s.boot.watchdogs then .next (stopBoot s 4 5)
  else
    let pref := s.boot.straps.getLsbD 0
    let first := pref != s.boot.watchdog
    let (s1, ok1) := checkSlot s first
    let (s2, ok2) := if ok1 then (s1, false) else checkSlot s1 (!first)
    let failed := fun (b : Bool) => (if b then s2.boot.checkB else s2.boot.checkA) ≠ 0
    let s3 := onBoot s2 fun b => { b with fallback := failed pref }
    if ok1 || ok2 then
      let s4 := onPins (loadImage s3 (if ok1 then first else !first)) fun p => { p with imgBusy := false, refclkEn := true }
      .next (addBoot (onBoot s4 fun b => { b with phase := 5 }))
    else .next (stopBoot s3 4 2)

/-! ## Steps 5 to 8 -/

/-- SERVICE_FLUE_TRAINING (R377): the boot ROM trains S0 and S1, on a stopped device as well; `s0` and `s1` came up. -/
def execServiceFlueTraining (s0 s1 : Bool) (s : State) : Ans :=
  let stopped := s.boot.phase = 12 && (s.boot.failStep = 3 || s.boot.failStep = 4)
  if !(s.boot.phase = 5 || stopped) || s.pins.powerFail then notEnabled s
  else
    let up := fun (s : State) (l : Nat) (on : Bool) => if on && linkEnabled s l then onLink s l fun x => { x with up := true } else s
    let x := up (up s 96 s0) 97 s1
    .next (if stopped then x else toPhase x 6)

/-- One site trained, or held out of service (R378, R442). -/
def trainSite (s : State) (r : SiteTrain) : State :=
  match r.failed with
  | none => onSites s fun x => { x with
      sites := tput {} x.sites r.site { trained := true, inService := true, raaimt := r.raaimt, raammt := r.raammt } }
  | some stage =>
    let s1 := onSites s fun x => { x with sites := tput {} x.sites r.site { trained := false, inService := false } }
    let s2 := ashLimited s1 4 (r.site / 4) 0x0107 [(0, natLe 1 r.site), (1, natLe 1 stage)]
    addRowErr s2 r.site { kind := 4 }

/-- SITE_TRAINING (R371, R373, R378): one result for each site that SITE_OFF does not exclude. -/
def execSiteTraining (results : List SiteTrain) (s : State) : Ans :=
  let want := (List.range 32).filter fun k => !tbit s.cfg.siteOff k
  if s.boot.phase ≠ 6 || !(want.all fun k => (results.filter (·.site = k)).length = 1) then notEnabled s
  else
    let s1 := forAll (List.range 32) (fun s k =>
      if tbit s.cfg.siteOff k then onSites s fun x => { x with sites := tput {} x.sites k { trained := false, inService := false } } else s) s
    let s2 := forAll (results.filter fun r => want.contains r.site) trainSite s1
    .next (toPhase (makeExtents s2) 7)

/-- ZERO_INITIALISATION (R41): every row of every trained site holds zeros. -/
def execZeroInitialisation (s : State) : Ans :=
  if s.boot.phase ≠ 7 then notEnabled s else .next (toPhase (onMem s fun _ => {}) 8)

/-- Two readings differ by a number or more. -/
def apart (n a b : Nat) : Bool := a + n ≤ b || b + n ≤ a

/-- 720 operating hours have passed since an entry, whose OPSEC is 32 bits. -/
def entryOld (s : State) (t : Nat) : Bool := 720 * 3600 ≤ ptDiff s.clk.opSec t

/-- A channel's eye enters its history (R442): the first eight scans, and then those that differ or come late. -/
def eyeScan (s : State) (e : Eye) : State :=
  let h := tget (0, []) s.hlth.eyes e.chan
  let x : EyeEntry := { opSec := s.clk.opSec % 2 ^ 32, rw := min 255 e.rw, rh := min 255 e.rh, ww := min 255 e.ww, wh := min 255 e.wh }
  let new := h.1 < 8 || match h.2.getLast? with
    | some y => apart 3 x.rw y.rw || apart 5 x.rh y.rh || apart 3 x.ww y.ww || apart 5 x.wh y.wh || entryOld s y.opSec
    | none => true
  if new then onHlth s fun t => { t with eyes := tput (0, []) t.eyes e.chan (historyAdd 8 64 h x) } else s

/-- A channel's eye lies below a threshold of the ASHPIT section (R379, R443, R445). -/
def eyeLow (s : State) (e : Eye) : Bool :=
  let ps := ashpitFld s 0 8 35
  let mv := ashpitFld s 8 8 40
  e.rw < ps || e.ww < ps || e.rh < mv || e.wh < mv

/-- The record of a channel below margin (R479). -/
def recordEye (s : State) (e : Eye) : State :=
  ashLimited s 3 (e.chan / 32) 0x0108 [(0, natLe 1 (e.chan / 8)), (1, natLe 1 (e.chan % 8)), (2, natLe 1 (min 255 e.rw)),
    (3, natLe 1 (min 255 e.rh)), (4, natLe 1 (min 255 e.ww)), (5, natLe 1 (min 255 e.wh))]

/-- QUICK_SHADOW_TEST (R379, R380): every channel of every trained site. At its end step 9 begins, with the device ID formed. -/
def execQuickShadowTest (eyes : List Eye) (s : State) : Ans :=
  let want := (List.range 256).filter fun c => (siteAt s (c / 8)).trained
  if s.boot.phase ≠ 8 || !(want.all fun c => eyes.any (·.chan = c)) then notEnabled s
  else
    let s1 := forAll (eyes.filter fun e => want.contains e.chan) (fun s e =>
      let t := eyeScan s e
      if eyeLow t e then recordEye (onBoot t fun b => { b with sitesLow := setFld b.sitesLow (e.chan / 8) 1 1 }) e else t) s
    .next (toPhase (onBoot s1 fun b => { b with device := if b.role = 0 then b.cell * 64 + b.pos else 0x3FFF }) 9)

/-! ## Steps 9 to 11 -/

/-- FABRIC_FLUE_TRAINING (R380): the links that came up send HELLO; the rest keep retraining. Step 10 begins. -/
def execFabricFlueTraining (up : List Nat) (s : State) : Ans :=
  if s.boot.phase ≠ 9 then notEnabled s
  else
    let s1 := forAll ((up.eraseDups).filter fun l => l < 96 && linkEnabled s l && !(linkOf s l).up) (fun s l =>
      sendHello (onLink s l fun x => { x with
        up := true, dozing := false, hello := none, refused := false, helloSent := some s.clk.pilot, tx := none }) l) s
    .next (toPhase (onClk s1 fun c => { c with step10Pt := some c.pilot }) 10)

/-- JOIN leaves on one link (R337, R344): it carries the member entry, and is answered. -/
def sendJoin (s : State) (l : Nat) : State :=
  let spare := s.boot.role = 1
  let body := memberBytes { serial := ownSerial s, mstate := if spare then 0 else 1, mrev := 2 }
  let dev := match (linkOf s l).hello with | some h => h.dev | none => 0
  let n := s.net.nextOut
  let f := { cellMsg s dev 9 (if spare then 0x3F else s.boot.pos) body with seq := BitVec.ofNat 32 n }
  let s1 := onNet s fun x => { x with
    nextOut := n + 1, outs := x.outs ++ [{ num := n, f := f, issuer := .joinAsked, sentPt := s.clk.pilot }] }
  sendOn s1 l { f := { f with hops := 1 } }

/-- The device has joined (R381): its committed map has it live, or names it as the spare that is up or serves. -/
def hasJoined (s : State) : Bool :=
  let m := s.cell.map
  m.epoch ≠ 0 && (if s.boot.role = 0 then isLive m s.boot.pos else (m.spareUp || m.serving) && m.spareSerial = ownSerial s)

/-- CELL_JOIN (R344, R381): JOIN goes to the neighbours on every cell link; the lowest joined position proposes the first map. -/
def execCellJoin (s : State) : Ans :=
  if s.boot.phase ≠ 10 || hasJoined s then notEnabled s
  else .next (settle (leaderStep (forAll (cellLinks s) sendJoin s)))

/-- Positions joined so far, a bit each (R479, code 0x0504). -/
def joinedBits (s : State) : Nat :=
  let m := s.cell.map
  ((List.range 64).filter fun p =>
    if m.epoch = 0 then (p = s.boot.pos && s.boot.role = 0) || (s.cell.joins.any (·.1 = p)) else isLive m p).foldl (fun a p => a + 2 ^ p) 0

/-- JOIN_WAIT_RECORD (R381): 3.9 s into step 10, once. -/
def execJoinWaitRecord (s : State) : Ans :=
  match s.clk.step10Pt with
  | some t =>
    if s.boot.phase ≠ 10 || s.boot.joinRecorded || !usPassed t s.clk.pilot 3900000 then notEnabled s
    else .next (ashLimited (onBoot s fun b => { b with joinRecorded := true }) 3 0x33 0x0504 [(0, natLe 8 (joinedBits s))])
  | none => notEnabled s

/-- READY (R375, R385, R411): gate lists of the image start at entry 0; a Spare then enters its state. -/
def execReady (s : State) : Ans :=
  if s.boot.phase ≠ 10 || !hasJoined s then notEnabled s
  else
    let ms := elapsedMs s
    let s1 := onClk (onBoot s fun b => { b with phase := 11, watchdogs := 0 }) fun c => { c with readyMs := ms }
    let s2 := ashExempt (touchBoot s1) 0 0x31 0x0603 [(0, natLe 1 (b2n s.boot.slot)), (4, natLe 4 s.boot.imgVersion), (8, natLe 4 ms)]
    let s3 := onChim s2 fun c => { c with
      gates := tmapAll {} (fun g => { g with cur := 0, curCyc := s2.clk.chimney1024 / 1024 }) c.gates }
    .next (settle (if idleSpare s3 && !(s3.cell.map.serving && s3.cell.map.spareSerial = ownSerial s3) then enterSpareState s3 else s3))

/-- WATCHDOG_EXPIRE (R363): step 10 has not begun 18 s after internal reset release. A stopped bring-up stays stopped (R361). -/
def execWatchdogExpire (s : State) : Ans :=
  if s.boot.phase < 3 || 9 < s.boot.phase || s.clk.step10Pt.isSome || s.clk.pilot < s.clk.releasePt + 18 * 1024000 then notEnabled s
  else .next (onBoot (resetDevice s) fun b => { b with watchdogs := b.watchdogs + 1, tryOther := true })

end Sys2Proof.Machine
end

