-- ==== Sys2Proof/Machine/Remap.lean ====
section
/-! DEFINITION. ADVISE remap (R278): leaves of a range moved to another physical range, leaf by leaf. The item's `prog` is the
offset of the next leaf; counters 0 COUNT, 1 DETAIL, 2 the entry of a Svnapot page that is rewritten next, 3 that entries are
being restored, 4 the second pass, 5 that a rewrite on another module is under way, 6 the entry as it was read. -/

namespace Sys2Proof.Machine

/-- A leaf as a remap meets it. -/
structure Spot where
  lg : Nat := 12
  src : Nat := 0
  dst : Nat := 0
  pte : Nat := 0
  at_ : Nat := 0
  n : Nat := 1
deriving DecidableEq, Repr

/-- What a walk finds at an offset of the range: a leaf to be moved, a span to be skipped, or what must be read first. -/
inductive Found where
  | leaf (x : Spot)
  | skip (next : Nat)
  | need (t : TableRead)
deriving DecidableEq, Repr

/-- The leaf of the range at offset `o` (R278 step 1). A leaf that is not valid, extends outside the range, has a fault raised on it, or
whose destination is not aligned to its size, is skipped. -/
def findLeaf (s : State) (it : Item) (e : BitVec 512) (o : Nat) : Found :=
  let base := opFld it 256 64
  let size := opFld it 320 32 * 16384
  let jva := base + o
  let past := fun (lg : Nat) => (jva / 2 ^ lg + 1) * 2 ^ lg - base
  match (walkFrom s e jva (if jobSv57 e then 4 else 3) (jobRoot e)).1 with
  | .need t => .need t
  | .stop _ lv _ => .skip (past (12 + 9 * lv))
  | .leaf l lv pte m =>
    let lg := if tbit pte 63 then 16 else 12 + 9 * lv
    let start := jva / 2 ^ lg * 2 ^ lg
    let dst := opFld it 384 64 + (start - base)
    let raised := s.trn.faults.any fun p => p.job = it.job && start ≤ p.page && p.page < start + 2 ^ lg
    if start < base || base + size < start + 2 ^ lg || dst % 2 ^ lg ≠ 0 || raised then .skip (past lg)
    else .leaf { lg := lg, src := if tbit pte 63 then l.page else fld pte 10 44 * 4096, dst := dst, pte := pte,
                 at_ := if tbit pte 63 then m / 128 * 128 else m, n := if tbit pte 63 then 16 else 1 }

/-- A page lies in the job's partner aperture. -/
def aperturePage (e : BitVec 512) (m lg : Nat) : Bool := inAperture e (m / 4096) && inAperture e ((m + 2 ^ lg - 1) / 4096)

/-- A page lies in an extent of this module that admits the job. -/
def ownPage (s : State) (it : Item) (m lg : Nat) : Bool :=
  mpaDev m = selfDev s && lg ≤ 30 && extPresent s (mpaLpa m) && (extOf s (mpaLpa m)).state ≠ 6 &&
    (admission s (mpaLpa m) it.job (selfDev s) it.ctx false).isNone

/-- Both ends of a leaf's move are admitted (R278). -/
def spotOk (s : State) (it : Item) (e : BitVec 512) (x : Spot) : Bool :=
  (ownPage s it x.src x.lg || aperturePage e x.src x.lg) && (ownPage s it x.dst x.lg || aperturePage e x.dst x.lg)

/-- The entry that names the destination, all other bits as they were (R278 step 4). -/
def newPte (x : Spot) : Nat := setFld x.pte 10 44 (x.dst / 4096 + if x.n = 16 then 8 else 0)

/-- The page's bytes copied through the home where both ends lie in the store (R278 step 3): false while lines must be made
ready. -/
def moveBytes (s : State) (it : Item) (x : Spot) : State × Bool :=
  if !(ownPage s it x.src x.lg && ownPage s it x.dst x.lg) then (s, true)
  else
    let ls := fun (m : Nat) => upTo (2 ^ x.lg / 64) fun k => lineOf (mpaLpa m) + k
    let (s1, a) := prepReads s (ls x.src)
    let (s2, b) := prepWrites s1 true (ls x.dst)
    if a && b then (copyRange s2 (mpaLpa x.src) (mpaLpa x.dst) (2 ^ x.lg), true) else (s2, false)

/-- The leaf is done with: moved, or skipped. -/
def leafDone (s : State) (i : ItemId) (x : Nat) (moved : Bool) : State :=
  onItem s i fun it =>
    let y := addCnt (setCnt (setCnt (setCnt it 2 0) 3 0) 5 0) (if moved then 0 else 1) 1
    { y with prog := x }

/-- The cache entries of a moved page go, and the requests held for it translate again (R278 step 5). -/
def releasePage (s : State) (i : ItemId) (job jva lg : Nat) : State :=
  let s1 := invalRange s job jva (jva + 2 ^ lg)
  let held := s1.home.slices.flatMap fun e => e.2.locks.filter fun k => k.owner = some i
  let s2 := onHome s1 fun h => { h with
    slices := tmapAll {} (fun v => { v with locks := v.locks.filter fun k => k.owner ≠ some i }) h.slices }
  forAll held (fun s k => forAll k.waiters resume s) s2

/-- The homes hold every request to the two pages (R278 step 2). -/
def holdPage (s : State) (i : ItemId) (x : Spot) : State :=
  forAll [x.src, x.dst] (fun s m =>
    if mpaDev m = selfDev s then
      onSlice s (lpaHearth (mpaLpa m)) fun v => { v with
        locks := v.locks ++ [{ lines := upTo (2 ^ x.lg / 64) (fun k => lineOf (mpaLpa m) + k), owner := some i,
                               sincePt := s.clk.pilot }] }
    else s) s

/-- The entries of the leaf compared and rewritten at their home on this module: false while lines must be made ready. -/
def rewriteHere (s : State) (x : Spot) : State × Option Bool :=
  let a := mpaLpa x.at_
  let as := upTo x.n fun k => a + 8 * k
  match prepWrites s false (as.map lineOf).eraseDups with
  | (s1, false) => (s1, none)
  | (s1, true) =>
    if as.any fun y => readNat s1 y 8 ≠ x.pte then (s1, some false)
    else (forAll as (fun s y => devStore s y (natLe 8 (newPte x)) true) s1, some true)

/-- One compare-and-swap of an entry on another module (R204, R278). -/
def casEntry (s : State) (it : Item) (m old new : Nat) : State :=
  let f := fabricHead s it.ctx it.job tAtomic (stoveTag it 0) 0 (BitVec.ofNat 64 m)
  sendFabric s { f with opa := BitVec.ofNat 64 (2 ^ 63 + 9 + 3 * 256), opb := BitVec.ofNat 64 old, payload := natLe 8 new, len := 8 }
    (.reply { item := it.id, n := 0 })

/-- The rewrite of entries on another module goes on with the answer to the last compare-and-swap. -/
def rewriteFar (s : State) (it : Item) (x0 : Spot) : Ans :=
  let i := it.id
  let t : ThreadRef := { item := i, n := 0 }
  let x := { x0 with pte := itCnt it 6 }
  let jva := opFld it 256 64 + it.prog
  match (threadOf s t).reply with
  | none => notEnabled s
  | some (st, old) =>
    let s1 := onThread s t fun y => { y with reply := none }
    let k := itCnt it 2
    let undo := fun (s : State) (k : Nat) =>
      if k = 0 then leafDone (releasePage s i it.job jva x.lg) i (it.prog + 2 ^ x.lg) false
      else casEntry (onItem s i fun y => setCnt (setCnt y 2 (k - 1)) 3 1) it (x.at_ + 8 * (k - 1)) (newPte x) x.pte
    if itCnt it 3 = 1 then .next (settle (undo s1 k))
    else if servedSt st && old.toNat = x.pte then
      if k + 1 = x.n then
        .next (settle (leafDone (countTrn (releasePage s1 i it.job jva x.lg) 10) i (it.prog + 2 ^ x.lg) true))
      else .next (casEntry (onItem s1 i fun y => setCnt y 2 (k + 1)) it (x.at_ + 8 * (k + 1)) x.pte (newPte x))
    else .next (settle (undo s1 k))

/-- ADVISE_REMAP (R278): one leaf checked in the first pass, or moved in the second. -/
def execAdviseRemap (i : ItemId) (s : State) : Ans :=
  adviseRun s i 5 fun it =>
    match jobEntry s it.job with
    | none => failItem s i {} stDenied
    | some (_, e) =>
      let size := opFld it 320 32 * 16384
      let pass := itCnt it 4
      if opFld it 384 64 % 16384 ≠ 0 then failItem s i {} stMalformed
      else if size ≤ it.prog then
        if pass = 0 then .next (onItem s i fun y => { setCnt y 4 1 with prog := 0 })
        else .next (endItem s i { status := stOk, count := itCnt it 0, detail := itCnt it 1 })
      else match findLeaf s it e it.prog with
        | .need t => .next (fetchNeed s it.job it.ctx t)
        | .skip o => .next (if pass = 0 then onItem (dropTables s) i fun y => { y with prog := o } else leafDone (dropTables s) i o false)
        | .leaf x =>
          if itCnt it 5 = 1 then rewriteFar s it x
          else if !spotOk s it e x then failItem s i {} stDenied
          else if pass = 0 then .next (onItem (dropTables s) i fun y => { y with prog := it.prog + 2 ^ x.lg })
          else
            let jva := opFld it 256 64 + it.prog
            match moveBytes s it x with
            | (s1, false) => .next s1
            | (s1, true) =>
              if mpaDev x.at_ ≠ selfDev s1 then
                let s2 := onItem (holdPage (dropTables s1) i x) i fun y => setCnt (setCnt y 5 1) 6 x.pte
                .next (casEntry s2 it x.at_ x.pte (newPte x))
              else match rewriteHere s1 x with
                | (s2, none) => .next s2
                | (s2, some ok) =>
                  let s3 := dropTables (releasePage s2 i it.job jva x.lg)
                  .next (settle (leafDone (if ok then countTrn s3 10 else s3) i (it.prog + 2 ^ x.lg) ok))

end Sys2Proof.Machine
end

