-- ==== Sys2Proof/Machine/SiteRows.lean ====
section
/-! DEFINITION. What the memory sites and tier 0 do of themselves (R45 to R51, R55, R56). -/

namespace Sys2Proof.Machine

/-- The site runs: trained, in service, not held, its domain on and the module in Run. -/
def siteRuns (s : State) (site : Nat) : Bool :=
  let v := siteAt s site
  v.trained && v.inService && !v.held && s.pwr.domains.getLsbD (8 + site / 4) && s.pwr.state = 0

/-! ## Patrol scrub (R50, R51) -/

/-- Rows of a site. -/
def rowsPerSite : Nat := 256 * 196608

/-- Place of slot `slot` of the row that stands at position `n` of a site's scrub: rows rise within a bank, then banks, ranks and
channels (log 35). -/
def scrubPlace (site n slot : Nat) : Place :=
  let b := n / 196608
  { site := site, chan := b / 32, rank := b / 16 % 2, bank := b % 16, row := n % 196608, slot := slot }

/-- The LPA of a place in an extent, where the extent's rows hold it: the placement of R24 and R36 read backwards. -/
def lpaIn (p : Place) (k : Nat) (e : Ext) : Option Nat :=
  let per := if e.dense then 31 else 28
  let lb := (p.row - 4096 * e.rowgrp) * per + p.slot
  let q := lb % 16384
  let u := p.rank * 256 + q / 32 / 16 * 512 + q / 32 % 16 * 16 + p.bank.xor (q / 32 % 16)
  if k / 512 = p.site / 4 && 4096 * e.rowgrp ≤ p.row && p.slot < per && lb / 16384 = e.pos then
    some (k * 2 ^ 30 + (u * 4 + p.site % 4) * 16384 + q % 32 * 512 + p.chan * 64)
  else none

/-- The LPA of a live line by its place. -/
def lpaOf (s : State) (p : Place) : Option Nat := s.ext.tab.findSome? fun e => lpaIn p e.1 e.2

/-- Data bytes of a row by its group's mode (R34, R37, R38). -/
def rowData (s : State) (site row : Nat) : Nat :=
  match tget 0 s.ext.rowModes (48 * (site / 4) + row / 4096) with
  | 1 => 28 * 64
  | 2 => 31 * 64
  | _ => 0

/-- A live line found bad by scrub (R42, R44, R50): a protected one is re-formed, a Plain one poisoned, in DRAM alone where
tier 0 serves the line. -/
def scrubBad (s : State) (l : Nat) : State :=
  if isPoisoned s l then s
  else if protOf s (l * 64) ≠ 0 && !(repairFrom s (l * 64)).isEmpty then
    (if (txOf s l).isSome then s else startRepair s l none [])
  else if inTier0 s (l / 256) then
    onT0Tile (clearPoison (poisonLine s l) l) (l / 256) fun t => { t with under := insertNat l t.under }
  else poisonLine s l

/-- One error that the scrub read of a row finds (R50). -/
def scrubError (s : State) (p : Place) (ecc : Ecc) : State :=
  match ecc, lpaOf s p with
  | .clean, _ => s
  | .corrected sym, some a =>
    onSites (correctedError s p (p.site / 4) sym (extOf s a).dense) fun x => { x with
      sites := tmod {} x.sites p.site fun v => { v with scrubbed := insertNat (lineOf a) v.scrubbed } }
  | .corrected sym, none => correctedError s p (p.site / 4) sym false
  | .uncorrected, some a => scrubBad s (lineOf a)
  | .uncorrected, none =>
    modBankErr s (placeBank p) fun b => { b with uncorrected := satInc 16 b.uncorrected, lastRow := p.row }

/-- SCRUB_READ (R50): the next row of the site is read, line by line; what its decode shows is dealt with, and the position
moves on. -/
def execScrubRead (site : Nat) (errs : List (Nat × Ecc)) (s : State) : Ans :=
  if !siteRuns s site then notEnabled s
  else
    let n := (siteAt s site).row
    let s1 := meterUn s 1 (rowData s site (n % 196608))
    let s2 := forAll errs (fun s e => scrubError s (scrubPlace site n e.1) e.2) s1
    .next (onSites s2 fun x => { x with sites := tmod {} x.sites site fun v => { v with row := (n + 1) % rowsPerSite } })

/-- SCRUB_WRITE_BACK (R51): the corrected line passes through its home as a write, unless a newer write has taken its place. -/
def execScrubWriteBack (site : Nat) (lpa : Nat) (s : State) : Ans :=
  let l := lineOf lpa
  if !siteRuns s site || !(siteAt s site).scrubbed.contains l then notEnabled s
  else if !(extPresent s lpa) then
    .next (onSites s fun x => { x with sites := tmod {} x.sites site fun v => { v with scrubbed := v.scrubbed.filter (· ≠ l) } })
  else
    match prepWrite s l true with
    | (s1, false) => .next s1
    | (s1, true) =>
      if (siteAt s1 site).scrubbed.contains l then .next (devStore (meterUn s1 1 64) (l * 64) (lineBytes s1 l) false) else .next s1

/-! ## Refresh (R47 to R49) -/

/-- The refresh rate at a case temperature. -/
def refreshRate (t : Nat) : Nat := if t ≤ 85 then 1 else if t ≤ 95 then 2 else 4

/-- A site reads its case temperature (R47): its rate, its hold above 105 °C until 100 °C or below, and their records. -/
def readSite (s : State) (site t : Nat) : State :=
  let v := siteAt s site
  let r := refreshRate t
  let held := 105 < t || (v.held && 100 < t)
  let s1 := if r = v.rate then s
    else ashLimited s (if r = 4 then 3 else 2) (site / 4) 0x0103
      [(0, natLe 1 site), (1, natLe 1 v.rate), (2, natLe 1 r), (3, natLe 1 t)]
  let s2 := if held && !v.held then ashLimited s1 4 (site / 4) 0x0104 [(0, natLe 1 site), (1, natLe 1 t)] else s1
  let s3 := onSites s2 fun x => { x with sites := tmod {} x.sites site fun v => { v with rate := r, held := held, temp := t } }
  if v.held && !held then
    onCell s3 fun c => { c with
      freshLines := c.freshLines.filter fun l => (placeOf s (l * 64)).site ≠ site || c.units.contains (unitOf (l * 64)) }
  else s3

/-- Requests that waited for a site go to their homes again, in order; those whose site is still down wait on. -/
def freeWaits (s : State) : State :=
  let ws := s.sites.waits
  forAll ws (fun s w =>
    if siteDown s (reqLine s w.1) then onSites s fun x => { x with waits := x.waits ++ [w] } else serveHome s w.1)
    (onSites s fun x => { x with waits := [] })

/-- REFRESH_RATE_READ (R47): the case temperature of each site. -/
def execRefreshRateRead (temps : List Nat) (s : State) : Ans :=
  if s.pwr.state ≠ 0 || s.boot.phase = 12 then notEnabled s
  else
    let s1 := forAll (List.range 32) (fun s k => match (temps.map some).getD k none with
      | some t => if (siteAt s k).trained then readSite s k t else s
      | none => s) s
    .next (settle (freeWaits s1))

/-- PER_BANK_REFRESH (R47, R48): the bank's open row closes and it is refreshed. -/
def execPerBankRefresh (site chan rank bank : Nat) (s : State) : Ans :=
  if !siteRuns s site || 8 ≤ chan || 2 ≤ rank || 16 ≤ bank then notEnabled s
  else
    let c := 8 * site + chan
    let b := bankOf rank bank
    let s1 := onChan s c fun x => { x with openRow := tput none x.openRow b none }
    .next (easeBank (onBank s1 c b fun x => { x with refreshes := x.refreshes + 1 }) c b)

/-- CHANNEL_ISSUE (R46). -/
def execChannelIssue (site chan : Nat) (s : State) : Ans :=
  if siteRuns s site && chan < 8 then .next (issueOne s (8 * site + chan)) else notEnabled s

/-- REQUEST_AGE_EXPIRE (R46): the oldest queued request has waited 1,500 ns and goes next. -/
def execRequestAgeExpire (site chan : Nat) (s : State) : Ans :=
  let c := 8 * site + chan
  let x := tget {} s.sites.chans c
  let first := (x.reads ++ x.writes).foldl (fun m d => match m with
    | none => some d
    | some e => if d.no < e.no then some d else some e) (none : Option DReq)
  match first with
  | some d =>
    if chan < 8 && x.urgent.isNone && d.sincePt + 2 ≤ s.clk.pilot then .next (onChan s c fun y => { y with urgent := some d.no })
    else notEnabled s
  | none => notEnabled s

/-- AGGRESSOR_TABLE_CLEAR (R49): every bank's table of most-activated rows is cleared. -/
def execAggressorTableClear (s : State) : Ans :=
  .next (onSites s fun x => { x with banks := tmapAll {} (fun b => { b with rows := [] }) x.banks })

/-! ## Tier 0 (R45, R55, R56) -/

/-- HOT_TILE_PERIOD (R55): the Hearth's access counts restart. -/
def execHotTilePeriod (h : Nat) (s : State) : Ans := .next (onT0Slice s h fun x => { x with hot := [] })

/-- A filling tile leaves that state, and the writes held for it are served in their order. -/
def endFill (s : State) (t : T0Tile) (f : List T0Tile → List T0Tile) : State :=
  let s1 := onT0Slice s (tileHearth t.tile) fun x => { x with tiles := f x.tiles }
  settle (forAll t.held serveHome s1)

/-- TILE_FILL_COMPLETE (R56): within 1 µs, the tier-0 copy is whole. -/
def execTileFillComplete (h tile : Nat) (s : State) : Ans :=
  match (t0Slice s h).tiles.find? (·.tile = tile) with
  | some t =>
    match t.status with
    | .filling since =>
      if tileHearth tile = h && s.clk.pilot ≤ since + 2 then
        .next (endFill (meter s t.job 1 16384) t (updFirst (·.tile = tile) fun t => { t with status := .whole, held := [] }))
      else notEnabled s
    | _ => notEnabled s
  | none => notEnabled s

/-- TILE_FILL_ABANDON (R56): the fill took more than 1 µs; tier 1 takes the held writes, and the abandonment counts. -/
def execTileFillAbandon (h tile : Nat) (s : State) : Ans :=
  match (t0Slice s h).tiles.find? (·.tile = tile) with
  | some t =>
    match t.status with
    | .filling since =>
      if tileHearth tile = h && since + 2 ≤ s.clk.pilot then
        .next (endFill (onT0 s fun x => { x with abandoned := satInc 64 x.abandoned }) t (dropFirst (·.tile = tile)))
      else notEnabled s
    | _ => notEnabled s
  | none => notEnabled s

/-- EVICT_WRITEBACK_COMPLETE (R45, R56): the tile is in tier 1 again, its lines that SRAM errors spoilt poisoned, and the tier-0
copy serves no more. -/
def execEvictWritebackComplete (h tile : Nat) (bad : List Nat) (s : State) : Ans :=
  match (t0Slice s h).tiles.find? (·.tile = tile) with
  | some t =>
    if t.status ≠ .evicting || tileHearth tile ≠ h then notEnabled s
    else
      let s1 := onT0Slice s h fun x => { x with tiles := dropFirst (·.tile = tile) x.tiles }
      let s2 := meter s1 (extOf s1 (tile * 16384)).job 1 16384
      let s3 := forAll (List.range 256) (fun s k => queueDram s (tile * 256 + k) true) s2
      .next (forAll (bad.filter (· < 256)) (fun s k =>
        if isPoisoned s (tile * 256 + k) then s else poisonLine s (tile * 256 + k)) s3)
  | none => notEnabled s

end Sys2Proof.Machine
end

