-- ==== Sys2Proof/Machine/Take.lean ====
section
/-! DEFINITION. Taking a slot (R97, R98, R109, R135 to R138): rank, needs, seat, the take's write and its checks. -/

namespace Sys2Proof.Machine

/-! ## Operators (R135) -/

/-- The crew, accumulators and stationaries of each built-in operator, with its function (none: always enabled). -/
def opTable : Nat → Option (Nat × Nat × Nat × Option Nat)
  | 0x0001 => some (1, 0, 0, none)
  | 0x0010 => some (16, 0, 0, some fnMove)
  | 0x0011 => some (16, 0, 0, some fnMove)
  | 0x0020 => some (16, 1, 0, some fnEmbed)
  | 0x0021 => some (16, 1, 0, some fnEmbed)
  | 0x0030 => some (8, 2, 1, some fnSearch)
  | 0x0031 => some (64, 0, 0, some fnSearch)
  | 0x0032 => some (4, 0, 0, some fnSearch)
  | 0x0040 => some (16, 2, 0, some fnDecode)
  | 0x0041 => some (32, 4, 0, some fnDecode)
  | 0x0042 => some (16, 1, 0, some fnDecode)
  | 0x0050 => some (1, 0, 0, some fnTier)
  | 0x0051 => some (1, 0, 0, some fnTier)
  | 0x0060 => some (1, 0, 0, some fnSnap)
  | 0x0070 => some (1, 0, 0, some fnKernel)
  | _ => none

/-- Scratch tiles that an operator's chapter names (R151, R152, R165, R168, R175); `b` are the slot's bits. -/
def opScratch (op b : Nat) : Nat :=
  if op = 0x20 then (if fld b 417 2 = 0 then 112 else 0)
  else if op = 0x21 then 113
  else if op = 0x30 then 48
  else if op = 0x31 then 64
  else if op = 0x32 then 2
  else 0

/-! ## Operand layouts (check 6) -/

/-- A field lies in a range. -/
def inRange (lo hi x : Nat) : Bool := lo ≤ x && x ≤ hi

/-- CVT's rounding is defined (R70). -/
def cvtOk (c : Nat) : Bool := c % 4 ≠ 3

/-- Two ranges of bytes meet. -/
def bytesMeet (a n b m : Nat) : Bool := a < b + m && b < a + n

/-- A format of a layout: reserved codes are UNSUPPORTED (R64), those the layout does not take MALFORMED. -/
def fmtField (hi f : Nat) : Option Nat := if 9 < f then some stUnsupported else if hi < f then some stMalformed else none

/-- MALFORMED unless the layout holds. -/
def need (p : Bool) : Option Nat := if p then none else some stMalformed

/-- The first finding of a list of checks. -/
def firstOf {α : Type} (xs : List (Option α)) : Option α := xs.findSome? id

/-- Check 6 of R98: the operand layout of the slot whose bits are `b` (R137, R138, R192). -/
def layoutStatus (op b : Nat) : Option Nat :=
  let f := fld b
  if op = 0x10 then
    let n := f 384 32
    firstOf [need (f 256 64 % 16384 = 0 && f 320 64 % 16384 = 0 && inRange 1 1048576 n),
      need (!bytesMeet (f 256 64) (16384 * n) (f 320 64) (16384 * n)),
      if f 424 1 = 1 then fmtField 9 (f 416 4) else none, need (f 424 1 = 0 || cvtOk (f 420 4))]
  else if op = 0x11 then
    firstOf [need (f 256 64 % 16384 = 0 && inRange 1 1048576 (f 320 32)), fmtField 9 (f 352 4),
      need (f 360 1 = 1 || cvtOk (f 356 4))]
  else if op = 0x20 then need (inRange 1 1048576 (f 384 32) && f 417 2 ≠ 3 && cvtOk (f 428 4) && f 256 64 % 64 = 0)
  else if op = 0x21 then need (inRange 1 1048576 (f 384 32) && f 256 64 % 64 = 0 && f 512 64 % 64 = 0)
  else if op = 0x30 then need (inRange 1 4096 (f 384 16) && inRange 1 4096 (f 400 16) && f 256 64 % 64 = 0)
  else if op = 0x31 then
    need (inRange 1 4096 (f 384 16) && inRange 1 1024 (f 400 16) && f 416 16 ≤ 4096 && f 432 2 ≠ 3 && f 256 64 % 64 = 0)
  else if op = 0x32 then need (inRange 2 4096 (f 320 16) && inRange 1 1024 (f 336 16))
  else if op = 0x40 then
    firstOf [need (f 256 64 % 64 = 0), fmtField 4 (f 384 4), fmtField 4 (f 388 4), need (cvtOk (f 392 4))]
  else if op = 0x41 then firstOf [need (f 256 64 % 64 = 0), fmtField 4 (f 384 4), fmtField 4 (f 388 4), need (cvtOk (f 392 4))]
  else if op = 0x42 then
    let n := f 384 32
    firstOf [need (inRange 1 (2 ^ 30) n && f 428 2 ≠ 3), fmtField 4 (f 416 4), fmtField 4 (f 420 4), need (cvtOk (f 424 4)),
      need (f 512 64 ≠ 0 || !bytesMeet (f 256 64) (n * elemBytes (f 416 4)) (f 320 64) (n * elemBytes (f 420 4)))]
  else if op = 0x50 then need (f 256 64 % 16384 = 0 && inRange 1 65536 (f 320 32) && f 352 2 ≤ 1)
  else if op = 0x51 then
    need (f 256 64 % 16384 = 0 && inRange 1 65536 (f 320 32) && inRange 1 5 (f 352 8) &&
      ((f 352 8 ≠ 3 && f 352 8 ≠ 5) || f 384 64 % 16384 = 0))
  else if op = 0x60 then need (f 256 64 % 2 ^ 21 = 0)
  else if op = 0x70 then need (f 256 64 % 4096 = 0)
  else none

/-! ## Seats (R108, R109) -/

/-- What a slot needs, and is seated on. -/
structure Seat where
  crew : Nat := 1
  accs : Nat := 0
  stat : Nat := 0
  scratch : Nat := 0
  code : Nat := 0
deriving DecidableEq, Repr

/-- No Stove, were it empty, could seat it. -/
def tooBig (x : Seat) : Bool :=
  x.crew = 0 || 256 < x.crew || 128 < x.crew * x.accs || 16 < x.crew * x.stat || 256 < x.scratch + x.code

/-- Tiles that hold `n` words of code (R129). -/
def codeTilesOf (n : Nat) : Nat := (8 * n + 16383) / 16384

/-- The needs that bytes 0 to 15 of a code object header state (R109, R128). -/
def headNeeds (bs : List Byte) : Seat :=
  let n := leNat bs
  { crew := fld n 16 9, accs := fld n 32 3, stat := fld n 35 1, scratch := fld n 40 7, code := codeTilesOf (fld n 64 15) }

/-- Two items of one Hearth run on one copy of a code object (R129). -/
def sameCode (a b : Item) : Bool :=
  a.code.isSome && b.code.isSome && a.job = b.job && opFld a 256 64 = opFld b 256 64 && a.crc = b.crc

/-- Scratch tiles that the seated crews of a list hold, a shared copy of code once. -/
def scratchSum : List Item → Nat
  | [] => 0
  | it :: its => it.scratch + (if its.any (sameCode it) then 0 else it.codeTiles) + scratchSum its

/-- The Stove's pools have room for the seat, and its Hearth's scratch, unless the seat needs none. -/
def fits (s : State) (stove : Nat) (x : Seat) : Bool :=
  let on := s.stv.items.filter (·.stove = stove)
  let near := s.stv.items.filter (·.hearth = stove / 4)
  (on.map (·.crew)).sum + x.crew ≤ 256 && (on.map fun i => i.crew * i.accs).sum + x.crew * x.accs ≤ 128 &&
    (on.map fun i => i.crew * i.stat).sum + x.crew * x.stat ≤ 16 &&
    (x.scratch + x.code = 0 || scratchSum near + x.scratch + x.code ≤ 256)

/-- The slot's bits as memory holds them. -/
def slotBitsOf (s : State) (w : Win) (i : Nat) : Nat := leNat (readBytes s (slotLpa w i) 256)

/-- The header of a code object, for a needs read (R109): none while it must wait, an empty answer where it failed. -/
def needsRead (s : State) (h : Nat) (q : QSlot) (job code : Nat) : State × Option (Option (List Byte)) :=
  match q.got with
  | some x => (s, some x)
  | none =>
    match xlateTry s job q.ctx code 3 with
    | (s1, none) => (s1, none)
    | (s1, some (.ok m _)) =>
      let a := mpaLpa m
      if mpaDev m = selfDev s1 then
        if !extPresent s1 a || (extOf s1 a).state = 6 || (admission s1 a job (selfDev s1) q.ctx true).isSome then (s1, some none)
        else
          let b := viewLpa s1 a job (selfDev s1) q.ctx
          match prepRead s1 (lineOf b) with
          | (s2, false) => (s2, none)
          | (s2, true) => (s2, some (if isPoisoned s2 (lineOf b) then none else some (readBytes s2 b 16)))
      else if q.asked then (s1, none)
      else
        let s2 := onSchedN s1 h fun x => { x with
          queue := updFirst (fun e => e.ctx = q.ctx && e.slot = q.slot) (fun e => { e with asked := true }) x.queue }
        (sendFabric s2 (fabricHead s2 q.ctx job tRead 0 (BitVec.ofNat 64 (code / 64 * 64)) (BitVec.ofNat 64 (m / 64 * 64)))
          (.needs h q.ctx q.slot), none)
    | (s1, some _) => (s1, some none)

/-- The needs of a queued slot (R109). -/
def needsOf (s : State) (h : Nat) (q : QSlot) (job b : Nat) : State × Option Seat :=
  let op := fld b 16 16
  if op = 0x70 then
    match needsRead s h q job (fld b 256 64) with
    | (s1, none) => (s1, none)
    | (s1, some none) => (s1, some {})
    | (s1, some (some bs)) => (s1, some (if tooBig (headNeeds bs) then {} else headNeeds bs))
  else match opTable op with
    | some (n, a, t, _) => (s, some { crew := n, accs := a, stat := t, scratch := opScratch op b })
    | none => (s, some {})

/-- The Hearth whose Stoves may run a slot (R97): that of its first input operand where it lies on this module, else the
window's (log 36); none while the operand's translation must wait. -/
def homeHearth (s : State) (ctx job b h : Nat) : State × Option Nat :=
  let op := fld b 16 16
  if op = 0x01 || op = 0x11 || (opTable op).isNone then (s, some h)
  else match xlateTry s job ctx (fld b 256 64) 0 with
    | (s1, none) => (s1, none)
    | (s1, some (.ok m _)) =>
      (s1, some (if mpaDev m = selfDev s1 && extPresent s1 (mpaLpa m) then lpaHearth (mpaLpa m) else h))
    | (s1, some _) => (s1, some h)

/-! ## Rank (R97) -/

/-- A queued slot with its rank: passed over 64 times, priority, deadline from now where it has one, age. -/
structure Ranked where
  q : QSlot := {}
  must : Bool := false
  prio : Nat := 0
  left : Option Int := none
  age : Nat := 0
deriving DecidableEq, Repr

/-- The rank of a queued slot as its header reads now. -/
def rankOf (s : State) (w : Win) (q : QSlot) : Ranked :=
  let age := ptDiff s.clk.pilot q.detect
  let rel := slotNat s w q.slot 16 3
  { q := q, must := 64 ≤ q.passed, prio := fld (slotNat s w q.slot 1 1) 4 3,
    left := if rel = 0 then none else some ((rel : Int) - age), age := age }

/-- `a` goes before `b`. -/
def before (a b : Ranked) : Bool :=
  if a.must ≠ b.must then a.must
  else if a.prio ≠ b.prio then b.prio < a.prio
  else match a.left, b.left with
    | some x, some y => if x ≠ y then x < y else b.age < a.age
    | some _, none => true
    | none, some _ => false
    | none, none => b.age < a.age

/-- Insertion by rank; of equals the one queued first stays first. -/
def insertRank (x : Ranked) : List Ranked → List Ranked
  | [] => [x]
  | y :: ys => if before x y then x :: y :: ys else y :: insertRank x ys

/-- The queue of a Hearth in rank order, slots of open windows only. -/
def ranked (s : State) (h : Nat) : List Ranked :=
  let qs := (schedOf s h).queue.filterMap fun q => match (ctxOf s q.ctx).win with
    | some w => if w.state = 1 then some (rankOf s w q) else none
    | none => none
  qs.foldl (fun xs x => insertRank x xs) []

/-- A slot chosen for a take, with its Stove and seat; `refused` where it is taken only to fail, its quadrant being gated. -/
structure Chosen where
  q : QSlot := {}
  stove : Nat := 0
  seat : Seat := {}
  refused : Bool := false
deriving DecidableEq, Repr

/-- A seat for one slot, if there is one now. A gated Stove domain starts to return (R96). -/
def seatFor (s : State) (h : Nat) (q : QSlot) : State × Option Chosen :=
  match (ctxOf s q.ctx).win with
  | none => (s, none)
  | some w =>
    let b := slotBitsOf s w q.slot
    let job := (ctxOf s q.ctx).job
    match homeHearth s q.ctx job b h with
    | (s1, none) => (s1, none)
    | (s1, some hh) =>
      match needsOf s1 h q job b with
      | (s2, none) => (s2, none)
      | (s2, some x) =>
        if !s2.pwr.domains.getLsbD hh then
          (if (tget none s2.pwr.returning hh).isSome then s2
           else onPwr s2 fun p => { p with returning := tput none p.returning hh (some s2.clk.pilot) }, none)
        else
          let gated := !quadrantOn s2 hh
          let y : Seat := if gated then {} else x
          match (List.range 4).find? fun k => fits s2 (4 * hh + k) y with
          | some k => (s2, some { q := q, stove := 4 * hh + k, seat := y, refused := gated })
          | none => (s2, none)

/-- The first slot in rank order that can be seated, with those passed over. -/
def choose (s : State) (h : Nat) : List Ranked → List QSlot → State × Option (Chosen × List QSlot)
  | [], _ => (s, none)
  | r :: rs, passed =>
    match seatFor s h r.q with
    | (s1, some c) => (s1, some (c, passed))
    | (s1, none) => if r.must then (s1, none) else choose s1 h rs (passed ++ [r.q])

/-! ## The take (R98) -/

/-- The checks of R98 in order, on the slot's bits as read at take. -/
def takeStatus (s : State) (job b : Nat) (deadline : Option Nat) (refused : Bool) : Option Nat :=
  let op := fld b 16 16
  firstOf [descStatus (fld b 8 4) 0 0, need (fld b 32 32 ≠ fld b 64 32),
    if (opTable op).isNone then some stUnsupported else none,
    (match opTable op with
      | some (_, _, _, some fn) => if funcEnabled s job fn then none else some stDisabled
      | _ => none),
    (if op = 0x51 && fld b 352 8 = 5 && !((jobEntry s job).any fun e => jobRemap e.2) then some stDisabled else none),
    if refused then some stDisabled else none,
    (match deadline with
      | some d => if fld b 15 1 = 1 && ptPast s.clk.pilot d then some stTimeout else none
      | none => none),
    layoutStatus op b]

/-- The flag line with TAKEN, PLACE and the deadline fields (R90, R98). -/
def takeLine (s : State) (w : Win) (q : QSlot) (deadline : Option Nat) : List Byte :=
  let old := lineBytes s (lineOf (slotLpa w q.slot))
  let b13 := setFld (leAt old 13 1) 2 1 (b2n deadline.isSome)
  overlay (overlay (overlay old 0 (natLe 1 2)) 13 (natLe 1 b13)) 22 (natLe 2 1 ++ natLe 4 (deadline.getD 0))

/-- The chosen slot is taken (R98): POSTED gives way to TAKEN, its lines are read once, and the checks decide whether its operator
runs. Of a poisoned line, the item meets POISON. -/
def takeSlot (s : State) (h : Nat) (c : Chosen) (w : Win) : State :=
  let q := c.q
  let l := lineOf (slotLpa w q.slot)
  let (s1, ready) := flagReady s w q.slot
  let (s2, ready2) := prepReads s1 [l + 1, l + 2, l + 3]
  if !ready || !ready2 then s2
  else
    let s3 := onSchedN s2 h fun x => admitPend (unqueue x q.ctx q.slot)
    if slotFlag s3 w q.slot ≠ 1 || isPoisoned s3 l then s3
    else
      let rel := slotNat s3 w q.slot 16 3
      let deadline := if rel = 0 then none else some ((q.detect + rel) % 2 ^ 32)
      let s4 := homeStore s3 l (takeLine s3 w q deadline) false false
      let b := slotBitsOf s4 w q.slot
      let job := (ctxOf s4 q.ctx).job
      let st := if [l + 1, l + 2, l + 3].any (isPoisoned s4) then some stPoison else takeStatus s4 job b deadline c.refused
      let it : Item := {
        id := s4.stv.nextItem, ctx := q.ctx, slot := q.slot, job := job, slotBits := BitVec.ofNat 2048 b, op := fld b 16 16,
        gen := fld b 32 32, hearth := c.stove / 4, stove := c.stove, crew := c.seat.crew, accs := c.seat.accs, stat := c.seat.stat,
        scratch := c.seat.scratch, codeTiles := c.seat.code, startPt := s4.clk.pilot, deadline := deadline,
        reserve := fld b 160 16, miss := fld b 15 1 = 1, kernel := fld b 16 16 = 0x70,
        result := st.map fun x => { status := x } }
      onStv s4 fun x => { x with items := x.items ++ [it], nextItem := x.nextItem + 1 }

/-- SLOT_TAKE (R97, R98, R109): the Hearth's scheduler takes the first-ranked queued slot that can be seated; the slots ranked
above it have been passed over once more. -/
def execSlotTake (h : Nat) (s : State) : Ans :=
  match choose s h (ranked s h) [] with
  | (s1, none) => .next s1
  | (s1, some (c, passed)) =>
    match (ctxOf s1 c.q.ctx).win with
    | none => .next s1
    | some w =>
      let n := s1.stv.nextItem
      let s2 := takeSlot s1 h c w
      if s2.stv.nextItem = n then .next s2
      else .next (settle (onSchedN s2 h fun x => { x with
        queue := x.queue.map fun q => if passed.any fun p => p.ctx = q.ctx && p.slot = q.slot then
          { q with passed := q.passed + 1, got := none } else q }))

end Sys2Proof.Machine
end

