-- ==== Sys2Proof/Machine/Record.lean ====
section
/-! DEFINITION. Change records (R388 to R397): their format, the ten checks, and how a checked record goes through its items. -/

namespace Sys2Proof.Machine

/-! ## Format (R390) -/

/-- Buffer `b` changed. -/
def onBuf (s : State) (b : Nat) (f : Buf → Buf) : State := onAuth s fun a => { a with bufs := tmod {} a.bufs b f }

/-- The first `n` bytes of a buffer's data area. -/
def bufData (s : State) (b n : Nat) : List Byte := upTo n fun i => tget 0 (bufOf s b).data i

/-- Fields of a record header. -/
def recClass (h : Nat) : Nat := fld h 40 5
def recKey (h : Nat) : Nat := fld h 48 2
def recFlags (h : Nat) : Nat := fld h 56 8
def recLen (h : Nat) : Nat := fld h 64 32
def recCount (h : Nat) : Nat := fld h 96 10
def recSeq (h : Nat) : Nat := fld h 128 64

/-- The items from a list of bytes, each with its reserved bits and padding zero or not; none where they do not lie within it. -/
def parseItems : Nat → List Byte → Option (List (Item390 × Bool))
  | 0, _ => some []
  | n + 1, bs =>
    let h := leAt bs 0 8
    let len := fld h 16 16
    let size := 8 + roundUp 8 len
    if bs.length < size then none
    else
      let x : Item390 := { ityp := fld h 0 8, target := fld h 32 32, payload := byteSlice bs 8 len }
      let clean := fld h 8 8 = 0 && leAt bs (8 + len) (size - 8 - len) = 0
      (parseItems n (bs.drop size)).map ((x, clean) :: ·)

/-- The items of a record of `bs`'s length. -/
def recItems (bs : List Byte) : Option (List (Item390 × Bool)) :=
  parseItems (recCount (leAt bs 0 64)) ((bs.take (bs.length - 384)).drop 448)

/-! ## Classes and items (R389) -/

/-- The ITYPEs that a class may carry. -/
def classItems : Nat → List Nat
  | 0x00 => [0x01]
  | 0x01 => [0x02]
  | 0x02 => [0x03, 0x04, 0x05]
  | 0x03 => [0x06]
  | 0x04 => [0x10]
  | 0x05 => [0x11]
  | 0x06 => [0x18, 0x19, 0x1A]
  | 0x07 => [0x20, 0x21, 0x22]
  | 0x08 => [0x28]
  | 0x09 => [0x30, 0x31, 0x32]
  | 0x0A => [0x38]
  | 0x0B => [0x40]
  | 0x0C => [0x48]
  | 0x0D => [0x50]
  | 0x0E => [0x58]
  | 0x0F => [0x60]
  | 0x10 => [0x68]
  | 0x11 => [0x70]
  | 0x12 => [0x78]
  | 0x13 => [0x7E]
  | _ => []

/-- The fuse classes. -/
def fuseClass (c : Nat) : Bool := 1 ≤ c && c ≤ 3

/-- TARGET, payload length and payload fields of an item in range, reserved bits zero (check 9). -/
def itemOk (i : Item390) : Bool :=
  let t := i.target
  let p := i.payload
  let n := p.length
  let x := leNat p
  match i.ityp with
  | 0x01 => t ≤ 1 && n = 40 && 4096 ≤ leAt p 0 4 && leAt p 0 4 ≤ 2 ^ 25 && leAt p 0 4 % 64 = 0 && leAt p 4 4 = 0
  | 0x02 => t ≤ 64 && n = 0
  | 0x03 => t ≤ 3 && n = 40 && leAt p 36 4 = 0
  | 0x04 => t ≤ 3 && n = 8 && leAt p 4 4 = 0
  | 0x05 => t ≤ 3 && n = 0
  | 0x06 => t ≤ 3 && n = 0
  | 0x10 => t < 16384 && n = 64 && jobOk x
  | 0x11 => t < 16384 && n = 0
  | 0x18 => onlyBits t 32 [(0, 6), (8, 3)] && fld t 0 6 < 48 && n = 8 && 1 ≤ x && x ≤ 3
  | 0x19 => t = 0 && n = 8 && extEntryOk p
  | 0x1A => t < 4096 && n = 0
  | 0x20 => t < 4096 && n = 8 && onlyBits x 64 [(0, 20), (32, 1)]
  | 0x21 => t < 4096 && n = 0
  | 0x22 => t = 0 && n = 16 && leAt p 12 4 = 0 && 10240 ≤ leAt p 0 4 && leAt p 0 4 ≤ leAt p 4 4 && leAt p 4 4 ≤ leAt p 8 4 &&
      leAt p 8 4 ≤ 614400000
  | 0x28 => t < 128 && n = 0
  | 0x30 => t < 512 && (t < 256 || t % 256 < 64) && n = 8 && leAt p 4 4 = 0 && routeOk (leAt p 0 4)
  | 0x31 => n = 16 && policerOk x &&
      (if tbit t 31 then fld t 0 31 < 4096 else onlyBits t 32 [(0, 7), (8, 3)] && fld t 0 7 ≤ 97)
  | 0x32 => t < 24 && n = 8 && x ≤ 63
  | 0x38 => onlyBits t 32 [(0, 7), (8, 4)] && fld t 0 7 ≤ 97 && fld t 8 4 ≤ 8 && n = 8 && shaperOk x (fld t 8 4)
  | 0x40 => t < 26 && 8 ≤ n && n % 4 = 0 && n ≤ 8 + 4 * 64 && gatesOk (gateEntries (p.drop 8))
  | 0x48 => t < 32 && n = 8 && x ≤ 1
  | 0x50 => t < 32 && n = 8 && 1 ≤ x && x ≤ 3
  | 0x58 => t = 0 && n = 8 && x < 2 ^ 36
  | 0x60 => (t = 1 && n = 8 && (leAt p 0 4 = 1 || leAt p 0 4 = 2)) || (t = 2 && powerOk p)
  | 0x68 => t = 0 && ashpitOk p
  | 0x70 => t = 0 && moduleOk p
  | 0x78 => t ≤ 25 && n = 8 && flueOk x
  | 0x7E => t = 0 && n = 0
  | _ => false

/-- Reserved bits of the header zero; FLAGS is SHAPER's bit 0 alone (R390). -/
def headerClean (h : Nat) : Bool :=
  onlyBits h 512 ((0, 45) :: (48, 2) :: (64, 42) :: (128, 192) :: if recClass h = 0x0A then [(56, 1)] else [])

/-! ## Check 10 (R397 to R402, R406, R410) -/

/-- The fuse bits that an item blows (R397). -/
def fuseBits (i : Item390) : Nat :=
  let k := i.target
  match i.ityp with
  | 0x02 => (2 ^ k - 1) * 2 ^ 1216
  | 0x03 => leAt i.payload 0 32 * 2 ^ (128 + 256 * k) + 2 ^ (1152 + k) + leAt i.payload 32 4 * 2 ^ (1280 + 32 * k)
  | 0x04 => leAt i.payload 0 4 * 2 ^ (1280 + 32 * k)
  | 0x05 => 2 ^ (1156 + k)
  | 0x06 => fld k 0 2 * 2 ^ 1160
  | _ => 0

/-- A usable slot grants the image class (R397). -/
def imageKeyLeft (x : BitVec 2048) : Bool := (List.range 4).any fun k => keyUsable x k && keyGrants x k 0

/-- The fuse map once every item has been blown. -/
def fusesAfter (x : BitVec 2048) (is : List Item390) : BitVec 2048 := forAll is (fun x i => x ||| BitVec.ofNat 2048 (fuseBits i)) x

/-- An extent occupies a position of a row group of a Hearth: copy and journal slots too, slots that have been left not. -/
def inGroup (s : State) (h : Nat) (p : Ext → Bool) : Bool := s.ext.tab.any fun e => e.1 / 512 = h && e.2.state ≠ 6 && p e.2

/-- The mode of a row group as it stands. -/
def modeNow (s : State) (h g : Nat) : Nat := tget 0 s.ext.rowModes (48 * h + g)

/-- The mode of a row group after a record's items. -/
def modeAfter (s : State) (is : List Item390) (h g : Nat) : Nat :=
  (is.reverse.findSome? fun i => if i.ityp = 0x18 && fld i.target 8 3 = h && fld i.target 0 6 = g then some (leNat i.payload % 3) else none).getD
    (modeNow s h g)

/-- A row group may change mode (R34, R35): neither it nor its Dense set holds an extent, and no set is left half Dense. -/
def modeAllowed (s : State) (is : List Item390) (h g : Nat) : Bool :=
  let set := (List.range 4).map (g / 4 * 4 + ·)
  let dense := set.filter fun g => modeAfter s is h g = 2
  !inGroup s h (fun e => if e.dense then e.rowgrp = g / 4 * 4 else e.rowgrp = g) && (dense.isEmpty || dense.length = 4)

/-- An extent may be created (R372, R399): its slot and position are free, also of the record's other items, its position fits its
group's mode, and every site of its Hearth serves. -/
def createAllowed (s : State) (is : List Item390) (e : ExtEntry) : Bool :=
  let k := 512 * e.hearth + e.slot
  let same := (is.filter fun i => i.ityp = 0x19).map fun i => extEntry i.payload
  tget {} s.ext.tab k = {} && (tget none s.ext.fwd k).isNone &&
    !inGroup s e.hearth (fun x => x.rowgrp = e.rowgrp && x.pos = e.pos) && posFits (modeNow s e.hearth e.rowgrp) e &&
    (List.range 4).all (fun i => (siteAt s (4 * e.hearth + i)).trained) &&
    (same.filter fun x => x.hearth = e.hearth && (x.slot = e.slot || (x.rowgrp = e.rowgrp && x.pos = e.pos))).length ≤ 1

/-- An extent holds a snapshot region. -/
def hasRegion (s : State) (k : Nat) : Bool := s.ext.regions.any fun r => r.1 / 512 = k && r.2.isSome

/-- What check 10 says of an item, with the record's items and buffer: 0, or a RESULT. -/
def itemRefuse (s : State) (b : Nat) (is : List Item390) (i : Item390) : Nat :=
  let t := i.target
  let x := leNat i.payload
  let e := tget {} s.ext.tab t
  let ok := fun (p : Bool) => if p then 0 else 0x0A
  match i.ityp with
  | 0x01 => if t = b2n s.boot.slot then 0x0A else if s.auth.bufs.any (·.2.session.isSome) then 0x0B else 0
  | 0x02 => ok (t ≤ s.boot.imgRollback)
  | 0x03 => ok (!tbit (fuseFld s.fuse.a 1152 4) t)
  | 0x04 => ok (tbit (fuseFld s.fuse.a 1152 4) t)
  | 0x05 => if imageKeyLeft (fusesAfter s.fuse.a is) then 0 else 0x0E
  | 0x10 => let o := tget 0 s.trn.jobs t; ok (!jobValid o || jobId o = fld x 16 20)
  | 0x18 => ok (modeAllowed s is (fld t 8 3) (fld t 0 6))
  | 0x19 => ok (createAllowed s is (extEntry i.payload))
  | 0x1A => ok (e.state = 1 && !hasRegion s t && !(blocksInUse s).any fun a => a / 2 ^ 30 = t)
  | 0x20 => ok ((e.state = 1 || e.state = 2) && !e.vpool)
  | 0x21 => ok (e.state = 3)
  | 0x31 => ok (policerBursts x)
  | 0x40 => ok (s.clk.chimney1024 / 1024 + 1250000 ≤ leAt i.payload 0 8 && closed7 (gateEntries (i.payload.drop 8)) ≤ 125000)
  | 0x48 =>
    let v := siteAt s t
    if x = 1 then ok (s.ext.tab.all fun e => e.1 / 512 ≠ t / 4 || e.2.state ≤ 1 || e.2.prot ≠ 0)
    else if v.test.isSome then 0x0B else ok v.trained
  | 0x50 => if (siteAt s t).inService || s.sites.sites.any (·.2.test.isSome) then 0x0B else 0
  | 0x58 =>
    let k := fld x 6 3 * 512 + fld x 9 9
    let e := tget {} s.ext.tab k
    ok (isMember s && fld x 0 6 = s.boot.pos && (e.state = 1 || e.state = 2) && !hasRegion s k)
  | 0x60 => ok (if t = 1 then entryRefuse s (some b) = 0 else !powerRefused s x)
  | 0x70 => ok (moduleEther i.payload = s.cfg.etherType)
  | 0x78 => ok (t < 24 || flueFits false t (flueFrom x))
  | _ => 0

/-! ## The checks in order (R393) -/

/-- How the checks end: the check that fails with its RESULT and item, or the items. -/
inductive Checked where
  | reject (check result item : Nat)
  | passed (items : List Item390)
deriving DecidableEq, Repr

/-- Checks 1 to 8 on the record in a buffer: none where they pass. -/
def checkHead (s : State) (b : Nat) : Option (Nat × Nat) :=
  let h := leNat (bufData s b 64)
  let k := recKey h
  let f := s.fuse.a
  let len := recLen h
  if fld h 0 32 ≠ 0x47564352 || fld h 36 4 ≠ 0xE || len < 840 || 16384 < len || len % 8 ≠ 0 || recCount h = 0 || 0x13 < recClass h ||
      (recItems (bufData s b len)).isNone then some (1, 0x01)
  else if fld h 32 4 ≠ 2 then some (2, if fld h 32 4 = 0 then 0x01 else 0x02)
  else if fld h 192 128 ≠ fuseFld s.boot.idn 0 128 then some (3, 0x03)
  else if !keyUsable f k then some (4, 0x04)
  else
    let bs := bufData s b len
    let m := byteSlice bs 64 384
    if !keyMatches f k m then some (5, 0x05)
    else if !signedBy m bs then some (6, 0x06)
    else if !keyGrants f k (recClass h) then some (7, 0x07)
    else if recSeq h ≤ tget 0 s.auth.lastSeq k then some (8, 0x08)
    else none

/-- Checks 9 and 10. -/
def checkItems (s : State) (b : Nat) : Checked :=
  let h := leNat (bufData s b 64)
  match recItems (bufData s b (recLen h)) with
  | none => .reject 1 0x01 0
  | some xs =>
    let good := fun (x : Item390 × Bool) => (classItems (recClass h)).contains x.1.ityp && x.2 && itemOk x.1
    if !headerClean h then .reject 9 0x09 0
    else match xs.findIdx? fun x => !good x with
      | some n => .reject 9 0x09 n
      | none =>
        let is := xs.map Prod.fst
        match is.findIdx? fun i => itemRefuse s b is i ≠ 0 with
        | some n => .reject 10 (itemRefuse s b is (nth {} is n)) n
        | none => .passed is

/-! ## A record's end (R396) -/

/-- The Ashpit record of a change record (R396, R479). -/
def recordChange (s : State) (b result : Nat) : State :=
  let x := bufOf s b
  let data : List (Nat × List Byte) :=
    [(0, natLe 1 (x.cls % 32 + x.keySlot * 32 + x.who.flue % 2 * 128)), (1, natLe 1 result), (2, natLe 2 x.who.port),
     (4, natLe 8 x.seq), (12, natLe 16 x.who.ip)]
  if result = 0 then ashExempt s (if fuseClass x.cls then 4 else 1) 0x34 0x0604 data else ashLimited s 2 0x34 0x0604 data

/-- The record is rejected (R393). A refused entry into a sleep state leaves its mark in STS_PWR (R410). -/
def rejectRecord (s : State) (b check result item : Nat) (asks : Bool) : State :=
  let s1 := onBuf s b fun x => { x with state := 5, result := result, check := check, item := item, todo := [] }
  let s2 := if asks then refuseEntry s1 (entryRefuse s (some b)) else s1
  recordChange s2 b result

/-- The checks of one record (R393, R394): SEQ is consumed, once check 8 has passed, before check 9. -/
def checkRecord (s : State) (b : Nat) : State :=
  let h := leNat (bufData s b 64)
  let k := recKey h
  let s1 := onBuf s b fun x => { x with cls := recClass h, keySlot := k, flags := recFlags h, seq := recSeq h }
  match checkHead s b with
  | some (n, r) => rejectRecord s1 b n r 0 false
  | none =>
    if s1.ash.nvmFail then rejectRecord s1 b 0 0x0C 0 false
    else
      let s2 := onAuth s1 fun a => { a with lastSeq := tput 0 a.lastSeq k (recSeq h) }
      match checkItems s2 b with
      | .reject n r j =>
        let asks := match recItems (bufData s2 b (recLen h)) with
          | some xs => r = 0x0A && (nth ({}, true) xs j).1.ityp = 0x60 && (nth ({}, true) xs j).1.target = 1
          | none => false
        rejectRecord s2 b n r j asks
      | .passed is => onBuf s2 b fun x => { x with state := 3, todo := is, done := 0, item := 0, check := 0, result := 0 }

/-- The next submitted record is checked, while none is being applied: records are applied one at a time (R392). -/
def nextRecord : Nat → State → State
  | 0, s => s
  | n + 1, s =>
    if s.auth.bufs.any (·.2.state = 3) then s
    else match s.auth.waiting with
      | [] => s
      | b :: rest =>
        let s1 := onAuth s fun a => { a with waiting := rest }
        nextRecord n (if (bufOf s1 b).state = 2 then checkRecord s1 b else s1)

/-- Every item is applied (R395, R396): the record is done, or its image session begins (R398). -/
def endRecord (s : State) (b : Nat) : State :=
  let open_ := (bufOf s b).session.isSome
  let s1 := onAuth (onBuf s b fun x => { x with state := if open_ then 6 else 4 }) fun a => { a with applied := satInc 64 a.applied }
  nextRecord 8 (recordChange s1 b 0)

/-- One item of the record being applied in buffer `b`, of the command's kind, takes effect at its order point (R395); the last
one ends the record. -/
def takeItem (s : State) (b : Nat) (mine : Item390 → Bool) (f : State → Item390 → State) : Ans :=
  match (bufOf s b).todo with
  | [] => notEnabled s
  | i :: rest =>
    if (bufOf s b).state ≠ 3 || !mine i then notEnabled s
    else
      let s1 := onBuf s b fun x => { x with
        todo := rest, done := x.done + 1, opsec := if x.done = 0 then s.clk.opSec else x.opsec }
      let s2 := f s1 i
      .next (settle (if rest.isEmpty then endRecord s2 b else s2))

end Sys2Proof.Machine
end

