-- ==== Sys2Proof/Machine/ChangeRows.lean ====
section
/-! DEFINITION. The commands that are one item of a change record taking effect (R389, R395 to R402). Each applies the next item of
the record being applied in a buffer, where that item is its own. -/

namespace Sys2Proof.Machine

/-! ## Images, keys, locks (R397, R398) -/

/-- IMAGE_BEGIN (R398): the slot is erased, and the buffer's session begins. -/
def execImageBegin (b : Nat) (s : State) : Ans :=
  takeItem s b (·.ityp = 0x01) fun s i =>
    let slot := i.target = 1
    let s1 := onBoot s fun x => { x with nvm := tdropRange x.nvm (slotBase slot) (slotBase slot + 2 ^ 25) }
    onBuf s1 b fun x => { x with session := some { slot := slot, len := leAt i.payload 0 4, hash := leAt i.payload 8 32 } }

/-- Fuses and their copies blown, a bit and its copy in one pulse (R387); the identity block shows them. -/
def blowFuses (s : State) (bits : Nat) : State :=
  let m := BitVec.ofNat 2048 bits
  onBoot (onFuse s fun f => { a := f.a ||| m, b := f.b ||| m }) fun x => { x with idn := s.fuse.a ||| m }

/-- A fuse item takes effect. -/
def takeFuse (s : State) (b ityp : Nat) : Ans := takeItem s b (·.ityp = ityp) fun s i => blowFuses s (fuseBits i)

/-- ROLLBACK_TO (R397): a count at or below the current value changes nothing. -/
def execRollbackTo (b : Nat) (s : State) : Ans := takeFuse s b 0x02

/-- KEY_PROGRAM (R397). -/
def execKeyProgram (b : Nat) (s : State) : Ans := takeFuse s b 0x03

/-- KEY_GRANT (R397). -/
def execKeyGrant (b : Nat) (s : State) : Ans := takeFuse s b 0x04

/-- KEY_REVOKE (R397). -/
def execKeyRevoke (b : Nat) (s : State) : Ans := takeFuse s b 0x05

/-- LOCK (R397, R472). -/
def execLock (b : Nat) (s : State) : Ans := takeFuse s b 0x06

/-! ## Jobs (R258, R260, R399, R446) -/

/-- Every translation of a job leaves the cache (R274). -/
def forgetJob (s : State) (job : Nat) : State := invalRange s job 0 (2 ^ 64)

/-- The metering record of an entry that becomes VALID for a job other than the one it last held (R446). -/
def restartMeter (s : State) (i job : Nat) : State :=
  let r := tget {} s.mtr.recs i
  if r.gen ≠ 0 && r.job = job then s
  else onMtr s fun m => { m with
    recs := tput {} m.recs i { gen := (r.gen + 1) % 2 ^ 32, job := job, start := s.clk.opSec }
    act := tput 0 m.act i 0, carry := tput 0 m.carry i 0 }

/-- JOB_SET (R399). -/
def execJobSet (b : Nat) (s : State) : Ans :=
  takeItem s b (·.ityp = 0x10) fun s i =>
    let old := tget 0 s.trn.jobs i.target
    let e := BitVec.ofNat 512 (leNat i.payload)
    let ring := jobRing old ≠ jobRing e || jobRingSlots old ≠ jobRingSlots e
    let s1 := onTrn s fun t => { t with
      jobs := tput 0 t.jobs i.target e, rings := if ring then tput none t.rings i.target none else t.rings }
    let s2 := if jobValid e then restartMeter s1 i.target (jobId e) else s1
    let s3 := if jobValid old && (jobFld old 8 4 ≠ jobFld e 8 4 || jobRoot old ≠ jobRoot e || !jobValid e) then forgetJob s2 (jobId old) else s2
    checkRings (if jobValid old && !jobValid e then denyJob s3 (jobId old) else s3)

/-- JOB_DELETE (R260, R280). -/
def execJobDelete (b : Nat) (s : State) : Ans :=
  takeItem s b (·.ityp = 0x11) fun s i =>
    let old := tget 0 s.trn.jobs i.target
    let s1 := onTrn s fun t => { t with jobs := tput 0 t.jobs i.target 0, rings := tput none t.rings i.target none }
    if jobValid old then denyJob (forgetJob s1 (jobId old)) (jobId old) else s1

/-! ## Row groups and extents (R34, R35, R311, R372, R399) -/

/-- ROWGROUP_MODE (R35). -/
def execRowgroupMode (b : Nat) (s : State) : Ans :=
  takeItem s b (·.ityp = 0x18) fun s i =>
    onExt s fun x => { x with rowModes := tput 0 x.rowModes (48 * fld i.target 8 3 + fld i.target 0 6) (leNat i.payload % 3) }

/-- EXTENT_CREATE (R399): the extent is zeroed before it reads FREE; a copy slot reads ABSENT. -/
def execExtentCreate (b : Nat) (s : State) : Ans :=
  takeItem s b (·.ityp = 0x19) fun s i =>
    let e := extEntry i.payload
    let k := 512 * e.hearth + e.slot
    let (prot, copy) := slotRole s.cell.map (s.boot.role = 1) s.boot.pos k
    let x : Ext := { dense := modeNow s e.hearth e.rowgrp = 2, prot := prot, vpool := e.vpool, rowgrp := e.rowgrp, pos := e.pos
                     term := b2n (copy || k = s.cfg.jslot) }
    let s1 := onExt s fun t => { t with tab := tput {} t.tab k x }
    if x.term = 1 then s1 else beginZeroing s1 k 0

/-- EXTENT_REMOVE (R399). -/
def execExtentRemove (b : Nat) (s : State) : Ans :=
  takeItem s b (·.ityp = 0x1A) fun s i => onExt s fun t => { t with tab := tput {} t.tab i.target {} }

/-- Bit 32 of an EXTENT_ASSIGN item: CLEAR. -/
def isClear (i : Item390) : Bool := i.ityp = 0x20 && tbit (leNat i.payload) 32

/-- EXTENT_ASSIGN (R311). -/
def execExtentAssign (b : Nat) (s : State) : Ans :=
  takeItem s b (fun i => i.ityp = 0x20 && !isClear i) fun s i =>
    let job := fld (leNat i.payload) 0 20
    let e := extN s i.target
    if e.state = 1 then onExtN s i.target fun x => { x with state := 2, job := job, gen := if job = x.job then x.gen else (x.gen + 1) % 2 ^ 32 }
    else if e.state = 2 && e.job ≠ job then beginZeroing s i.target job
    else s

/-- EXTENT_CLEAR (R311). -/
def execExtentClear (b : Nat) (s : State) : Ans :=
  takeItem s b isClear fun s i =>
    let e := extN s i.target
    if e.state = 1 || e.state = 2 then beginZeroing s i.target 0 else s

/-- LEASE_REVOKE (R320). -/
def execLeaseRevoke (b : Nat) (s : State) : Ans :=
  takeItem s b (·.ityp = 0x21) fun s i => if (extN s i.target).state = 3 then endLease s i.target 3 else s

/-- LEASE_BOUNDS (R315). -/
def execLeaseBounds (b : Nat) (s : State) : Ans :=
  takeItem s b (·.ityp = 0x22) fun s i =>
    onExt s fun x => { x with min := leAt i.payload 0 4, dflt := leAt i.payload 4 4, max := leAt i.payload 8 4 }

/-! ## Functions (R259, R400) -/

/-- The function of a TAKEN item's operator. -/
def itemFunction (it : Item) : Option Nat := match opTable it.op with | some x => x.2.2.2 | none => none

/-- FUNC_SET (R400): items of the functions cleared run on, and are counted. -/
def execFuncSet (b : Nat) (s : State) : Ans :=
  takeItem s b (·.ityp = 0x28) fun s i =>
    let cleared := (List.range 7).filter fun f => tbit s.auth.funcs f && !tbit i.target f
    let bits := (cleared.map (2 ^ ·)).sum
    let left := (s.stv.items.filter fun it => match itemFunction it with | some f => cleared.contains f | none => false).map (·.id)
    onAuth s fun a => { a with funcs := i.target, drains := if cleared.isEmpty then a.drains else a.drains ++ [(b, bits, left)] }

/-- FUNC_DRAIN_DONE (R400): no item of the functions that a FUNC_SET cleared runs any more. -/
def execFuncDrainDone (s : State) : Ans :=
  match s.auth.drains.find? fun d => drainLeft s d = 0 with
  | none => notEnabled s
  | some d =>
    .next (ashExempt (onAuth s fun a => { a with drains := dropFirst (· == d) a.drains }) 1 0x34 0x0605 [(0, natLe 1 d.2.1)])

/-! ## The Chimney and the Damper (R230, R250 to R254) -/

/-- ROUTE (R230). -/
def execRoute (b : Nat) (s : State) : Ans :=
  takeItem s b (·.ityp = 0x30) fun s i =>
    let e := BitVec.ofNat 32 (leAt i.payload 0 4)
    onChim s fun c => if i.target < 256 then { c with cellTab := tput 0x7F7F7F7F c.cellTab i.target e }
      else { c with posTab := tput 0x7F7F7F7F c.posTab (i.target - 256) e }

/-- POLICER (R252): its buckets are full when it is set. -/
def execPolicer (b : Nat) (s : State) : Ans :=
  takeItem s b (·.ityp = 0x31) fun s i =>
    let p := policerFrom s (leNat i.payload)
    if tbit i.target 31 then onLinks s fun x => { x with polCtx := tput {} x.polCtx (fld i.target 0 12) p }
    else onLink s (fld i.target 0 7) fun x => { x with pols := tput {} x.pols (fld i.target 8 3) p }

/-- OVERHEAD (R250). -/
def execOverhead (b : Nat) (s : State) : Ans :=
  takeItem s b (·.ityp = 0x32) fun s i =>
    onCfg s fun c => { c with flues := tmod {} c.flues i.target fun x => { x with overhead := leAt i.payload 0 1 } }

/-- SHAPER (R251): FLAGS bit 0 says whether its bucket is full or empty; the queued frames are judged again. -/
def execShaper (b : Nat) (s : State) : Ans :=
  takeItem s b (·.ityp = 0x38) fun s i =>
    let l := fld i.target 0 7
    let sh := shaperFrom s (leNat i.payload) (tbit (bufOf s b).flags 0)
    startNext (onLink s l fun x => { x with shapers := tput none x.shapers (fld i.target 8 4) (some sh) }) l

/-- GATE_LIST (R254): the list is pending until its count. -/
def execGateList (b : Nat) (s : State) : Ans :=
  takeItem s b (·.ityp = 0x40) fun s i =>
    onChim s fun c => { c with
      gates := tmod {} c.gates i.target fun g => { g with next := some (leAt i.payload 0 8, gateEntries (i.payload.drop 8)) } }

/-! ## Sites and tests (R401, R444) -/

/-- A site changed. -/
def onSite (s : State) (k : Nat) (f : Site → Site) : State := onSites s fun x => { x with sites := tmod {} x.sites k f }

/-- Stripe units of a Hearth that are to be rebuilt when its site returns (R401, R444): every unit of a protected extent where a test
has overwritten the site, else those marked unprotected whose copy is served. -/
def unitsOnReturn (s : State) (h : Nat) (all : Bool) : List Nat :=
  if all then
    (s.ext.tab.filter fun e => e.1 / 512 = h && e.2.state ≠ 0 && e.2.prot ≠ 0).flatMap fun e => (List.range 16384).map (e.1 * 16384 + ·)
  else s.mem.unprot.filter fun u => lpaHearth (u * 65536) = h && match groupOf s (u * 65536) with
    | some g => isLive s.cell.map (copyPos g (u * 65536))
    | none => false

/-- A site returns to service (R401). -/
def returnSite (s : State) (k : Nat) : State :=
  let v := siteAt s k
  let us := unitsOnReturn s (k / 4) v.overwritten
  let s1 := onSite s k fun x => { x with inService := true, overwritten := false }
  let s2 := onCell s1 fun c => { c with
    units := forAll us (fun l u => insertNat u l) c.units
    freshLines := if v.overwritten then c.freshLines.filter fun l => !us.contains (l / 1024) else c.freshLines }
  freeWaits (onMem s2 fun m => { m with unprot := m.unprot.filter fun u => !us.contains u })

/-- SITE_STATE (R401). -/
def execSiteState (b : Nat) (s : State) : Ans :=
  takeItem s b (·.ityp = 0x48) fun s i =>
    if leNat i.payload = 0 then (if (siteAt s i.target).inService then s else returnSite s i.target)
    else onSite s i.target fun x => { x with inService := false }

/-- TEST_RUN (R444): tests 0x01 and 0x03 overwrite the site. -/
def execTestRun (b : Nat) (s : State) : Ans :=
  takeItem s b (·.ityp = 0x50) fun s i =>
    let code := leAt i.payload 0 1
    onSite s i.target fun x => { x with test := some code, overwritten := x.overwritten || code = 1 || code = 3 }

/-- One failure that a test has found enters the site's error map; where it lies no rule tells (R444, log 7). -/
def testFailure (s : State) (site : Nat) : State :=
  let (s1, n) := draw s
  let x := (Config.freeWord n).toNat
  let e : RowErr := { chan := fld x 0 3, rank := fld x 3 1, bank := fld x 4 4, row := fld x 8 16, kind := 3, symbol := fld x 24 9, count := 1 }
  modBankErr (addRowErr s1 site e) (bankIx site e.chan e.rank e.bank) fun y => { y with
    uncorrected := satInc 16 y.uncorrected, lastRow := e.row }

/-- TEST_COMPLETE (R444). -/
def execTestComplete (site errors : Nat) (s : State) : Ans :=
  match (siteAt s site).test with
  | none => notEnabled s
  | some code =>
    let s1 := forAll (List.range errors) (fun s _ => testFailure s site) (onSite s site fun x => { x with test := none })
    .next (ashExempt s1 (if errors = 0 then 0 else 3) 0x31 0x0802
      [(0, natLe 1 site), (1, natLe 1 code), (4, natLe 4 (min errors (2 ^ 32 - 1)))])

/-! ## Cell, power, recorder, module, Flues, reset (R402, R426, R445) -/

/-- EXTENT_MOVE (R353, R402): the leader is asked to commit the move. -/
def execExtentMove (b : Nat) (s : State) : Ans :=
  takeItem s b (·.ityp = 0x58) fun s i => askMove s { moveFrom (i.payload ++ List.replicate 8 0) with stage := 1 }

/-- POWER_SET, kind STATE (R412, R426). -/
def execPowerSetState (b : Nat) (s : State) : Ans :=
  takeItem s b (fun i => i.ityp = 0x60 && i.target = 1) fun s i => beginEntry s (leAt i.payload 0 1 = 2) (leAt i.payload 4 4)

/-- POWER_SET, kind SECTION (R406, R426). -/
def execPowerSetSection (b : Nat) (s : State) : Ans :=
  takeItem s b (fun i => i.ityp = 0x60 && i.target = 2) fun s i => applyPower s (leNat i.payload)

/-- ASHPIT_SET (R445): a changed STATIC_W applies from the next metering interval. -/
def execAshpitSet (b : Nat) (s : State) : Ans :=
  takeItem s b (·.ityp = 0x68) fun s i => onCfg s fun c => { c with ashpit := BitVec.ofNat 512 (leNat i.payload) }

/-- MODULE_PARAMS (R370, R402). -/
def execModuleParams (b : Nat) (s : State) : Ans :=
  takeItem s b (·.ityp = 0x70) fun s i => onCfg s fun c => putModule c i.payload

/-- FLUE_SET (R374, R402): the Flue retrains, and its links are down until they have. -/
def execFlueSet (b : Nat) (s : State) : Ans :=
  takeItem s b (·.ityp = 0x78) fun s i =>
    let f := i.target
    let ups := (if f < 24 then (List.range 4).map (4 * f + ·) else [f + 72]).filter fun l => (linkOf s l).up
    let s1 := onCfg s fun c => { c with flues := tput {} c.flues f (flueFrom (leNat i.payload)) }
    forAll ups (fun s l =>
      ashLimited (takeDown s l) 3 (0x10 + f) 0x0303 [(0, natLe 1 l), (1, natLe 1 5)]) s1

/-- RESET (R402): RESULT reads applied, and 10 ms later the device resets. -/
def execReset (b : Nat) (s : State) : Ans :=
  takeItem s b (·.ityp = 0x7E) fun s _ => onAuth s fun a => { a with resetAt := some (s.clk.pilot + 10240) }

/-- RESET_DELAY_EXPIRE (R358, R402, R436): the Ashpit is flushed first. -/
def execResetDelayExpire (s : State) : Ans :=
  match s.auth.resetAt with
  | some t => if t ≤ s.clk.pilot then .next (resetDevice (flush s)) else notEnabled s
  | none => notEnabled s

end Sys2Proof.Machine
end

