-- ==== Sys2Proof/Machine/Compare.lean ====
section
/-! DEFINITION. Class 0x5, compare and select (R114). -/

namespace Sys2Proof.Machine

/-- A scalar compare writes a predicate. -/
def scmp (s : State) (t : ThreadRef) (w : BitVec 64) (opc : Nat) : Ans :=
  regOp s t w 5 opc fun x => setP x (wDst w) (compareOp opc (sReg x (wSa w)) (opB x w))

/-- Predicate logic on pSA and pSB. -/
def plogic (s : State) (t : ThreadRef) (w : BitVec 64) (opc : Nat) : Ans :=
  regOp s t w 5 opc fun x => setP x (wDst w) (predOp opc (pReg x (wSa w)) (pReg x (wSb w)))

/-- A vector compare writes all ones or zero to each element. -/
def vcmp (s : State) (t : ThreadRef) (w : BitVec 64) (opc : Nat) (g : Val → Val → Bool) : Ans :=
  issue s t w 5 opc fun it th =>
    let f := wFmt w
    let r := vOf f (upTo (vLen f) fun j =>
      if g (vVal f (vReg th (wSa w)) j) (vVal f (vReg th (wSb w)) j) then 2 ^ elemBits f - 1 else 0)
    .next (onThread (meterVec s it f) t fun x => nextPc (setV x (wDst w) r))

/-- CEQ: equal. -/
def execCeq (t : ThreadRef) (w : BitVec 64) (s : State) : Ans := scmp s t w 0

/-- CNE: not equal. -/
def execCne (t : ThreadRef) (w : BitVec 64) (s : State) : Ans := scmp s t w 1

/-- CLTU: less, unsigned. -/
def execCltu (t : ThreadRef) (w : BitVec 64) (s : State) : Ans := scmp s t w 2

/-- CLT: less, signed. -/
def execClt (t : ThreadRef) (w : BitVec 64) (s : State) : Ans := scmp s t w 3

/-- CGEU: not less, unsigned. -/
def execCgeu (t : ThreadRef) (w : BitVec 64) (s : State) : Ans := scmp s t w 4

/-- CGE: not less, signed. -/
def execCge (t : ThreadRef) (w : BitVec 64) (s : State) : Ans := scmp s t w 5

/-- SEL: sSA or sSB by predicate IMM[2:0]. -/
def execSel (t : ThreadRef) (w : BitVec 64) (s : State) : Ans :=
  regOp s t w 5 6 fun x => setS x (wDst w) (if pReg x (wImm w) then sReg x (wSa w) else sReg x (wSb w))

/-- PAND. -/
def execPand (t : ThreadRef) (w : BitVec 64) (s : State) : Ans := plogic s t w 7

/-- POR. -/
def execPor (t : ThreadRef) (w : BitVec 64) (s : State) : Ans := plogic s t w 8

/-- PXOR. -/
def execPxor (t : ThreadRef) (w : BitVec 64) (s : State) : Ans := plogic s t w 9

/-- PNOT. -/
def execPnot (t : ThreadRef) (w : BitVec 64) (s : State) : Ans := plogic s t w 10

/-- VCMPLT: each element less. -/
def execVcmplt (t : ThreadRef) (w : BitVec 64) (s : State) : Ans := vcmp s t w 16 fun a b => a.kind ≠ .nan && b.kind ≠ .nan && vLt a b

/-- VCMPEQ: each element equal. -/
def execVcmpeq (t : ThreadRef) (w : BitVec 64) (s : State) : Ans := vcmp s t w 17 vEq

/-- VSEL: bytewise vSC ? vSA : vSB, a byte of the mask other than 0 taking vSA; vSC stands in bits [31:27] (log 21). -/
def execVsel (t : ThreadRef) (w : BitVec 64) (s : State) : Ans :=
  regOp s t w 5 18 fun x => setV x (wDst w) (BitVec.ofNat 4096 (packCodes 8 (upTo 512 fun k =>
    if fld (vReg x (wSc w)).toNat (8 * k) 8 ≠ 0 then fld (vReg x (wSa w)).toNat (8 * k) 8
    else fld (vReg x (wSb w)).toNat (8 * k) 8)))

/-- VANY: some byte is not zero. -/
def execVany (t : ThreadRef) (w : BitVec 64) (s : State) : Ans := regOp s t w 5 19 fun x => setP x (wDst w) (vReg x (wSa w) != 0)

end Sys2Proof.Machine
end

