-- ==== Sys2Proof/Machine/Control.lean ====
section
/-! DEFINITION. Class 0xA, control (R114, R131, R133), and the crew's run limit. -/

namespace Sys2Proof.Machine

/-- The thread jumps. -/
def jump (x : Thread) (n : Nat) : Thread := { x with pc := n }

/-- BR. -/
def execBr (t : ThreadRef) (w : BitVec 64) (s : State) : Ans :=
  issue s t w 0xA 0 fun _ _ => .next (onThread s t fun x => jump x (target x w))

/-- JAL: the index of the next word is kept. -/
def execJal (t : ThreadRef) (w : BitVec 64) (s : State) : Ans :=
  issue s t w 0xA 1 fun _ _ => .next (onThread s t fun x => jump (setS x (wDst w) (BitVec.ofNat 64 (x.pc + 1))) (target x w))

/-- JR: a word outside the code is fault 0xF2. -/
def execJr (t : ThreadRef) (w : BitVec 64) (s : State) : Ans :=
  issue s t w 0xA 2 fun it th =>
    let n := (sReg th (wSa w)).toNat
    if (it.code.getD []).length ≤ n then .next (fault s t 0xF2 0) else .next (onThread s t fun x => jump x n)

/-- LOOP: sDST counts down, and the thread jumps while it is not 0. -/
def execLoop (t : ThreadRef) (w : BitVec 64) (s : State) : Ans :=
  issue s t w 0xA 3 fun _ _ =>
    .next (onThread s t fun x =>
      let v := sReg x (wDst w) - 1
      let y := setS x (wDst w) v
      if v = 0 then nextPc y else jump y (target x w))

/-- YIELD: the issue turn passes to another thread, whose turn the next command names. -/
def execYield (t : ThreadRef) (w : BitVec 64) (s : State) : Ans := regOp s t w 0xA 4 id

/-- EXIT: the thread ends, proposing IMM[7:0] (R133). -/
def execExit (t : ThreadRef) (w : BitVec 64) (s : State) : Ans :=
  issue s t w 0xA 5 fun _ _ =>
    .next (onItem (onThread s t fun x => { x with done := some (wImm w % 256) }) t.item fun it => { it with
      exits := it.exits ++ [wImm w % 256] })

/-- TRAP: a fault with status IMM[7:0] (R131). -/
def execTrap (t : ThreadRef) (w : BitVec 64) (s : State) : Ans :=
  issue s t w 0xA 6 fun _ _ => .next (fault s t (wImm w % 256) 0)

/-- PCNT: the Pilot count, low 32 bits. -/
def execPcnt (t : ThreadRef) (w : BitVec 64) (s : State) : Ans :=
  regOp s t w 0xA 7 fun x => setS x (wDst w) (BitVec.ofNat 64 (s.clk.pilot % 2 ^ 32))

/-- CCNT: Stove clocks since the crew started, a free value (log 8). -/
def execCcnt (t : ThreadRef) (w : BitVec 64) (s : State) : Ans :=
  issue s t w 0xA 8 fun _ _ => .next (onThread (bump s 1) t fun x => nextPc (setS x (wDst w) (Config.stoveClocks s.draws)))

/-- RUN_LIMIT_EXPIRE (R131): the limit has passed since the crew started; thread 0 is recorded. -/
def execRunLimitExpire (i : ItemId) (s : State) : Ans :=
  match itemOf s i with
  | none => notEnabled s
  | some it =>
    let limit := opFld it 320 32
    if runsCode it && limit ≠ 0 && it.prog + limit ≤ s.clk.pilot then .next (fault s { item := i, n := 0 } stTimeout 0)
    else notEnabled s

end Sys2Proof.Machine
end

