-- ==== Sys2Proof/Machine/Embed.lean ====
section
/-! DEFINITION. Class 0x9, embedding helpers (R114), and the operators GATHER and SCATTER_UPDATE (R139 to R157). -/

namespace Sys2Proof.Machine

/-- HASHM: the high 64 bits of ((sSA × sSB) mod 2^64) × sSC. -/
def hashm (i mul n : Nat) : Nat := (i * mul % 2 ^ 64) * n / 2 ^ 64

/-- HASHM. -/
def execHashm (t : ThreadRef) (w : BitVec 64) (s : State) : Ans :=
  regOp s t w 9 0 fun x =>
    setS x (wDst w) (BitVec.ofNat 64 (hashm (sReg x (wSa w)).toNat (sReg x (wSb w)).toNat (sReg x (wSc w)).toNat))

/-- QR: the quotient in sDST and the remainder in the next register, which wraps from s31 to s0; divisor 0 as DIVU. -/
def execQr (t : ThreadRef) (w : BitVec 64) (s : State) : Ans :=
  regOp s t w 9 1 fun x =>
    let a := sReg x (wSa w)
    let b := sReg x (wSb w)
    setS (setS x (wDst w) (if b = 0 then BitVec.allOnes 64 else a / b)) ((wDst w + 1) % 32) (if b = 0 then a else a % b)

/-- Entries of a coalescer (R151). -/
def coalSize : Nat := 65536

/-- COALI: the entry of an index, inserted if new; all ones when the coalescer is full. -/
def execCoali (t : ThreadRef) (w : BitVec 64) (s : State) : Ans :=
  issue s t w 9 2 fun it th =>
    let k := sReg th (wSa w)
    match it.coal.findIdx? (· = k) with
    | some n => .next (onThread s t fun x => nextPc (setS x (wDst w) (BitVec.ofNat 64 n)))
    | none =>
      if coalSize ≤ it.coal.length then .next (onThread s t fun x => nextPc (setS x (wDst w) (BitVec.allOnes 64)))
      else .next (onItem (onThread s t fun x => nextPc (setS x (wDst w) (BitVec.ofNat 64 it.coal.length))) t.item fun y =>
        { y with coal := y.coal ++ [k] })

/-- COALN: unique indices held. -/
def execCoaln (t : ThreadRef) (w : BitVec 64) (s : State) : Ans :=
  issue s t w 9 3 fun it _ => .next (onThread s t fun x => nextPc (setS x (wDst w) (BitVec.ofNat 64 it.coal.length)))

/-- Where the lines of a row lie: on this module, on another, over several extents, or turned away. -/
inductive RowAt where
  | here (lpas : List Nat)
  | far (mpa : Nat)
  | split
  | lost (st : Nat)
deriving DecidableEq, Repr

/-- The places of a row's lines judged (R156): they lie in one extent or the row is not updated. -/
def rowAt : List Dst → RowAt
  | ds =>
    match lostStatus ds with
    | some st => .lost st
    | none =>
      let exts := ds.map fun d => match d with | .here a => (0, lpaExt a) | .far m => (1, m / 2 ^ 30) | .lost _ => (2, 0)
      if !(exts.all fun e => e = exts.headD (0, 0)) then .split
      else match ds.headD (.lost 0) with
        | .far m => .far m
        | _ => .here (ds.filterMap fun d => match d with | .here a => some a | _ => none)

/-- Every line of a row and its state made ready for its update. -/
def tryRow (s : State) (i : ItemId) (jva : Nat) (offs : List Nat) : State × Got RowAt :=
  match tryStores s i (offs.map fun o => (jva + o, List.replicate 63 0)) with
  | (s1, .ok ds) => (s1, .ok (rowAt ds))
  | (s1, .wait) => (s1, .wait)
  | (s1, .bad st) => (s1, .bad st)

/-- A SCATTER_UPDATE request to a row's owner (R156). -/
def sendScatter (s : State) (it : Item) (n jva m : Nat) (dense : Bool) (j : RowJob) (who : Issuer) : State :=
  let f := fabricHead s it.ctx it.job tScatter (stoveTag it n) (BitVec.ofNat 64 jva) (BitVec.ofNat 64 m)
  let p := scatterPayload dense j
  sendFabric s { f with opa := scatterOpa dense j, opb := BitVec.ofNat 64 j.step, payload := p, len := p.length } who

/-- ROWUPD (R155, R156): the word names the row, a gradient entry and the optimizer descriptor; elements have FMT, and every
output rounding uses CVT. The dimension, the step number and, for a row of another module, the class are free values: the
spec gives the instruction no field for them (log 27). -/
def execRowupd (t : ThreadRef) (w : BitVec 64) (s : State) : Ans :=
  issue s t w 9 4 fun it th =>
    let row := (sReg th (wSa w)).toNat
    let d := s.draws
    let dim := (Config.freeWord d).toNat % 4096 + 1
    if row % 64 ≠ 0 then .next (fault s t 0xF0 row)
    else
      let (s1, g) := wholeTile s it th (sReg th (wSb w))
      onGot s1 t row g fun (_, bs) =>
        let (s2, q) := readJva s1 t.item t.n 0 (sReg th (wSc w)).toNat 64
        onGot s2 t (sReg th (wSc w)).toNat q fun (ob, srcs) =>
          let j : RowJob := { dim := dim, fmt := wFmt w, opt := ob, step := (Config.freeWord (d + 1)).toNat, cvt := wCvt w,
                              grad := upTo dim fun k => b32Val (BitVec.ofNat 32 (leAt bs (4 * (wImm19 w * dim + k)) 4)) }
          if (optStatus ob dim (wFmt w) (2 ^ 22) j.step).isSome then .next (fault (bump s2 3) t stMalformed row)
          else
            let offs := rowOffs (optOf ob) dim (wFmt w)
            let (s3, x) := tryRow s2 t.item row offs
            onGot s3 t row x fun y =>
              let s4 := bump (chargeReads s3 t.item srcs) 3
              match y with
              | .lost st => .next (fault s4 t (faultCode st) row)
              | .split => .next (onThread s4 t nextPc)
              | .far m => .next (onThread (sendScatter s4 it t.n row m ((Config.freeWord (d + 2)).getLsbD 0) j (.store t)) t nextPc)
              | .here lpas =>
                if lpas.any fun a => isPoisoned s4 (lineOf a) then .next (fault s4 t stPoison row)
                else .next (onThread (updateRow s4 (extOf s4 (lpas.headD 0)).dense it.job j offs lpas) t nextPc)

/-! ## Table descriptors -/

/-- Fields of a table descriptor (R140). -/
structure Tbl where
  fmt : Nat := 0
  map : Nat := 0
  layout : Nat := 0
  lg : Nat := 6
  dim : Nat := 1
  shards : Nat := 1
  base : Nat := 0
  base2 : Nat := 0
  rows : Nat := 0
  rows2 : Nat := 0
  slg : Nat := 21
  mul : Nat := 0
deriving DecidableEq, Repr

/-- The fields of the 64 bytes. -/
def tblOf (bs : List Byte) : Tbl :=
  let n := leNat bs
  { fmt := fld n 8 4, map := fld n 12 2, layout := fld n 14 2, lg := fld n 16 5, dim := fld n 24 13, shards := fld n 40 14 + 1,
    base := fld n 64 64, base2 := fld n 128 64, rows := fld n 256 48, rows2 := fld n 304 48, slg := fld n 352 6,
    mul := fld n 384 64 }

/-- A quotient-remainder map. -/
def isQr (t : Tbl) : Bool := t.map = 2 || t.map = 3

/-- The checks of R141, R143 and R144 that need no translation; `gfmt` is OUT_FMT or GRAD_FMT. -/
def tblStatus (bs : List Byte) (gfmt : Nat) (scatter : Bool) : Option Nat :=
  let n := leNat bs
  let t := tblOf bs
  match descStatus (fld n 0 4) (fld n 4 4) 2, fmtStatus t.fmt, fmtStatus gfmt with
  | some st, _, _ => some st
  | none, some st, _ => some st
  | none, none, some st => some st
  | none, none, none =>
    let st := 2 ^ t.lg
    let fits := fun r => (r + t.shards - 1) / t.shards * st ≤ 2 ^ t.slg
    if !(t.fmt ≤ 4 || t.fmt = 8) || t.layout = 3 || t.dim = 0 || 4096 < t.dim || t.lg < 6 || 22 < t.lg ||
        (t.layout = 2 && (t.slg < 21 || 40 < t.slg)) || st < rowBytesOf t.dim t.fmt || t.base % st ≠ 0 ||
        (isQr t && t.base2 % st ≠ 0) || (t.map = 1 && t.mul % 2 = 0) || t.rows = 0 || (isQr t && t.rows2 = 0) || 4 < gfmt ||
        (t.layout = 2 && !(fits t.rows && (!isQr t || fits t.rows2))) ||
        (t.layout = 1 && 2 ^ 26 < (t.rows + (if isQr t then t.rows2 else 0)) * st) ||
        (scatter && (t.map = 3 || t.layout = 1 || 1024 < t.dim)) then some stMalformed
    else none

/-- Address of row `r` of table 1 or 2 (R143). -/
def rowJva (t : Tbl) (second : Bool) (r : Nat) : Nat :=
  let b := if second then t.base2 else t.base
  if t.layout = 2 then b + r % t.shards * 2 ^ t.slg + r / t.shards * 2 ^ t.lg else b + r * 2 ^ t.lg

/-- The rows that an index selects (R142): none where it is invalid. -/
def rowsOf (t : Tbl) (i : Nat) : Option (List (Bool × Nat)) :=
  match t.map with
  | 0 => if t.rows ≤ i then none else some [(false, i)]
  | 1 => some [(false, hashm i t.mul t.rows)]
  | _ => if t.rows2 ≤ i / t.rows then none else some [(false, i % t.rows), (true, i / t.rows)]

/-- Key of a row in a coalescer: bit 63 marks table 2 (R151, R153). -/
def rowKey (p : Bool × Nat) : Nat := p.2 + b2n p.1 * 2 ^ 63

/-- The pin read (R146): at the descriptor's home, the line read whole and its pin counter raised. -/
def pinRead (s : State) (i : ItemId) (it : Item) (jva : Nat) : Ans :=
  let (s1, g) := tryStore s i 2 jva false
  onGotI s1 i {} jva g fun d =>
    match d with
    | .lost st => failItem s1 i { faultJva := jva } (faultCode st)
    | .far _ => failItem s1 i {} stMalformed
    | .here a =>
      if isPoisoned s1 (lineOf a) then failItem s1 i { faultJva := jva } stPoison
      else
        let bs := lineBytes s1 (lineOf a)
        let odd := tbit (leAt bs 24 4) 0
        let o := if odd then 60 else 56
        let s2 := applyWrite (meterLine s1 (lineOf a) it.job 128) (lineOf a) (overlay bs o (natLe 4 (satInc 32 (leAt bs o 4)))) false
        .next (onItem s2 i fun x => { x with pin := some (a / 64 * 64, odd), buf := bs, prog := 1 })

/-- One more dropped index in the descriptor's DROPS (R145): none while the line must be made ready. -/
def countDrop (s : State) (it : Item) : State × Bool :=
  match it.pin with
  | none => (s, true)
  | some (a, _) =>
    let (s1, ready) := prepWrite s (lineOf a) false
    if !ready then (s1, false)
    else if isPoisoned s1 (lineOf a) then (s1, true)
    else
      let bs := lineBytes s1 (lineOf a)
      (applyWrite s1 (lineOf a) (overlay bs 28 (natLe 4 (satInc 32 (leAt bs 28 4)))) false, true)

/-- Result of GATHER and SCATTER_UPDATE (R157). -/
def embedResult (it : Item) (st : Nat) : Result :=
  { status := st, count := itCnt it 0, detail := min (itCnt it 1) (2 ^ 32 - 1),
    opResult := min (itCnt it 2) (2 ^ 32 - 1) + min (itCnt it 3) (2 ^ 32 - 1) * 2 ^ 32 }

/-- A replicated table's rows lie on this module (R144). -/
def replicaHere (s : State) (it : Item) (t : Tbl) : State × Got Bool :=
  if t.layout ≠ 1 then (s, .ok true)
  else
    let at1 := fun (s : State) (j : Nat) => match denseAt s it j 0 with
      | (s1, .ok o) => (s1, Got.ok o.isSome)
      | (s1, .wait) => (s1, .wait)
      | (s1, .bad st) => (s1, .bad st)
    match at1 s t.base with
    | (s1, .ok true) => if isQr t then at1 s1 t.base2 else (s1, .ok true)
    | x => x

/-- An index of the INDEX array, and whether it is the pad index (R145). -/
def readIndex (s : State) (i : ItemId) (it : Item) (k : Nat) : State × Got (Nat × Bool) :=
  let n := if opFld it 416 1 = 1 then 8 else 4
  match itemRead s i (opFld it 320 64 + n * k) n with
  | (s1, .ok bs) => (s1, .ok (leNat bs, leNat bs = 2 ^ (8 * n) - 1))
  | (s1, .wait) => (s1, .wait)
  | (s1, .bad st) => (s1, .bad st)

/-- The values of a table row read by an item. -/
def readRow (s : State) (i : ItemId) (t : Tbl) (p : Bool × Nat) : State × Got (List Val) :=
  match itemRead s i (rowJva t p.1 p.2) (rowBytesOf t.dim t.fmt) with
  | (s1, .ok bs) => (s1, .ok (rowVals t.fmt t.dim (byteGet bs)))
  | (s1, .wait) => (s1, .wait)
  | (s1, .bad st) => (s1, .bad st)

/-- The rows of a list read. -/
def readRows (s : State) (i : ItemId) (t : Tbl) : List (Bool × Nat) → State × Got (List (List Val))
  | [] => (s, .ok [])
  | p :: ps =>
    match readRow s i t p with
    | (s1, .bad st) => (s1, .bad st)
    | (s1, .wait) => (s1, .wait)
    | (s1, .ok v) => match readRows s1 i t ps with
      | (s2, .ok vs) => (s2, .ok (v :: vs))
      | (s2, .wait) => (s2, .wait)
      | (s2, .bad st) => (s2, .bad st)

/-- The element delivered (R142, R150): E1, E1 + E2 or E1 × E2, exact, or rounded to binary32 in Dense arithmetic. -/
def composed (t : Tbl) (dense : Bool) (rows : List (List Val)) : List Val :=
  let e := match rows with
    | [a, b] => List.zipWith (if t.map = 2 then vAdd else vMul) a b
    | a :: _ => a
    | [] => []
  if dense then e.map r32 else e

/-! ## GATHER -/

/-- Stride of GATHER's output rows (R149). -/
def outRow (t : Tbl) (it : Item) : Nat := roundUp 64 (t.dim * elemBytes (opFld it 424 4))

/-- Bytes of an output row under OUT_FMT and CVT (R150). -/
def outBytes (s : State) (it : Item) (vs : List Val) : List Byte :=
  let f := opFld it 424 4
  (plainElems f (cvtRnd (opFld it 428 4)) (cvtSat (opFld it 428 4)) (drawU s.draws) vs).flatMap (natLe (elemBytes f))

/-- Key under which an output row stands in the staging ring. -/
def ringKey (rows : List (Bool × Nat)) : Nat := 2 ^ 130 + (rows.map rowKey).foldl (fun a k => a * 2 ^ 64 + k) 0

/-- Key under which the first output row of a key is remembered for its pass. -/
def firstKey (rows : List (Bool × Nat)) : Nat := 2 ^ 131 + ringKey rows

/-- One output row of an unpooled GATHER is written, its index counted, and the item ends with its last index. -/
def gatherWrite (s : State) (i : ItemId) (it : Item) (t : Tbl) (bs : List Byte) (post : Item → Item) : Ans :=
  let k := itCnt it 0
  let jva := opFld it 576 64 + k * outRow t it
  let (s1, g) := itemStore s i jva bs
  onGotI s1 i (embedResult it 0) jva g fun _ =>
    .next (onItem s1 i fun x =>
      let y := addCnt (post x) 0 1
      if itCnt y 0 = opFld it 384 32 then { y with result := some (embedResult y (if itCnt y 1 = 0 then 0 else 0x80)) } else y)

/-- One index of an unpooled GATHER (R149, R151): a row met before in its pass is written from the staging ring, or copied
from its first output row; a pass ends with 65,536 unique rows. -/
def gatherOne (s : State) (i : ItemId) (it : Item) (t : Tbl) (dense : Bool) : Ans :=
  let zeros := List.replicate (t.dim * elemBytes (opFld it 424 4)) (0 : Byte)
  let (s1, g) := readIndex s i it (itCnt it 0)
  onGotI s1 i (embedResult it 0) (opFld it 320 64) g fun (ix, pad) =>
    if pad then gatherWrite s1 i it t zeros fun x => addCnt x 2 1
    else match rowsOf t ix with
      | none =>
        let (s2, ready) := countDrop s1 it
        if ready then gatherWrite s2 i it t zeros fun x => addCnt x 1 1 else .next s2
      | some rows =>
        match it.got.find? (·.1 = ringKey rows), it.got.find? (·.1 = firstKey rows) with
        | some x, _ => gatherWrite s1 i it t x.2 id
        | none, some x =>
          let (s2, q) := itemRead s1 i (leNat x.2) (t.dim * elemBytes (opFld it 424 4))
          onGotI s2 i (embedResult it 0) (leNat x.2) q fun bs => gatherWrite s2 i it t bs id
        | none, none =>
          let (s2, q) := readRows s1 i t rows
          onGotI s2 i (embedResult it 0) (rowJva t false (rows.headD (false, 0)).2) q fun vs =>
            let bs := outBytes s2 it (composed t dense vs)
            let here := opFld it 576 64 + itCnt it 0 * outRow t it
            gatherWrite (bump s2 t.dim) i it t bs fun x =>
              let fresh := (rows.map fun p => BitVec.ofNat 64 (rowKey p)).filter fun k => !x.coal.contains k
              let y := addCnt { x with coal := x.coal ++ fresh } 3 fresh.length
              if coalSize ≤ y.coal.length then { y with coal := [], got := y.got.filter (·.1 < 2 ^ 130) }
              else
                let ring := (y.got.filter fun g => 2 ^ 130 ≤ g.1 && g.1 < 2 ^ 131) ++ [(ringKey rows, bs)]
                let keep := lastN (786432 / outRow t it) ring
                { y with got := y.got.filter (fun g => g.1 < 2 ^ 130 || 2 ^ 131 ≤ g.1) ++ keep ++ [(firstKey rows, natLe 8 here)] }

/-- Every index of a bag read: the rows of the valid ones, with the counts of pads and drops. -/
def bagIndices (s : State) (i : ItemId) (it : Item) (t : Tbl) : Nat → Nat → State × Got (List (List (Bool × Nat)) × Nat × Nat)
  | _, 0 => (s, .ok ([], 0, 0))
  | k, n + 1 =>
    match readIndex s i it k with
    | (s1, .wait) => (s1, .wait)
    | (s1, .bad st) => (s1, .bad st)
    | (s1, .ok (ix, pad)) => match bagIndices s1 i it t (k + 1) n with
      | (s2, .wait) => (s2, .wait)
      | (s2, .bad st) => (s2, .bad st)
      | (s2, .ok (rs, p, d)) =>
        if pad then (s2, .ok (rs, p + 1, d))
        else match rowsOf t ix with
          | none => (s2, .ok (rs, p, d + 1))
          | some r => (s2, .ok (r :: rs, p, d))

/-- The composed elements of a list of indices' rows. -/
def bagRows (s : State) (i : ItemId) (t : Tbl) (dense : Bool) : List (List (Bool × Nat)) → State × Got (List (List Val))
  | [] => (s, .ok [])
  | r :: rs =>
    match readRows s i t r with
    | (s1, .wait) => (s1, .wait)
    | (s1, .bad st) => (s1, .bad st)
    | (s1, .ok v) => match bagRows s1 i t dense rs with
      | (s2, .ok vs) => (s2, .ok (composed t dense v :: vs))
      | (s2, .wait) => (s2, .wait)
      | (s2, .bad st) => (s2, .bad st)

/-- Invalid indices of a bag counted in the descriptor. -/
def countDrops (s : State) (it : Item) : Nat → State × Bool
  | 0 => (s, true)
  | n + 1 => match countDrop s it with
    | (s1, true) => countDrops s1 it n
    | (s1, false) => (s1, false)

/-- One bag of a pooled GATHER (R149, R150). Bags are checked and written in order. -/
def gatherBag (s : State) (i : ItemId) (it : Item) (t : Tbl) (dense : Bool) : Ans :=
  let b := itCnt it 5
  let count := opFld it 384 32
  let offJva := opFld it 448 64 + 4 * b
  let (s1, g) := itemRead s i offJva 8
  onGotI s1 i (embedResult it 0) offJva g fun ob =>
    let lo := leAt ob 0 4
    let hi := leAt ob 4 4
    if hi < lo || count < hi || count < lo then failItem s1 i (embedResult it 0) 0xC0
    else
      let (s2, q) := bagIndices s1 i it t lo (hi - lo)
      onGotI s2 i (embedResult it 0) (opFld it 320 64) q fun (rows, pads, drops) =>
        let (s3, vq) := bagRows s2 i t dense rows
        onGotI s3 i (embedResult it 0) t.base vq fun vs =>
          let wide := t.fmt = 0
          let sums := upTo t.dim fun e => classSum dense wide (vs.map fun r => nth {} r e)
          let n : Val := { man := vs.length }
          let res := if vs.isEmpty then List.replicate t.dim ({} : Val)
            else if opFld it 417 2 = 2 then sums.map fun x => if dense then r32 (vDiv x n) else vDiv x n
            else sums
          let jva := opFld it 576 64 + b * outRow t it
          let (s4, ready) := countDrops s3 it drops
          if !ready then .next s4
          else
            let (s5, sq) := itemStore s4 i jva (outBytes s4 it res)
            onGotI s5 i (embedResult it 0) jva sq fun _ =>
              .next (onItem (bump s5 t.dim) i fun x =>
                let nrows := (rows.map List.length).sum
                let y := addCnt (addCnt (addCnt (addCnt (addCnt x 5 1) 0 (hi - lo)) 1 drops) 2 pads) 3 nrows
                if itCnt y 5 = opFld it 512 32 then
                  { y with result := some (embedResult y (if itCnt y 1 = 0 then 0 else 0x80)) } else y)

/-- GATHER: the pin read, the checks, then index by index or bag by bag (R146, R141, R144, R149). -/
def execGather (i : ItemId) (s : State) : Ans :=
  opRun s i 0x20 fun it =>
    let t := tblOf it.buf
    if it.prog = 0 then pinRead s i it (opFld it 256 64)
    else if it.prog = 1 then
      match tblStatus it.buf (opFld it 424 4) false with
      | some st => failItem s i {} st
      | none =>
        let (s1, g) := replicaHere s it t
        onGotI s1 i {} t.base g fun here =>
          if !here then failItem s1 i {} stMalformed
          else
            let (s2, c) := itemClass s1 it (opFld it 576 64) (opFld it 256 64)
            onGotI s2 i {} (opFld it 576 64) c fun _ =>
              .next (onItem s2 i fun x =>
                if opFld it 417 2 ≠ 0 && opFld it 512 32 = 0 then { x with prog := 2, result := some (embedResult x 0) }
                else { x with prog := 2 })
    else if opFld it 417 2 = 0 then gatherOne s i it t (itCnt it 14 = 2)
    else gatherBag s i it t (itCnt it 14 = 2)

/-! ## SCATTER_UPDATE -/

/-- Stride of the gradient rows (R152). -/
def gradRow (t : Tbl) (it : Item) : Nat := roundUp 64 (t.dim * elemBytes (opFld it 424 4))

/-- The bucket order of a row's key (R153): by h[63:52]. -/
def bucketOf (k : Nat) : Nat := k * 0x9E3779B97F4A7C15 % 2 ^ 64 / 2 ^ 52

/-- The plan (R153): the unique rows of the item, in bucket order, rows of one bucket in order of first occurrence. -/
def planRows (keys : List Nat) : List Nat :=
  let uniq := keys.foldl (fun a k => if a.contains k then a else a ++ [k]) []
  (List.range 4096).flatMap fun b => uniq.filter fun k => bucketOf k = b

/-- The rows of each index with its place, from an item's whole INDEX array. -/
def indexRows (t : Tbl) (ixs : List (Nat × Bool)) : List (Nat × List Nat) :=
  (List.zip (List.range ixs.length) ixs).filterMap fun p =>
    if p.2.2 then none else (rowsOf t p.2.1).map fun r => (p.1, r.map rowKey)

/-- The whole INDEX array read. -/
def readIndices (s : State) (i : ItemId) (it : Item) : State × Got (List (Nat × Bool)) :=
  let n := if opFld it 416 1 = 1 then 8 else 4
  match itemRead s i (opFld it 320 64) (n * opFld it 384 32) with
  | (s1, .ok bs) => (s1, .ok (upTo (opFld it 384 32) fun k => (leAt bs (n * k) n, leAt bs (n * k) n = 2 ^ (8 * n) - 1)))
  | (s1, .wait) => (s1, .wait)
  | (s1, .bad st) => (s1, .bad st)

/-- Gradient rows of a list of positions. -/
def readGrads (s : State) (i : ItemId) (it : Item) (t : Tbl) : List Nat → State × Got (List (List Val))
  | [] => (s, .ok [])
  | k :: ks =>
    let f := opFld it 424 4
    match itemRead s i (opFld it 448 64 + k * gradRow t it) (t.dim * elemBytes f) with
    | (s1, .wait) => (s1, .wait)
    | (s1, .bad st) => (s1, .bad st)
    | (s1, .ok bs) => match readGrads s1 i it t ks with
      | (s2, .ok vs) => (s2, .ok (rowVals f t.dim (byteGet bs) :: vs))
      | (s2, .wait) => (s2, .wait)
      | (s2, .bad st) => (s2, .bad st)

/-- One row of the plan: the gradients of its occurrences summed, the row updated once (R152, R153, R156). -/
def scatterRow (s : State) (i : ItemId) (it : Item) (t : Tbl) (key : Nat) : Ans :=
  let dense := itCnt it 14 = 2
  let ob := it.buf.drop 64
  let (s1, g) := readIndices s i it
  onGotI s1 i (embedResult it 0) (opFld it 320 64) g fun ixs =>
    let occ := ((indexRows t ixs).filter fun p => p.2.contains key).map Prod.fst
    let (s2, q) := readGrads s1 i it t occ
    onGotI s2 i (embedResult it 0) (opFld it 448 64) q fun gs =>
      let sum := upTo t.dim fun e => classSum dense (opFld it 424 4 = 0) (gs.map fun r => nth {} r e)
      let j : RowJob := { dim := t.dim, fmt := t.fmt, opt := ob, step := opFld it 576 64, grad := sum }
      let jva := rowJva t (2 ^ 63 ≤ key) (key % 2 ^ 63)
      let offs := rowOffs (optOf ob) t.dim t.fmt
      let (s3, x) := tryRow s2 i jva offs
      onGotI s3 i (embedResult it 0) jva x fun y =>
        let next := fun (s : State) (c : Nat) => Host.Outcome.next (onItem s i fun x =>
          let z := addCnt { x with coal := x.coal.drop 1 } c 1
          if z.coal.isEmpty then { z with result := some (embedResult z (if itCnt z 1 = 0 then 0 else 0x80)) } else z)
        match y with
        | .lost st => failItem s3 i { embedResult it 0 with faultJva := jva } (faultCode st)
        | .split => next s3 1
        | .far m => next (sendScatter s3 it 0 jva m dense j (.itemStore i)) 3
        | .here lpas =>
          if lpas.any fun a => isPoisoned s3 (lineOf a) then failItem s3 i { embedResult it 0 with faultJva := jva } stPoison
          else next (updateRow s3 dense it.job j offs lpas) 3

/-- SCATTER_UPDATE: the pin read, the checks and the optimizer descriptor, the plan, then row by row (R146, R152 to R157). -/
def execScatterUpdate (i : ItemId) (s : State) : Ans :=
  opRun s i 0x21 fun it =>
    let t := tblOf it.buf
    if it.prog = 0 then pinRead s i it (opFld it 256 64)
    else if it.prog = 1 then
      match tblStatus (it.buf.take 64) (opFld it 424 4) true with
      | some st => failItem s i {} st
      | none =>
        let (s1, g) := itemRead s i (opFld it 512 64) 64
        onGotI s1 i {} (opFld it 512 64) g fun ob =>
          match optStatus ob t.dim t.fmt (2 ^ t.lg) (opFld it 576 64) with
          | some st => failItem s1 i {} st
          | none =>
            let (s2, c) := itemClass s1 it t.base (opFld it 256 64)
            onGotI s2 i {} t.base c fun _ => .next (onItem s2 i fun x => { x with prog := 2, buf := x.buf.take 64 ++ ob })
    else if it.prog = 2 then
      let (s1, g) := readIndices s i it
      onGotI s1 i (embedResult it 0) (opFld it 320 64) g fun ixs =>
        let drops := (ixs.filter fun p => !p.2 && (rowsOf t p.1).isNone).length
        let keys := planRows ((indexRows t ixs).flatMap Prod.snd)
        let (s2, ready) := countDrops s1 it drops
        if !ready then .next s2
        else .next (onItem s2 i fun x =>
          let y := addCnt (addCnt (addCnt { x with prog := 3, coal := keys.map (BitVec.ofNat 64) } 0 ixs.length) 1 drops) 2
            (ixs.filter Prod.snd).length
          if keys.isEmpty then { y with result := some (embedResult y (if drops = 0 then 0 else 0x80)) } else y)
    else match it.coal with
      | k :: _ => scatterRow s i it t k.toNat
      | [] => notEnabled s

end Sys2Proof.Machine
end

