-- ==== Sys2Proof/Machine/Kernel.lean ====
section
/-! DEFINITION. Kernel code objects (R128 to R130): the header and the validation of every word. -/

namespace Sys2Proof.Machine

/-! ## What each instruction uses (R112, R114) -/

/-- Kinds of register that a field names: 0 none, 1 s, 2 v, 3 p, 4 a. -/
abbrev RegKind := Nat

/-- What an instruction's immediate may hold. -/
inductive ImmUse where
  /-- Unused: zero. -/
  | zero
  /-- Any value. -/
  | any
  /-- An immediate that W[0] selects in place of SB. -/
  | byW
  /-- A number below a bound. -/
  | below (n : Nat)
  /-- VSEL: SC in its place, the rest unused (log 21). -/
  | onlySc
  /-- MTV: L alone. -/
  | lOnly
  /-- MMV, AADDV: an element offset within one register, and L. -/
  | offsetL
  /-- VCVT: a source format. -/
  | srcFmt
deriving DecidableEq, Repr

/-- The fields that an instruction uses: its form, register kinds, format (1 vector formats, 2 all ten), CVT, W (0 unused,
1 selects the immediate, 2 a size, 3 4 or 8 bytes, 4 4 bytes), immediate, and whether it uses the stationary. -/
structure Use where
  t : Bool := false
  dst : RegKind := 0
  sa : RegKind := 0
  sb : RegKind := 0
  sc : RegKind := 0
  fmt : Nat := 0
  cvt : Bool := false
  w : Nat := 0
  imm : ImmUse := .zero
  stat : Bool := false
deriving DecidableEq, Repr

/-- Class 0x0. -/
def useScalar (opc : Nat) : Option Use :=
  if opc ≤ 0x0D || opc = 0x10 || opc = 0x11 then some { dst := 1, sa := 1, sb := 1, w := 1, imm := .byW }
  else if opc = 0x0E || opc = 0x0F then some { dst := 1, imm := .any }
  else if opc = 0x12 || opc = 0x13 then some { dst := 1, sa := 1 }
  else none

/-- Class 0x1. -/
def useAddress (opc : Nat) : Option Use :=
  if opc ≤ 0x01 then some { dst := 1, sa := 1, w := 2, imm := .any }
  else if opc = 0x02 then some { sa := 1, sb := 1, w := 2, imm := .any }
  else if opc = 0x03 then some { dst := 2, sa := 1, imm := .any }
  else if opc = 0x04 || opc = 0x05 then some { sa := 1, sb := 2, imm := .any }
  else if opc = 0x06 then some { dst := 1, imm := .below 28 }
  else if opc = 0x07 then some { sb := 1, imm := .below 4 }
  else none

/-- Class 0x2. -/
def useTile (opc : Nat) : Option Use :=
  if opc = 0x00 then some { dst := 1, sa := 1 }
  else if opc = 0x01 then some { t := true, dst := 1, fmt := 2 }
  else if opc = 0x02 then some { sa := 1, sb := 1 }
  else if opc = 0x03 then some { sa := 1 }
  else if opc = 0x04 then some { t := true, dst := 2, sa := 1, imm := .below 32 }
  else if opc = 0x05 then some { t := true, sa := 1, sb := 2, imm := .below 32 }
  else if opc = 0x06 || opc = 0x07 then some { dst := 1, sa := 1 }
  else if opc = 0x08 then some { t := true, dst := 1, sa := 1, fmt := 2, cvt := true }
  else none

/-- Class 0x3. -/
def useMatrix (opc : Nat) : Option Use :=
  if opc = 0x00 then some { t := true, sa := 1, imm := .below 4, stat := true }
  else if opc = 0x01 then some { t := true, dst := 4, sa := 2, fmt := 1, imm := .offsetL, stat := true }
  else if opc = 0x02 then some { t := true, dst := 4, sa := 1, sb := 2, fmt := 1, imm := .lOnly }
  else if opc ≤ 0x07 then some { t := true, dst := 2, sa := 2, sb := 2, fmt := 1, cvt := true }
  else if opc = 0x08 then some { t := true, dst := 2, sa := 2, sb := 2, sc := 2, fmt := 1, cvt := true }
  else if opc = 0x09 then some { t := true, dst := 2, sa := 2, fmt := 1, cvt := true, imm := .srcFmt }
  else if opc = 0x0A then some { t := true, dst := 2, sa := 1, fmt := 1 }
  else if opc = 0x0B then some { t := true, dst := 1, sa := 2, fmt := 1, imm := .any }
  else if opc = 0x0C then some { t := true, dst := 2, sa := 1, fmt := 1, imm := .any }
  else none

/-- Class 0x4. -/
def useReduce (opc : Nat) : Option Use :=
  if opc = 0x00 then some { dst := 4 }
  else if opc = 0x01 then some { t := true, dst := 2, sa := 4, fmt := 1, cvt := true }
  else if opc = 0x02 then some { t := true, dst := 4, sa := 2, fmt := 1, imm := .offsetL }
  else if opc = 0x03 then some { dst := 4, sa := 4 }
  else if opc = 0x04 then some { t := true, sa := 4, sb := 1, imm := .below 21 }
  else if opc = 0x05 then some { t := true, dst := 4, sa := 1, imm := .below 21 }
  else if opc = 0x06 then some { sa := 4, sb := 1 }
  else none

/-- Class 0x5. -/
def useCompare (opc : Nat) : Option Use :=
  if opc ≤ 0x05 then some { dst := 3, sa := 1, sb := 1, w := 1, imm := .byW }
  else if opc = 0x06 then some { dst := 1, sa := 1, sb := 1, imm := .below 8 }
  else if opc ≤ 0x09 then some { dst := 3, sa := 3, sb := 3 }
  else if opc = 0x0A then some { dst := 3, sa := 3 }
  else if opc = 0x10 || opc = 0x11 then some { t := true, dst := 2, sa := 2, sb := 2, fmt := 1 }
  else if opc = 0x12 then some { dst := 2, sa := 2, sb := 2, sc := 2, imm := .onlySc }
  else if opc = 0x13 then some { dst := 3, sa := 2 }
  else none

/-- Class 0x6. -/
def useAtomic (opc : Nat) : Option Use :=
  if opc ≤ 0x08 then some { dst := 1, sa := 1, sb := 1, w := 3, imm := .any }
  else if opc = 0x09 then some { t := true, dst := 1, sa := 1, sb := 1, sc := 1, w := 3, imm := .any }
  else if opc = 0x0A then some { dst := 1, sa := 1, sb := 1, w := 4, imm := .any }
  else none

/-- Class 0x7. -/
def useFlag (opc : Nat) : Option Use :=
  if opc = 0x00 then some { dst := 1, sa := 1, imm := .below 8 }
  else if opc = 0x01 then some { sa := 1, imm := .below 8 }
  else if opc = 0x02 then some { dst := 1, imm := .below 8 }
  else if opc = 0x03 then some { t := true, dst := 3, sa := 1, sb := 1, imm := .any }
  else if opc = 0x04 then some { dst := 1, sa := 1, sb := 1, imm := .below 256 }
  else none

/-- Class 0x8. -/
def useSearch (opc : Nat) : Option Use :=
  if opc ≤ 0x02 then some { t := true, dst := 1, sa := 1, sb := 1 }
  else if opc = 0x03 then some { dst := 1, sa := 1 }
  else if opc = 0x04 then some { t := true, dst := 2, sa := 1, sb := 1 }
  else none

/-- Class 0x9. -/
def useEmbed (opc : Nat) : Option Use :=
  if opc = 0x00 then some { t := true, dst := 1, sa := 1, sb := 1, sc := 1 }
  else if opc = 0x01 then some { dst := 1, sa := 1, sb := 1 }
  else if opc = 0x02 then some { dst := 1, sa := 1 }
  else if opc = 0x03 then some { dst := 1 }
  else if opc = 0x04 then some { t := true, sa := 1, sb := 1, sc := 1, imm := .any }
  else none

/-- Class 0xA. -/
def useControl (opc : Nat) : Option Use :=
  if opc = 0x00 then some { imm := .any }
  else if opc = 0x01 || opc = 0x03 then some { dst := 1, imm := .any }
  else if opc = 0x02 then some { sa := 1 }
  else if opc = 0x04 then some {}
  else if opc = 0x05 || opc = 0x06 then some { imm := .below 256 }
  else if opc = 0x07 || opc = 0x08 then some { dst := 1 }
  else none

/-- Class 0xB. -/
def useFence (opc : Nat) : Option Use :=
  if opc = 0x00 then some { dst := 1 } else if opc = 0x01 then some { dst := 1, sa := 1 } else none

/-- What an instruction uses: none where no table lists its CLASS and OPC (R114). -/
def useOf (cls opc : Nat) : Option Use :=
  match cls with
  | 0x0 => useScalar opc
  | 0x1 => useAddress opc
  | 0x2 => useTile opc
  | 0x3 => useMatrix opc
  | 0x4 => useReduce opc
  | 0x5 => useCompare opc
  | 0x6 => useAtomic opc
  | 0x7 => useFlag opc
  | 0x8 => useSearch opc
  | 0x9 => useEmbed opc
  | 0xA => useControl opc
  | 0xB => useFence opc
  | _ => none

/-! ## Checks of one word (R130) -/

/-- A register field of a kind: zero where unused, a register that the thread has otherwise. -/
def regFieldOk (k : RegKind) (accs r : Nat) : Bool :=
  match k with
  | 0 => r = 0
  | 1 => true
  | 2 => r < 8
  | 3 => r < 8
  | _ => r < accs

/-- The W field as the instruction uses it. -/
def wFieldOk (k w : Nat) : Bool :=
  match k with
  | 0 => w = 0
  | 1 => w ≤ 1
  | 2 => true
  | 3 => 2 ≤ w
  | _ => w = 2

/-- A format code among those an instruction takes: `hi` is the last. -/
def fmtCode (hi f : Nat) : Option Nat := if 9 < f then some stUnsupported else if hi < f then some stMalformed else none

/-- The fields of a word that only one form has. -/
def formFieldsOk (u : Use) (accs : Nat) (w : BitVec 64) : Bool :=
  let i := wImm19 w
  if u.t then
    regFieldOk u.sc accs (wSc w) && (u.fmt ≠ 0 || wFmt w = 0) && (if u.cvt then cvtOk (wCvt w) && wCvt w < 8 else wCvt w = 0) &&
      (match u.imm with
      | .any => true
      | .below n => i < n
      | .lOnly => i % 2 ^ 18 = 0
      | .offsetL => fld i 9 9 = 0 && (4 < wFmt w || fld i 0 9 + 64 ≤ vLen (wFmt w))
      | .srcFmt => i < 16
      | _ => i = 0)
  else match u.imm with
    | .any => true
    | .byW => wW w = 1 || wImm w = 0
    | .below n => wImm w < n
    | .onlySc => wSc w < 8 && wImm w % 2 ^ 27 = 0
    | _ => wImm w = 0

/-- Check 5: reserved fields, register numbers, formats and conversions, element offsets. -/
def wordStatus (accs stat : Nat) (w : BitVec 64) : Option Nat :=
  match useOf (wCls w) (wOpc w) with
  | none => none
  | some u =>
    firstOf [need ((wGe w || (!wGn w && wGp w = 0)) && regFieldOk u.dst accs (wDst w) && regFieldOk u.sa accs (wSa w) &&
        regFieldOk u.sb accs (wSb w) && (u.w ≠ 1 || wW w = 0 || wSb w = 0) && wFieldOk u.w (wW w) && formFieldsOk u accs w &&
        (!u.stat || stat = 1)),
      (match u.fmt with
        | 0 => none
        | 1 => fmtCode 4 (wFmt w)
        | _ => fmtCode 9 (wFmt w)),
      if u.imm = .srcFmt then fmtCode 4 (wImm19 w % 16) else none]

/-- Check 6: the target of BR, JAL and LOOP lies in the code. -/
def targetStatus (n i : Nat) (w : BitVec 64) : Option Nat :=
  let t : Int := (i : Int) + (wSext w).toInt
  if wCls w = 0xA && (wOpc w = 0 || wOpc w = 1 || wOpc w = 3) then need (0 ≤ t && t < n) else none

/-- Check 7: EXIT's and TRAP's status. -/
def exitStatus (w : BitVec 64) : Option Nat :=
  let v := wImm w % 256
  if wCls w = 0xA && wOpc w = 5 then need (v = 0 || v = 0x0D || inRange 0x80 0xEF v)
  else if wCls w = 0xA && wOpc w = 6 then need (inRange 0xC0 0xEF v)
  else none

/-- Check 8: the functions that the helper classes need. -/
def functionStatus (s : State) (job : Nat) (w : BitVec 64) : Option Nat :=
  if wCls w = 8 && !funcEnabled s job fnSearch then some stDisabled
  else if wCls w = 9 && !funcEnabled s job fnEmbed then some stDisabled
  else none

/-- The first word that a check fails, by index, with the status. -/
def firstBad (f : Nat → BitVec 64 → Option Nat) (ws : List (BitVec 64)) : Option (Nat × Nat) :=
  (List.zip (List.range ws.length) ws).findSome? fun x => (f x.1 x.2).map fun st => (st, x.1)

/-! ## The object -/

/-- The header's fields. -/
structure CodeHead where
  threads : Nat := 0
  accs : Nat := 0
  stat : Nat := 0
  scratch : Nat := 0
  words : Nat := 0
  entry : Nat := 0
  classes : Nat := 0
  crc : Nat := 0
deriving DecidableEq, Repr

/-- The header from its bytes (R128). -/
def codeHead (bs : List Byte) : CodeHead :=
  let n := leNat bs
  { threads := fld n 16 9, accs := fld n 32 3, stat := fld n 35 1, scratch := fld n 40 7, words := fld n 64 15,
    entry := fld n 80 15, classes := fld n 96 12, crc := fld n 128 32 }

/-- Check 2: every field in its range and within the seat. -/
def headOk (it : Item) (h : CodeHead) : Bool :=
  inRange 1 256 h.threads && h.accs ≤ 4 && h.scratch ≤ 64 && inRange 1 32760 h.words && h.entry < h.words &&
    h.threads * h.accs ≤ 128 && h.threads * h.stat ≤ 16 && h.threads ≤ it.crew && h.accs ≤ it.accs && h.stat ≤ it.stat &&
    h.scratch ≤ it.scratch && codeTilesOf h.words ≤ it.codeTiles

/-- The item fails validation (R130): check number and word index. -/
def failCheck (s : State) (i : ItemId) (st check word : Nat) : Ans :=
  failItem s i { detail := check, opResult := word } st

/-- Checks 4 to 8, in order: the check, its status and the word. -/
def codeBad (s : State) (it : Item) (h : CodeHead) (ws : List (BitVec 64)) : Option (Nat × Nat × Nat) :=
  firstOf [
    (firstBad (fun _ w => need ((useOf (wCls w) (wOpc w)).isSome && tbit h.classes (wCls w))) ws).map fun x => (4, x),
    (firstBad (fun _ w => wordStatus h.accs h.stat w) ws).map fun x => (5, x),
    (firstBad (targetStatus h.words) ws).map fun x => (6, x),
    (firstBad (fun _ w => exitStatus w) ws).map fun x => (7, x),
    (firstBad (fun _ w => functionStatus s it.job w) ws).map fun x => (8, x)]

/-- The item holds a valid object (R129): its copy of the code, its word of entry, and what the header asks of its seat. -/
def holdCode (s : State) (i : ItemId) (h : CodeHead) (ws : List (BitVec 64)) : State :=
  onItem s i fun it => { it with
    crew := h.threads, accs := h.accs, stat := h.stat, scratch := h.scratch, codeTiles := codeTilesOf h.words
    code := some ws, base := h.entry, crc := h.crc }

/-- KERNEL_CODE_READ (R129, R130): the code object is read once and validated; the crew then runs on that copy. -/
def execKernelCodeRead (i : ItemId) (s : State) : Ans :=
  opRun s i 0x70 fun it =>
    if it.code.isSome then notEnabled s
    else
      let base := opFld it 256 64
      let (s1, g) := readJva s i 0 3 base 64
      onGotI s1 i {} base g fun (hb, hs) =>
        let h := codeHead hb
        let n := leNat hb
        let header := 2 ^ 64 - 1
        match descStatus (fld n 0 4) (fld n 4 4) 1 with
        | some st => failCheck s1 i st 1 header
        | none =>
          if !headOk it h then failCheck s1 i stMalformed 2 header
          else
            let (s2, g2) := readJva s1 i 0 3 (base + 64) (8 * h.words)
            onGotI s2 i {} base g2 fun (cb, cs) =>
              let s3 := chargeReads (chargeReads s2 i hs) i cs
              if crc32c cb ≠ h.crc then failCheck s3 i stMalformed 3 header
              else
                let ws := (chunks 8 h.words cb).map fun x => BitVec.ofNat 64 (leNat x)
                match codeBad s3 it h ws with
                | some (c, st, k) => failCheck s3 i st c k
                | none => .next (holdCode s3 i h ws)

end Sys2Proof.Machine
end

