-- ==== Sys2Proof/Machine/Finish.lean ====
section
/-! DEFINITION. How a TAKEN item ends (R100, R102, R105, R107, R133, R136), moves between Stoves (R103), and the scheduler's other
events (R89, R96). -/

namespace Sys2Proof.Machine

/-- Some request that the item issued is not acknowledged and has not exhausted its retries. -/
def itemBusy (s : State) (i : ItemId) : Bool :=
  outstanding s fun x => match x with
    | .line j _ => j = i
    | .store t => t.item = i
    | .reply t => t.item = i
    | .itemStore j => j = i
    | .publish j => j = i
    | _ => false

/-- Status of a crew whose threads have all exited (R133): the first proposed other than OK. -/
def exitStatusOf (it : Item) : Nat := (it.exits.find? (· ≠ stOk)).getD stOk

/-- How an item has ended, where it has: its result, or every thread has exited (R133). A tile taken from a shadow turns OK into
DEGRADED (R62). -/
def outcomeOf (it : Item) : Option Result :=
  let degrade (r : Result) : Result := if r.status = stOk && it.shadowCnt ≠ 0 then { r with status := stDegraded } else r
  match it.result with
  | some r => some (degrade r)
  | none => if it.validated && it.exits.length = it.crew then some (degrade { status := exitStatusOf it }) else none

/-- The statuses that complete with DONE (R100, R134). -/
def isSuccess (st : Nat) : Bool := st = stOk || st = stDegraded || st = stShort || inRange 0x80 0xBF st

/-- The fault fields of the result area, as its words 2 and 3 (R136). -/
def faultBytes (r : Result) : List Byte := natLe 8 r.faultJva ++ natLe 2 r.faultPc ++ natLe 1 r.faultThread ++ natLe 5 0

/-- The result area (R136): the standard layout, or the RESW words of a kernel that ran, of which a fault overwrites two. -/
def resultArea (it : Item) (r : Result) : List Byte :=
  if it.validated then
    let w := fun k => natLe 8 (tget 0 it.resw k).toNat
    w 0 ++ w 1 ++ (if it.result.isSome then faultBytes r else w 2 ++ w 3)
  else natLe 4 r.count ++ natLe 4 r.detail ++ natLe 8 r.opResult ++ faultBytes r

/-- The pin counter that the item raised loses 1 (R147): the state, and whether the descriptor's line was ready. -/
def unpin (s : State) (it : Item) : State × Bool :=
  match it.pin with
  | none => (s, true)
  | some (a, odd) =>
    let l := lineOf a
    match prepRead s l with
    | (s1, false) => (s1, false)
    | (s1, true) =>
      match prepWrite s1 l false with
      | (s2, false) => (s2, false)
      | (s2, true) =>
        if isPoisoned s2 l then (s2, true)
        else
          let bs := lineBytes s2 l
          let o := if odd then 60 else 56
          (applyWrite s2 l (overlay bs o (natLe 4 (leAt bs o 4 - 1))) false, true)

/-- An item is released: its watches, borrowed copies and seat are gone, and what its crew used is metered (R58, R448). -/
def releaseItem (s : State) (it : Item) : State :=
  let s1 := forAll (upTo it.crew fun n => n) (fun s n => onHome s fun h => { h with
    slices := tmapAll {} (fun x => { x with watches := x.watches.filter (·.2 ≠ { item := it.id, n := n }) }) h.slices }) s
  let s2 := onT0 s1 fun t => { t with
    slices := tmapAll {} (fun x => { x with borrowed := x.borrowed.filter fun b => !(b.item = it.id && !b.version) }) t.slices }
  let s3 := meter (bump s2 1) it.job 4 (it.crew * (Config.stoveClocks s2.draws).toNat)
  let s4 := meter s3 it.job 8 it.shadowCnt
  onStv s4 fun x => { x with items := x.items.filter (·.id ≠ it.id) }

/-- A completion whose generation or placement no longer matches is dropped and counted (R105). -/
def lateDrop (s : State) (it : Item) : State :=
  onWin s it.ctx fun w => { w with late := satInc 32 w.late, changed := true }

/-- The slot still holds the item's generation and placement (R92). -/
def placeMatches (s : State) (w : Win) (it : Item) : Bool :=
  slotNat s w it.slot 4 4 = it.gen && slotNat s w it.slot 22 2 = it.place

/-- The codes that PQ_SCAN scored (R448). -/
def meterCodes (s : State) (it : Item) (r : Result) : State := if it.op = 0x31 then meter s it.job 5 r.opResult else s

/-- The final flag of an item written, its pin gone, and the item released. -/
def endFlag (s : State) (it : Item) (w : Win) (st end_ shadow flag : Nat) : State :=
  match unpin s it with
  | (s1, false) => s1
  | (s1, true) =>
    let s2 := finishFlag s1 w it.slot st end_ shadow flag
    settle (releaseItem (meter s2 it.job 10 1) it)

/-- The completion's writes in their order (R100): the result area, the header, the flag. -/
def completeItem (s : State) (it : Item) (w : Win) (r : Result) : State :=
  let a := slotLpa w it.slot + 224
  match prepWrite s (lineOf a) false with
  | (s1, false) => s1
  | (s1, true) =>
    match unpin s1 it with
    | (s2, false) => s2
    | (s2, true) =>
      let s3 := if isPoisoned s2 (lineOf a) then s2 else devStore s2 a (resultArea it r) false
      endFlag (meterCodes s3 it r) { it with pin := none } w r.status 0 (min it.shadowCnt 65535) (if isSuccess r.status then 3 else 4)

/-- ITEM_COMPLETE (R100): the item has its outcome and none of its requests is under way. Over TAKEN it completes; over CANCEL the
cancel has come first (R106); any other flag takes nothing, and a slot of another generation or placement counts a late drop
(R105). -/
def execItemComplete (i : ItemId) (s : State) : Ans :=
  match itemOf s i with
  | none => notEnabled s
  | some it =>
    match outcomeOf it, (ctxOf s it.ctx).win with
    | some r, some w =>
      if it.cancelled || itemBusy s i then notEnabled s
      else
        match flagReady s w it.slot with
        | (s1, false) => .next s1
        | (s1, true) =>
          let fl := slotFlag s1 w it.slot
          if !placeMatches s1 w it then .next (settle (releaseItem (lateDrop s1 it) it))
          else if fl = 2 then .next (completeItem s1 it w r)
          else if fl = 5 then .next (onItem s1 i fun x => { x with cancelled := true })
          else .next (settle (releaseItem s1 it))
    | _, _ => notEnabled s

/-- CANCEL_DRAIN_DONE (R102, R107): every request of a stopped item is acknowledged or has exhausted its retries. Its flag becomes
FAILED with UNKNOWN_OUTCOME, unless it stopped with its window. -/
def execCancelDrainDone (i : ItemId) (s : State) : Ans :=
  match itemOf s i with
  | none => notEnabled s
  | some it =>
    if !it.cancelled || itemBusy s i then notEnabled s
    else match it.noFlag, (ctxOf s it.ctx).win with
      | false, some w =>
        (match flagReady s w it.slot with
        | (s1, false) => .next s1
        | (s1, true) =>
          if !placeMatches s1 w it then .next (settle (releaseItem (lateDrop s1 it) it))
          else if slotFlag s1 w it.slot = 5 then
            match unpin s1 it with
            | (s2, false) => .next s2
            | (s2, true) =>
              let s3 := onWin s2 it.ctx fun x => { x with cancels := satInc 32 x.cancels, changed := true }
              .next (endFlag s3 { it with pin := none } w stUnknown 2 (min it.shadowCnt 65535) 4)
          else .next (settle (releaseItem s1 it)))
      | _, _ =>
        match unpin s it with
        | (s1, false) => .next s1
        | (s1, true) => .next (settle (releaseItem s1 it))

/-! ## Moves between Stoves -/

/-- A handle as it stands in another Hearth: a home copy is fetched again, as a borrowed copy (R132). -/
def handleMoved (s : State) (h : Handle) : Handle :=
  match h.kind with
  | .home t => { h with kind := .borrowed, data := { tag := tagCode s t, cells := cellsOf (readBytes s (t * 16384) 16384) } }
  | _ => h

/-- The item's state in another Hearth (R132): its borrowed copies go with it, and the tiles that it held at home are borrowed. -/
def moveHearth (s : State) (it : Item) (dst : Nat) : State :=
  if it.hearth = dst then s
  else
    let own := fun (b : Borrow) => b.item = it.id
    let there := (t0Slice s it.hearth).borrowed.filter own
    let held := (it.threads.flatMap fun e => (e.2.handles.filter fun h => match h.kind with | .home _ => true | _ => false).map fun h =>
      ({ jva := h.jva / 16384, job := it.job, item := it.id } : Borrow)).eraseDups
    let s1 := onT0Slice s it.hearth fun x => { x with borrowed := x.borrowed.filter fun b => !own b }
    let s2 := onT0Slice s1 dst fun x => { x with borrowed := x.borrowed ++ there ++ held.filter fun b => !there.contains b }
    onItem s2 it.id fun x => { x with
      threads := tmapAll {} (fun th => { th with handles := th.handles.map (handleMoved s) }) x.threads }

/-- ITEM_MOVE (R103): the item goes on as it stands on a Stove of this module that can seat it, its placement number one higher in
the item and in the slot. -/
def execItemMove (i : ItemId) (stove : Nat) (s : State) : Ans :=
  match itemOf s i with
  | none => notEnabled s
  | some it =>
    let seat : Seat := { crew := it.crew, accs := it.accs, stat := it.stat, scratch := it.scratch, code := it.codeTiles }
    let others := onStv s fun x => { x with items := x.items.filter (·.id ≠ i) }
    if 32 ≤ stove || stove = it.stove || it.cancelled || !fits others stove seat || !s.pwr.domains.getLsbD (stove / 4) then notEnabled s
    else match (ctxOf s it.ctx).win with
      | none => notEnabled s
      | some w =>
        match flagReady s w it.slot with
        | (s1, false) => .next s1
        | (s1, true) =>
          if slotFlag s1 w it.slot ≠ 2 || !placeMatches s1 w it || isPoisoned s1 (lineOf (slotLpa w it.slot)) then notEnabled s1
          else
            let s2 := devStore s1 (slotLpa w it.slot + 22) (natLe 2 (it.place + 1)) false
            let s3 := moveHearth s2 it (stove / 4)
            .next (onItem s3 i fun x => { x with
              stove := stove, hearth := stove / 4, place := (it.place + 1) % 65536 })

/-! ## The scheduler's domain, the window's counters -/

/-- STOVE_DOMAIN_POWERED (R96, R405): a Stove power domain that a post woke is up again, while its Hearth's domain is powered. -/
def execStoveDomainPowered (h : Nat) (s : State) : Ans :=
  if (tget none s.pwr.returning h).isSome && h < 8 && s.pwr.domains.getLsbD (8 + h) && s.pwr.state = 0 then
    .next (onPwr s fun p => { p with
      returning := tput none p.returning h none, domains := p.domains ||| BitVec.ofNat 30 (2 ^ h) })
  else notEnabled s

/-- WINDOW_COUNTER_UPDATE (R89): counters that changed are written, at most once every 1,024 pt. -/
def execWindowCounterUpdate (ctx : Nat) (s : State) : Ans :=
  match (ctxOf s ctx).win with
  | none => notEnabled s
  | some w =>
    if w.state = 1 && w.changed && w.lastPt + 1024 ≤ s.clk.pilot then
      .next (onWin (writeWinHeader s w 1 0) ctx fun x => { x with changed := false, lastPt := s.clk.pilot })
    else notEnabled s

end Sys2Proof.Machine
end

