-- ==== Sys2Proof/Machine/MgmtRows.lean ====
section
/-! DEFINITION. MGMT_READ and MGMT_WRITE (R223), and the operations that a write of a control asks for: change buffers (R391, R392, R398,
R403) and cursors (R439). The command of an MGMT frame is the one its operation names; a frame of another has no effect (log 16). -/

namespace Sys2Proof.Machine

/-! ## The frame (R223) -/

/-- Offset in the management space. -/
def mgmtOff (f : Frame) : Nat := fld f.opa.toNat 0 24

/-- Length in bytes. -/
def mgmtLen (f : Frame) : Nat := fld f.opa.toNat 24 11

/-- The block of R224 that holds an offset: 0 identity, 1 status, 2 counters, 3 change intake, 4 Ashpit window and so on; 9 past the end. -/
def spaceBlock (o : Nat) : Nat :=
  if o < 0x10000 then 0 else if o < 0x700000 then o / 0x100000 + 1 else if o < 0x1000000 then 8 else 9

/-- The requester on a service Flue (R392). -/
def requester (a : Arrival) : Claimant := { flue := a.link - 96, ip := a.ip, port := a.port }

/-- The frame keeps R223's form: alignment, length, one block, and for a write LEN. -/
def mgmtFormed (f : Frame) : Bool :=
  let o := mgmtOff f
  let n := mgmtLen f
  o % 4 = 0 && n % 4 = 0 && 4 ≤ n && n ≤ 1024 && spaceBlock o = spaceBlock (o + n - 1) &&
    (f.typ ≠ tMgmtWrite || f.len = n)

/-- An MGMT read before Ready is answered in the identity and status blocks; on a device stopped at step 3 or 4 the image shadow reads
zeros (R223, R376, R382). -/
def readableEarly (s : State) (o : Nat) : Bool :=
  spaceBlock o ≤ 1 || (spaceBlock o = 5 && s.boot.phase = 12 && (s.boot.failStep = 3 || s.boot.failStep = 4))

/-- An MGMT frame meets its checks (R198 to R203, R207, R223, R252, R382, R412): none where it is discarded or answered here. -/
def arriveMgmt (s : State) (a : Arrival) (f : Frame) : State × Option Req :=
  let l := a.link
  let r : Req := { a := a, f := f }
  if !(linkOf s l).up then (s, none)
  else
    let s := countLink s l 1
    if !isService l && (linkOf s l).hello.isNone then (countDiscard s 5, none)
    else if f.len ≠ f.payload.length || payloadLimit s l < f.len then (turnAway (countDiscard s 4) r stMalformed, none)
    else if s.cfg.hopsMax ≤ f.hops then (countLink s l 8, none)
    else
      match headStatus s l f with
      | some st => (turnAway s r st, none)
      | none =>
        if !legOk s l f then (turnAway s r stDenied, none)
        else if !atReady s && (f.typ = tMgmtWrite || !readableEarly s (mgmtOff f)) then (turnAway s r stNotReady, none)
        else if s.pwr.state ≠ 0 then (turnAway s r stBusy, none)
        else
          match police s a f with
          | (s1, true) => (turnAway s1 r stBusy, none)
          | (s1, false) =>
            if !mgmtFormed f then (turnAway s1 r stMalformed, none)
            else if f.typ = tMgmtWrite && spaceBlock (mgmtOff f) ≠ 3 then (turnAway s1 r stDenied, none)
            else (s1, some r)

/-! ## Reads -/

/-- A read answered with what the space holds (R223, R224). -/
def answerRead (s : State) (r : Req) : State :=
  let (s1, bs) := readSpace s (mgmtOff r.f) (mgmtLen r.f)
  sendResponse s1 r { payload := bs }

/-- A read of the kind that a row carries. -/
def mgmtReadOf (mine : Bool) (s : State) (a : Arrival) (f : Frame) : Ans :=
  if f.typ ≠ tMgmtRead || !mine then notEnabled s
  else match arriveMgmt s a f with
    | (s1, none) => .next s1
    | (s1, some r) => .next (answerRead s1 r)

/-- MGMT_READ (R223): every block but the Ashpit window. -/
def execMgmtRead (a : Arrival) (f : Frame) (s : State) : Ans := mgmtReadOf (spaceBlock (mgmtOff f) ≠ 4) s a f

/-- ASH_WINDOW_READ (R438). -/
def execAshWindowRead (a : Arrival) (f : Frame) (s : State) : Ans := mgmtReadOf (spaceBlock (mgmtOff f) = 4) s a f

/-! ## What a write covers -/

/-- Bytes of a write that fall on `n` bytes from `base`, each with its place there. -/
def writtenIn (o : Nat) (bs : List Byte) (base n : Nat) : List (Nat × Byte) :=
  (List.range bs.length).filterMap fun i =>
    if base ≤ o + i && o + i < base + n then some (o + i - base, nth 0 bs i) else none

/-- The operation written to the control at `base`; 0 where its first byte is not written. -/
def opWritten (o : Nat) (bs : List Byte) (base : Nat) : Nat :=
  match (writtenIn o bs base 1) with | (_, x) :: _ => x.toNat % 16 | [] => 0

/-- First byte of a buffer's control, of its data area, and of a cursor's control (R391). -/
def bufBase (b : Nat) : Nat := 0x200100 + 0x40 * b
def dataBase (b : Nat) : Nat := 0x210000 + 0x4000 * b
def cursorBase (c : Nat) : Nat := 0x230000 + 0x40 * c

/-- An operation: on a cursor or on a buffer, which one, and its code. -/
structure MgmtOp where
  cursor : Bool
  index : Nat
  op : Nat
deriving DecidableEq, Repr

/-- The first operation that a write asks for. -/
def firstOp (f : Frame) : Option MgmtOp :=
  let o := mgmtOff f
  let b := (upTo 4 fun k => ({ cursor := false, index := k, op := opWritten o f.payload (bufBase k) } : MgmtOp)).filter fun x => 1 ≤ x.op && x.op ≤ 5
  let c := (upTo 8 fun k => ({ cursor := true, index := k, op := opWritten o f.payload (cursorBase k) } : MgmtOp)).filter fun x => 1 ≤ x.op && x.op ≤ 3
  (b ++ c).head?

/-! ## Buffer operations -/

/-- A buffer freed (R392): its control reads as at first, its data area stays as written, and its image session is abandoned. -/
def freeBuf (s : State) (b : Nat) : State :=
  onAuth s fun x => { x with
    bufs := tmod {} x.bufs b fun y => { data := y.data }
    drains := x.drains.map fun d => if d.1 = b then (4, d.2) else d }

/-- The attestation report (R403), 512 bytes. -/
def attestReport (s : State) (nonce : List Byte) : List Byte :=
  let x := s.fuse.a
  let n := 2 + 0xF * 2 ^ 4 + 0x2032 * 2 ^ 16 + s.boot.stepping % 16 * 2 ^ 32 + fuseFld s.boot.idn 0 128 * 2 ^ 64 + leNat (byteSlice nonce 0 32) * 2 ^ 192 +
    s.boot.imgHash * 2 ^ 448 + s.boot.imgVersion % 2 ^ 32 * 2 ^ 704 + s.boot.imgRollback % 128 * 2 ^ 736 + b2n s.boot.slot * 2 ^ 743 +
    fuseRollback x * 2 ^ 744 + b2n s.boot.fallback * 2 ^ 751 + fuseFld x 1152 4 * 2 ^ 752 + fuseFld x 1156 4 * 2 ^ 756 + fuseFld x 1160 2 * 2 ^ 760 +
    fuseFld x 1280 128 * 2 ^ 768 + leNat ((List.range 4).flatMap fun k => natLe 8 (tget 0 s.auth.lastSeq k)) * 2 ^ 896 +
    s.boot.device % 2 ^ 14 * 2 ^ 1152 + s.boot.cell % 2 ^ 12 * 2 ^ 1166 + s.boot.pos % 64 * 2 ^ 1178 + idnRole s * 2 ^ 1184 +
    s.boot.phase % 16 * 2 ^ 1186 + s.clk.opSec % 2 ^ 64 * 2 ^ 1216 + s.clk.pcycles % 2 ^ 32 * 2 ^ 1280 + s.auth.funcs % 128 * 2 ^ 1312 +
    s.auth.applied % 2 ^ 64 * 2 ^ 1344 +
    leNat (sha256 ((List.range 16384).flatMap fun i => natLe 64 (tget 0 s.trn.jobs i).toNat)) * 2 ^ 1408
  natLe 512 n

/-- ATTEST on a claimed buffer (R403): the report and its signature over the data area. -/
def attestBuf (s : State) (b : Nat) : State :=
  let bs := attestReport s (bufData s b 32)
  let all := bs ++ natLe 384 (Config.attestSign bs)
  onBuf s b fun x => { x with data := forAll (List.range 896) (fun t i => tput 0 t i (nth 0 all i)) x.data }

/-- IMAGE_END on an image session (R398): the slot's hash and then its checks; a bad image loses its first 4 KiB. -/
def endImage (s : State) (b : Nat) (x : Session) : State :=
  let base := slotBase x.slot
  let c := imageCheck s base
  if leNat (sha256 (imgBytes s base x.len)) = x.hash && c = 0 then onBuf s b fun y => { y with state := 4, session := none }
  else
    let s1 := onBoot s fun z => { z with nvm := tdropRange z.nvm base (base + 4096) }
    onBuf s1 b fun y => { y with state := 5, result := 0x0D, check := c, session := none }

/-- An operation on a buffer by its claimant, or on a free one (R392). An operation that the buffer's state does not admit is ignored. -/
def bufOp (s : State) (who : Claimant) (b op : Nat) : State :=
  let x := bufOf s b
  if op = 1 then
    (if x.state = 0 then onBuf s b fun y => { y with state := 1, who := who, lastPt := s.clk.pilot } else s)
  else if op = 2 then
    (if x.state = 1 then
      nextRecord 8 (onAuth (onBuf s b fun y => { y with state := 2 }) fun a => { a with waiting := a.waiting ++ [b] })
     else s)
  else if op = 3 then (if x.state = 1 || x.state = 4 || x.state = 5 then freeBuf s b else s)
  else if op = 4 then (if x.state = 1 then attestBuf s b else s)
  else if op = 5 then
    (match x.session with
     | some y => if x.state = 6 then endImage s b y else s
     | none => s)
  else s

/-! ## Cursor operations (R439) -/

/-- A cursor changed. -/
def onCursor (s : State) (c : Nat) (f : Cursor → Cursor) : State :=
  onAsh s fun a => { a with cursors := tmod {} a.cursors c f }

/-- The bases as a write lays them over those a cursor has. -/
def withBases (x : Cursor) (new : List (Nat × Byte)) : Cursor :=
  let old := natLe 8 0 ++ natLe 8 x.ashBase ++ natLe 8 x.mtrBase
  let bs := forAll new (fun (l : List Byte) e => if e.1 < 24 then overlay l e.1 [e.2] else l) old
  { x with ashBase := leAt bs 8 8, mtrBase := leAt bs 16 8 % 2 ^ 14 }

/-- An operation on a cursor. -/
def cursorOp (s : State) (who : Claimant) (c op : Nat) (new : List (Nat × Byte)) : State :=
  let x := cursorOf s c
  if op = 1 then
    (if x.held then s else onCursor s c fun y => { withBases y new with
      held := true
      who := who
      lastPt := s.clk.pilot })
  else if op = 2 then (if x.held then onCursor s c fun y => withBases y new else s)
  else if op = 3 then onCursor s c fun _ => {}
  else s

/-! ## Writes -/

/-- A write touches something that another requester has claimed (R392), or moves or frees a cursor of another (R439). -/
def writeDenied (s : State) (who : Claimant) (o : Nat) (bs : List Byte) : Bool :=
  let other := fun b => (bufOf s b).state ≠ 0 && (bufOf s b).who ≠ who
  (List.range 4).any (fun b => other b && (!(writtenIn o bs (bufBase b) 64).isEmpty || !(writtenIn o bs (dataBase b) 0x4000).isEmpty)) ||
  (!(writtenIn o bs 0x220000 0x10000).isEmpty && match sessionBuf s with | some b => other b | none => false) ||
  (List.range 8).any fun c =>
    let op := opWritten o bs (cursorBase c)
    (op = 2 || op = 3) && !((cursorOf s c).held && (cursorOf s c).who = who)

/-- IMG_WIN as a write leaves it. -/
def withImgWin (w : Nat) (new : List (Nat × Byte)) : Nat :=
  let bs := forAll new (fun (l : List Byte) e => if e.1 = 32 || e.1 = 33 then overlay l (e.1 - 32) [e.2] else l) (natLe 2 w)
  leNat bs % 512

/-- A write to one buffer's data area and control, its operation last; a write keeps the buffer (R392). -/
def writeBuf (who : Claimant) (o : Nat) (bs : List Byte) (s : State) (b : Nat) : State :=
  let ctl := writtenIn o bs (bufBase b) 64
  let dat := writtenIn o bs (dataBase b) 0x4000
  if ctl.isEmpty && dat.isEmpty then s
  else
    let s1 := onBuf s b fun x => { x with
      data := forAll dat (fun t e => tput 0 t e.1 e.2) x.data
      imgWin := withImgWin x.imgWin ctl
      lastPt := s.clk.pilot }
    bufOp s1 who b (opWritten o bs (bufBase b))

/-- A write through the image window, into the slot of the session (R398). -/
def writeImage (o : Nat) (bs : List Byte) (s : State) : State :=
  let img := writtenIn o bs 0x220000 0x10000
  match sessionBuf s with
  | none => s
  | some b =>
    match (bufOf s b).session with
    | none => s
    | some x =>
      if img.isEmpty then s
      else
        let base := slotBase x.slot + 65536 * (bufOf s b).imgWin
        onBuf (onBoot s fun z => { z with nvm := forAll img (fun t e => tput 0 t (base + e.1) e.2) z.nvm }) b
          fun y => { y with lastPt := s.clk.pilot }

/-- A write to one cursor's control; one of its holder keeps it (R439). -/
def writeCursor (who : Claimant) (o : Nat) (bs : List Byte) (s : State) (c : Nat) : State :=
  let ctl := writtenIn o bs (cursorBase c) 64
  if ctl.isEmpty then s
  else
    let x := cursorOf s c
    let s1 := if x.held && x.who = who then onCursor s c fun y => { y with lastPt := s.clk.pilot } else s
    cursorOp s1 who c (opWritten o bs (cursorBase c)) ctl

/-- A write in the change intake block takes effect and is answered (R223, R391); every other field of the block is read-only. -/
def answerWrite (s : State) (r : Req) : State :=
  let who := requester r.a
  let o := mgmtOff r.f
  let bs := r.f.payload
  if writeDenied s who o bs then turnAway s r stDenied
  else
    let s1 := forAll (List.range 4) (writeBuf who o bs) s
    let s2 := forAll (List.range 8) (writeCursor who o bs) (writeImage o bs s1)
    settle (sendResponse s2 r (plain stOk))

/-- A write whose first operation is the row's. -/
def mgmtWriteOf (mine : Bool) (s : State) (a : Arrival) (f : Frame) : Ans :=
  if f.typ ≠ tMgmtWrite || !mine then notEnabled s
  else match arriveMgmt s a f with
    | (s1, none) => .next s1
    | (s1, some r) => .next (answerWrite s1 r)

/-- MGMT_WRITE (R223): a write that asks for no operation. -/
def execMgmtWrite (a : Arrival) (f : Frame) (s : State) : Ans := mgmtWriteOf (firstOp f = none) s a f

/-- CLAIM (R392). -/
def execClaim (a : Arrival) (f : Frame) (b : Nat) (s : State) : Ans := mgmtWriteOf (firstOp f = some ⟨false, b, 1⟩) s a f

/-- SUBMIT (R392, R393). -/
def execSubmit (a : Arrival) (f : Frame) (b : Nat) (s : State) : Ans := mgmtWriteOf (firstOp f = some ⟨false, b, 2⟩) s a f

/-- BUFFER_RELEASE (R392). -/
def execBufferRelease (a : Arrival) (f : Frame) (b : Nat) (s : State) : Ans := mgmtWriteOf (firstOp f = some ⟨false, b, 3⟩) s a f

/-- ATTEST (R403). -/
def execAttest (a : Arrival) (f : Frame) (b : Nat) (s : State) : Ans := mgmtWriteOf (firstOp f = some ⟨false, b, 4⟩) s a f

/-- IMAGE_END (R398). -/
def execImageEnd (a : Arrival) (f : Frame) (b : Nat) (s : State) : Ans := mgmtWriteOf (firstOp f = some ⟨false, b, 5⟩) s a f

/-- CURSOR_CLAIM (R439). -/
def execCursorClaim (a : Arrival) (f : Frame) (c : Nat) (s : State) : Ans := mgmtWriteOf (firstOp f = some ⟨true, c, 1⟩) s a f

/-- CURSOR_SET (R439). -/
def execCursorSet (a : Arrival) (f : Frame) (c : Nat) (s : State) : Ans := mgmtWriteOf (firstOp f = some ⟨true, c, 2⟩) s a f

/-- CURSOR_RELEASE (R439). -/
def execCursorRelease (a : Arrival) (f : Frame) (c : Nat) (s : State) : Ans := mgmtWriteOf (firstOp f = some ⟨true, c, 3⟩) s a f

/-! ## Idleness -/

/-- Pilot ticks after which an unused buffer or cursor is freed. -/
def idleLimit : Nat := 1048576

/-- BUFFER_IDLE_TIMEOUT (R392): a buffer whose record is being checked or applied is in use. -/
def execBufferIdleTimeout (b : Nat) (s : State) : Ans :=
  let x := bufOf s b
  if x.state = 0 || x.state = 2 || x.state = 3 || s.clk.pilot < x.lastPt + idleLimit then notEnabled s
  else .next (freeBuf s b)

/-- CURSOR_IDLE_TIMEOUT (R439). -/
def execCursorIdleTimeout (c : Nat) (s : State) : Ans :=
  let x := cursorOf s c
  if !x.held || s.clk.pilot < x.lastPt + idleLimit then notEnabled s else .next (onCursor s c fun _ => {})

end Sys2Proof.Machine
end

