-- ==== Sys2Proof/Machine/PinRows.lean ====
section
/-! DEFINITION. The events of the connectors: POWER_FAIL and the rails (R359, R421, R452, R460 to R462), SMBus (R467 to R470),
REC_HOLD_N (R466) and the TAP (R458, R471, R472). -/

namespace Sys2Proof.Machine

/-! ## Power failure -/

/-- Records cut short by POWER_FAIL, each with its record (R393, R395, R397). -/
def cutRecords (s : State) : State :=
  forAll (List.range 4) (fun s b =>
    if (bufOf s b).state = 3 then recordChange (onBuf s b fun x => { x with state := 5, result := 0x0F, todo := [] }) b 0x0F else s) s

/-- POWER_FAIL is taken as asserted (R359, R421, R436, R462, R474): code 0x0704, a flush, and every switched domain and the DRAM
unpowered. Steps 1 to 3 run on; a stopped device stays stopped. -/
def actPowerFail (s : State) : State :=
  let s1 := ashExempt (cutRecords s) 4 0x30 0x0704 [(0, natLe 1 s.pwr.state), (1, natLe 1 s.boot.phase)]
  if s.boot.phase ≤ 3 then s1
  else if s.boot.phase = 12 then { losePower s1 with boot := { s1.boot with shadow := [] }, clk := s1.clk }
  else losePower s1

/-- The input is good: neither pin nor monitor reports a failure. -/
def inputGood (s : State) : Bool := s.pins.vin54 && !s.pins.powerFail

/-- POWER_FAIL_ASSERT (R461, R462). With the Pilot off, or the failure already acted on, only the pin changes. -/
def execPowerFailAssert (s : State) : Ans :=
  if s.pins.powerFail then notEnabled s
  else
    let s1 := onPins s fun p => { p with powerFail := true }
    .next (if s.pins.vaux && s.pins.vin54 then actPowerFail s1 else s1)

/-- VIN_MONITOR_TRIP (R462): the module's own monitor acts as though POWER_FAIL were asserted. -/
def execVinMonitorTrip (s : State) : Ans :=
  if !s.pins.vin54 then notEnabled s
  else
    let s1 := onPins s fun p => { p with vin54 := false }
    .next (if s.pins.vaux && !s.pins.powerFail then actPowerFail s1 else s1)

/-- MOD_PRESENT_BREAK (R452, R474): as a loss of VIN_54. -/
def execModPresentBreak (s : State) : Ans :=
  if !s.pins.present then notEnabled s
  else
    let s1 := onPins s fun p => { p with present := false, vin54 := false }
    .next (if s.pins.vaux && inputGood s then actPowerFail s1 else s1)

/-- POWER_FAIL_DEASSERT (R359, R421, R461): the input is in range again, and bring-up goes on at step 4; on a stopped device the boot
ROM serves on (R377). -/
def execPowerFailDeassert (s : State) : Ans :=
  if inputGood s then notEnabled s
  else
    let s1 := onPins s fun p => { p with powerFail := false, vin54 := true, present := true, imgBusy := s.boot.phase = 4 && s.pins.vaux }
    .next (if s.boot.phase = 12 then
      onPins (onPwr s1 fun p => { p with domains := BitVec.ofNat 30 (2 ^ 26 + 2 ^ 29) }) fun p => { p with refclkEn := true }
     else s1)

/-! ## SMBus -/

/-- SMBus answers: the Pilot runs and step 2 is over (R361, R382, R467). -/
def smbAnswers (s : State) : Bool := s.pins.vaux && 3 ≤ s.boot.phase

/-- The ranges of the subset that can be read now, as first byte and length (R382, R468). -/
def smbSubset (s : State) : List (Nat × Nat) :=
  [(0x0, 128), (0x10000, 64)] ++ if atReady s then [(0x10200, 64), (0x10400, 64)] else []

/-- Bytes of the subset from an offset to its range's end. -/
def smbLeft (s : State) (o : Nat) : Nat :=
  match (smbSubset s).find? fun r => r.1 ≤ o && o < r.1 + r.2 with
  | some r => r.1 + r.2 - o
  | none => 0

/-- The address's STRAP_SMBADDR (R360, R467). -/
def smbAddr (s : State) : Nat := 0x60 + 2 * fld s.boot.straps.toNat 10 2

/-- SMB_POINTER_SET (R467): an offset that is unaligned or outside the subset is NACKed. -/
def execSmbPointerSet (data : List Byte) (s : State) : Ans :=
  if !smbAnswers s then notEnabled s
  else
    let o := leNat data
    let ok := data.length = 3 && o % 4 = 0 && smbLeft s o ≠ 0
    .next (onPins s fun p => { p with smbPtr := if ok then o else p.smbPtr, smbNack := !ok, smbOut := [] })

/-- SMB_BLOCK_READ (R467, R470): up to 32 bytes, the pointer advancing; a read of STS_ASH releases the alert. -/
def execSmbBlockRead (s : State) : Ans :=
  if !smbAnswers s then notEnabled s
  else
    let o := s.pins.smbPtr
    let n := min 32 (smbLeft s o)
    let (s1, bs) := readSpace s o n
    .next (onPins s1 fun p => { p with
      smbOut := bs, smbNack := false, smbPtr := o + n
      smbAlert := p.smbAlert && !(0x10400 ≤ o && o < 0x10440 && n ≠ 0) })

/-- The quick status (R469). -/
def quickStatus (s : State) : List Byte :=
  natLe 1 (s.boot.phase % 16 + s.pwr.state % 8 * 16) ++ natLe 1 s.pwr.tjMax ++ natLe 1 (s.ash.sevMax % 8 + 8 * b2n s.ash.nvmFail) ++
    natLe 1 s.pwr.throttled ++ natLe 4 (s.ash.nextRno % 2 ^ 32)

/-- SMB_QUICK_STATUS (R469). -/
def execSmbQuickStatus (s : State) : Ans :=
  if !smbAnswers s then notEnabled s else .next (onPins s fun p => { p with smbOut := quickStatus s, smbNack := false })

/-- SMB_ALERT_RESPONSE (R470): a device that asserts its alert answers with its address. -/
def execSmbAlertResponse (s : State) : Ans :=
  if !smbAnswers s || !s.pins.smbAlert then notEnabled s
  else .next (onPins s fun p => { p with smbOut := natLe 1 (smbAddr s), smbNack := false, smbAlert := false })

/-- SMB_CLOCK_TIMEOUT (R467): the interface is reset; the pointer stays. -/
def execSmbClockTimeout (s : State) : Ans :=
  if !smbAnswers s then notEnabled s else .next (onPins s fun p => { p with smbOut := [], smbNack := false })

/-! ## The recorder bus (R466) -/

/-- REC_HOLD_ASSERT (R466): what was in progress has completed; where honoured, the bus is released. -/
def execRecHoldAssert (s : State) : Ans := .next (onPins s fun p => { p with recHoldN := false })

/-- REC_HOLD_DEASSERT (R466): a flush that waited runs. -/
def execRecHoldDeassert (s : State) : Ans :=
  let s1 := onPins s fun p => { p with recHoldN := true }
  .next (if recHeld s && (s.ash.backlog.any fun r => 4 ≤ r.sev) then flush s1 else s1)

/-! ## The TAP -/

/-- JTAG_LOCK is blown, or held locked after fuse copies that disagree (R364, R387, R472). -/
def jtagLocked (s : State) : Bool := s.fuse.a.getLsbD 1161 || s.fuse.b.getLsbD 1161 || s.boot.idn.getLsbD 1161

/-- The IDCODE (R471). -/
def idcodeOf (s : State) : Nat := 1 + 0x0A1 * 2 + 0x2032 * 2 ^ 12 + s.boot.stepping % 16 * 2 ^ 28

/-- The instructions of boundary scan, which act only while MOD_RESET_N is asserted (R471). -/
def scanInstr (i : TapInstr) : Bool := i ≠ .idcode && i ≠ .bypass

/-- The boundary-scan instruction loaded acts now (R471, R474). -/
def tapActs (s : State) : Bool := scanInstr s.pins.tap && !s.pins.modResetN

/-- An instruction is loaded; under JTAG_LOCK all but IDCODE and BYPASS select BYPASS (R472). BYPASS captures 0 (log 4). -/
def loadTap (s : State) (i : TapInstr) : State :=
  let j := if jtagLocked s && i ≠ .idcode then .bypass else i
  onPins s fun p => { p with
    tap := j, trstN := true, tdr := if j = .idcode then idcodeOf s else if j = .bypass then 0 else p.tdr }

/-- The TAP runs from the auxiliary rail (R458). -/
def tapLoad (s : State) (i : TapInstr) : Ans := if s.pins.vaux then .next (loadTap s i) else notEnabled s

/-- IDCODE (R471). -/
def execIdcode (s : State) : Ans := tapLoad s .idcode

/-- BYPASS (R472). -/
def execBypass (s : State) : Ans := tapLoad s .bypass

/-- EXTEST (R471). -/
def execExtest (s : State) : Ans := tapLoad s .extest

/-- INTEST (R471). -/
def execIntest (s : State) : Ans := tapLoad s .intest

/-- CLAMP (R471). -/
def execClamp (s : State) : Ans := tapLoad s .clamp

/-- EXTEST_PULSE (R471). -/
def execExtestPulse (s : State) : Ans := tapLoad s .extestPulse

/-- EXTEST_TRAIN (R471). -/
def execExtestTrain (s : State) : Ans := tapLoad s .extestTrain

/-- TEST_LOGIC_RESET (R458): TRST_N goes low; IDCODE is selected (log 4). -/
def execTestLogicReset (s : State) : Ans := .next (onPins s fun p => { p with trstN := false, tap := .idcode })

end Sys2Proof.Machine
end

