-- ==== Sys2Proof/Machine/PowerRows.lean ====
section
/-! DEFINITION. The commands of power states and thermal limits (R405 to R423). What waits for a period or a bound is enabled once its
condition holds; how often it is given is not gated by the clock (log 38). -/

namespace Sys2Proof.Machine

/-! ## Entry, exit, wake -/

/-- No home orders or delivers anything any more (R412 step 3). -/
def homesDrained (s : State) : Bool :=
  s.home.deliveries.isEmpty && s.home.slices.all fun e => e.2.txs.isEmpty && e.2.locks.isEmpty

/-- ENTRY_COMPLETE (R412, R414): the module sleeps; a wake event recorded on the way begins the exit at once. -/
def execEntryComplete (s : State) : Ans :=
  if !(s.pwr.state = 1 || s.pwr.state = 3) || !homesDrained s then notEnabled s
  else
    let deep := s.pwr.state = 3
    let s1 := onPwr (sleepLinks s) fun p => { p with
      state := if deep then 4 else 2
      domains := 0
      smEntries := if deep then p.smEntries else satInc 32 p.smEntries
      emEntries := if deep then satInc 32 p.emEntries else p.emEntries
      pendingWake := none }
    let s2 := if deep then onPins s1 fun p => { p with refclkEn := false } else s1
    .next (match s.pwr.pendingWake with
      | some (src, link) => wakeEvent s2 src link
      | none => s2)

/-- Where a spare asks for the map: its leader (R411). -/
def askMap (s : State) : State :=
  match leaderOf s.cell.map none with
  | some p => requestMap s (posDev s p)
  | none => s

/-- EXIT_COMPLETE (R411, R413): admission opens after `us` microseconds; a Spare that does not serve reads the map. -/
def execExitComplete (us : Nat) (s : State) : Ans :=
  if s.pwr.state ≠ 5 then notEnabled s
  else
    let s1 := onPwr s fun p => { p with
      state := 0
      lastExitUs := min us 65535
      phaseSince := if s.boot.phase = 13 || s.boot.phase = 14 then some s.clk.pilot else p.phaseSince
      spareSince := if idleSpare s then some s.clk.pilot else none }
    .next (settle (if idleSpare s1 && atReady s1 then askMap s1 else s1))

/-- WAKE_PATTERN (R349, R415, R417): asleep it wakes; a Spare in Run that does not serve reads the map. During bring-up it is ignored
(R386). -/
def execWakePattern (link : Nat) (s : State) : Ans :=
  if 96 ≤ link || !(flueEntry s link).en then notEnabled s
  else if s.pwr.state = 0 then (if idleSpare s && atReady s then .next (askMap s) else notEnabled s)
  else .next (wakeEvent s 1 link)

/-- SIGNAL_RETURN (R415, R417, R425): on service Flue `k`, unless SVC_NOWAKE. -/
def execSignalReturn (k : Nat) (s : State) : Ans :=
  if 2 ≤ k || tbit s.cfg.power.toNat 89 then notEnabled s else .next (wakeEvent s 2 0)

/-- MOD_WAKE (R415). -/
def execModWake (s : State) : Ans := .next (wakeEvent s 3 0)

/-- WAKE_TIMER (R415, R426). -/
def execWakeTimer (s : State) : Ans :=
  match s.pwr.wakeTimer with
  | none => notEnabled s
  | some t =>
    if s.clk.pilot < t then notEnabled s else .next (wakeEvent (onPwr s fun p => { p with wakeTimer := none }) 4 0)

/-! ## The Smoulder sample (R416) -/

/-- A reading lies beyond an absolute maximum, where the spec defines no behaviour (R477). -/
def beyondMaximum (temps : List Nat) : Bool := temps.any fun t => 125 < t

/-- `n` / `d` as binary32, nearest-even. -/
def b32Ratio (n d : Nat) : Nat := (b32Of (vDiv (vOfInt n 0) (vOfInt d 0))).toNat

/-- The quantity of a crossing, its reading as binary32 and its wake source: 0 where it does not wake. -/
def crossings (s : State) (r : Sample) : List (Nat × Nat × Nat) :=
  let x := s.cfg.power.toNat
  let hi := powerFld s 80 7 90
  let hot := if tbit x 87 then 0 else 5
  let rail := if tbit x 88 then 6 else 0
  let temps := (r.temps.take 16).zipIdx.filterMap fun (t, n) => if hi ≤ t then some (n, b32Ratio t 1, hot) else none
  temps ++
    (if r.v54 < powerFld s 96 10 480 || powerFld s 106 10 600 < r.v54 then [(0x10, b32Ratio r.v54 10, rail)] else []) ++
    (if r.vaux < powerFld s 116 12 3135 || powerFld s 128 12 3465 < r.vaux then [(0x11, b32Ratio r.vaux 1000, rail)] else []) ++
    (if r.retention then [] else [(0x12, (Config.freeWord s.draws).toNat % 2 ^ 32, rail)])

/-- The junction sensors are read: TJ_MAX holds the highest reading (R427). -/
def noteTemps (s : State) (temps : List Nat) : State :=
  onPwr s fun p => { p with tjMax := (temps.take 16).foldl max p.tjMax }

/-- SMOULDER_SAMPLE (R416, R479): one record and one wake event for each quantity beyond its threshold; the reading of the retention
rails, which no rule gives a volt, is free (log 7). -/
def execSmoulderSample (r : Sample) (s : State) : Ans :=
  if s.pwr.state ≠ 2 then notEnabled s
  else if beyondMaximum (r.temps.take 16) then .fault .beyondAbsoluteMaximum
  else
    let s1 := noteTemps (draw s).1 r.temps
    .next (forAll (crossings s r) (fun s c =>
      let s2 := ashLimited s 3 0x30 0x0701 [(0, natLe 1 c.1), (4, natLe 4 c.2.1)]
      if c.2.2 = 0 then s2 else wakeEvent s2 c.2.2 0) s1)

/-! ## Sleep without a record (R411) -/

/-- SPARE_REENTRY_TIMER (R411): a Spare that woke and is not named to serve. -/
def execSpareReentryTimer (s : State) : Ans :=
  match s.pwr.spareSince with
  | none => notEnabled s
  | some t =>
    if !atReady s || s.pwr.state ≠ 0 || !idleSpare s || (s.cell.map.serving && s.cell.map.spareSerial = ownSerial s) ||
        s.clk.pilot < t + 65536 then notEnabled s
    else .next (enterSpareState (onPwr s fun p => { p with spareSince := some s.clk.pilot }))

/-- PHASE_EMBER_TIMER (R411): a module that is fenced or refused; the entry rule does not hold it in Run. -/
def execPhaseEmberTimer (s : State) : Ans :=
  match s.pwr.phaseSince with
  | none => notEnabled s
  | some t =>
    if !(s.boot.phase = 13 || s.boot.phase = 14) || s.pwr.state ≠ 0 || s.clk.pilot < t + 1048576 then notEnabled s
    else .next (beginEntry s true 0)

/-! ## Domains (R405, R406) -/

/-- AUTO_IDLE_EXPIRE (R406): a Stove group whose Hearth has had no crew seated and no slot queued for AUTO_IDLE_PT. -/
def execAutoIdleExpire (h : Nat) (s : State) : Ans :=
  let since := tget 0 s.pwr.idleSince h
  if 8 ≤ h || s.pwr.state ≠ 0 || policyIn s.cfg.power.toNat h ≠ 2 || !domainOn s h || hearthBusy s h || since = 0 ||
      s.clk.pilot < since - 1 + powerFld s 160 21 1024 then notEnabled s
  else .next (gateDomain s h)

/-- DOMAIN_RETURN (R406): a domain that was told to return serves again; a Stove group returns by STOVE_DOMAIN_POWERED. -/
def execDomainReturn (d : Nat) (s : State) : Ans :=
  if d < 8 || 30 ≤ d || s.pwr.state ≠ 0 || (tget none s.pwr.returning d).isNone then notEnabled s
  else .next (settle (freeWaits (setDomain s d true)))

/-! ## Thermal limits (R422, R423) -/

/-- The issue rate at a reading: 1 full, 2 one clock in two, 4 one clock in four; between 97 and 100 °C it stays. -/
def throttleRate (old t : Nat) : Nat := if 105 ≤ t then 4 else if 100 ≤ t then 2 else if t ≤ 97 then 1 else old

/-- THROTTLE_CHANGE (R422): it changes no result. -/
def execThrottleChange (h temp : Nat) (s : State) : Ans :=
  if 8 ≤ h || s.pwr.state ≠ 0 || s.boot.phase < 3 then notEnabled s
  else if 125 < temp then .fault .beyondAbsoluteMaximum
  else
    let old := tget 1 s.pwr.rate h
    let new := throttleRate old temp
    let s1 := noteTemps s [temp]
    if new = old then .next s1
    else
      let s2 := onPwr s1 fun p => { p with
        rate := tput 1 p.rate h new, throttled := setFld p.throttled h 1 (b2n (new ≠ 1)), throttleEvents := satInc 32 p.throttleEvents }
      .next (ashLimited s2 3 h 0x0702 [(0, natLe 1 h), (1, natLe 1 new), (2, natLe 1 temp)])

/-- OVERTEMP_TRIP (R423): the record and its flush, then every switched domain and the DRAM unpowered and the device held in reset. -/
def execOvertempTrip (sensor temp : Nat) (s : State) : Ans :=
  if !s.pins.vaux || s.pwr.tripped || 16 ≤ sensor || temp < 115 then notEnabled s
  else if 125 < temp then .fault .beyondAbsoluteMaximum
  else
    let s1 := ashExempt (noteTemps s [temp]) 5 0x30 0x0703 [(0, natLe 1 sensor), (1, natLe 1 temp)]
    .next (onPwr (onBoot (resetDevice s1) fun b => { b with phase := 1 }) fun p => { p with tripped := true })

/-- OVERTEMP_CLEAR (R423): bring-up restarts at step 1. -/
def execOvertempClear (temps : List Nat) (s : State) : Ans :=
  if !s.pwr.tripped || temps.length ≠ 16 || temps.any fun t => 90 < t then notEnabled s
  else .next (onPwr s fun p => { p with tripped := false })

end Sys2Proof.Machine
end

