-- ==== Sys2Proof/Machine/HealthRows.lean ====
section
/-! DEFINITION. The commands of the recorder, the health record and metering (R433 to R449). -/

namespace Sys2Proof.Machine

/-! ## The recorder -/

/-- RATE_LIMIT_PERIOD (R273, R328, R433): every bucket gains a token; waits of the period are recorded. -/
def execRateLimitPeriod (s : State) : Ans :=
  if !s.pins.vaux then notEnabled s
  else
    let s1 := onAsh s fun a => { a with
      tokens := tmapAll 16 (fun n => min 16 (n + 1)) a.tokens, waits203 := 0, waits404 := 0 }
    let s2 := if s.ash.waits203 = 0 then s1 else ashLimited s1 3 0x32 0x0203 [(0, natLe 4 s.ash.waits203)]
    .next (if s.ash.waits404 = 0 then s2 else ashLimited s2 3 s.ash.waits404H 0x0404 [(0, natLe 4 s.ash.waits404)])

/-- ASH_NVM_WRITE (R435, R466): the oldest record not yet written; a write not acknowledged is retried three times, and then fails. -/
def execAshNvmWrite (acked : Bool) (s : State) : Ans :=
  if !s.pins.vaux || recHeld s then notEnabled s
  else match s.ash.backlog with
    | [] => notEnabled s
    | r :: rest =>
      if acked then .next (onAsh (nvmStore s r) fun a => { a with backlog := rest, tries := 0 })
      else if s.ash.tries < 3 then
        .next (onAsh s fun a => { a with tries := a.tries + 1, nvmErrors := satInc 64 a.nvmErrors })
      else
        .next (ashExempt (onAsh s fun a => { a with backlog := rest, tries := 0, nvmFail := true }) 4 0x30 0x0801 [(0, natLe 1 2)])

/-! ## The health record (R441, R442) -/

/-- One more operating second of a sensor in the bin of its reading. -/
def countBin (t : Tab Nat) (sensor temp : Nat) : Tab Nat := tmod 0 t (64 * sensor + min 63 (temp / 2)) (satInc 32)

/-- The leases and version blocks of a second, metered (R321). -/
def meterSecond (s : State) : State :=
  let s1 := forAll (s.ext.tab.filter fun e => e.2.state = 3) (fun s e => meter s e.2.job 6 1) s
  forAll s1.ext.regions (fun s e => match e.2 with
    | some r => let n := (r.versions.filterMap (·.block)).length; if n = 0 then s else meter s r.job 7 n
    | none => s) s1

/-- OPERATING_SECOND (R321, R420, R442): the readings of the 48 sensors, junction first. -/
def execOperatingSecond (temps : List Nat) (s : State) : Ans :=
  if !s.pins.vaux || 48 < temps.length then notEnabled s
  else if beyondMaximum (temps.take 16) then .fault .beyondAbsoluteMaximum
  else
    let s1 := onClk (noteTemps s temps) fun c => { c with opSec := satInc 64 c.opSec }
    let s2 := onHlth s1 fun h => { h with therm := forAll temps.zipIdx (fun t e => countBin t e.2 e.1) h.therm }
    let s3 := onPwr s2 fun p => { p with
      smS := if p.state = 2 then satInc 32 p.smS else p.smS, emS := if p.state = 4 then satInc 32 p.emS else p.emS }
    .next (meterSecond s3)

/-- DROOP_DETECT (R442, R445, R479): a droop of the core rail by DROOP_MV for 10 ns. -/
def execDroopDetect (rail depth dur : Nat) (s : State) : Ans :=
  if !s.pins.vaux || 4 ≤ rail || dur < 10 || depth < ashpitFld s 32 8 50 then notEnabled s
  else
    let d : Droop := { opSec := s.clk.opSec % 2 ^ 32, rail := rail, depth := min 65535 depth, dur := min dur (2 ^ 32 - 1), pcycles := s.clk.pcycles }
    .next (ashLimited (onHlth s fun h => { h with droops := h.droops ++ [d] }) 3 0x30 0x0705
      [(0, natLe 1 rail), (2, natLe 2 d.depth), (4, natLe 4 d.dur)])

/-! ## Shadow tests (R443) -/

/-- The link of a lane (R228, R441). -/
def laneLink (s : State) (lane : Nat) : Nat :=
  if 96 ≤ lane then 96 + (lane - 96) / 4
  else if (tget {} s.cfg.flues (lane / 4)).quartered then lane
  else lane / 4 * 4

/-- A pre-FEC BER above 10^-BER_EXP (R443, R445). -/
def berHigh (s : State) (ber : BitVec 32) : Bool :=
  vLt { man := 1, exp := 0 } (vMul (b32Val ber) { man := 10 ^ ashpitFld s 24 4 5, exp := 0 })

/-- A lane's scan enters its history (R442): the first eight, and then those that differ or come late. -/
def laneScan (s : State) (lane : Nat) (x : LaneEntry) : State :=
  let h := tget (0, []) s.hlth.lanes lane
  let new := h.1 < 8 || match h.2.getLast? with
    | some y => apart 3 x.width y.width || apart 5 x.height y.height || x.berExp ≠ y.berExp || entryOld s y.opSec
    | none => true
  if new then onHlth s fun t => { t with lanes := tput (0, []) t.lanes lane (historyAdd 8 64 h x) } else s

/-- A site that a shadow test may run on: it runs, and refreshes at less than 4×. -/
def shadowSite (s : State) (site : Nat) : Bool := siteRuns s site && (siteAt s site).rate ≠ 4

/-- SHADOW_TEST (R442, R443, R445): results enter the histories; a result below its threshold is recorded. -/
def execShadowTest (r : Shadow) (s : State) : Ans :=
  if !atReady s || s.pwr.state ≠ 0 || fld s.cfg.ashpit.toNat 28 4 = 0xF then notEnabled s
  else match r with
    | .dram e =>
      if 256 ≤ e.chan || !shadowSite s (e.chan / 8) then notEnabled s
      else
        let s1 := eyeScan s e
        .next (if eyeLow s e then recordEye s1 e else s1)
    | .lane lane w h ber n cw =>
      if 104 ≤ lane || !(linkOf s (laneLink s lane)).up then notEnabled s
      else
        let x : LaneEntry := { opSec := s.clk.opSec % 2 ^ 32, width := min 255 w, height := min 255 h, ber := ber, berExp := n, codewords := min cw (2 ^ 32 - 1) }
        let s1 := laneScan s lane x
        .next (if h < ashpitFld s 16 8 15 || berHigh s ber then
          ashLimited s1 3 (0x10 + flueOf (laneLink s lane)) 0x0304 [(0, natLe 1 lane), (4, natLe 4 ber.toNat)]
         else s1)

/-! ## Energy (R449) -/

/-- Extents that a job-table entry's job leases. -/
def leasedBy (s : State) (i : Nat) : Nat :=
  (s.ext.tab.filter fun e => e.2.state = 3 && match jobEntry s e.2.job with | some (k, _) => k = i | none => false).length

/-- Job-table entries that an interval's energy may fall to. -/
def energyEntries (s : State) : List Nat :=
  ((s.mtr.act.map Prod.fst) ++ (s.ext.tab.filterMap fun e =>
    if e.2.state = 3 then (jobEntry s e.2.job).map Prod.fst else none)).eraseDups

/-- An entry's share of `mj` millijoules, in µJ: of the static part by the extents leased, of the rest by weighted activity. -/
def energyShare (s : State) (mj i : Nat) : Nat :=
  let n := (s.ext.tab.filter fun e => e.2.state ≠ 0).length
  let w := (s.mtr.act.map Prod.snd).sum + s.mtr.unAct
  let st := min mj s.mtr.staticW * 1000
  let dyn := (mj - s.mtr.staticW) * 1000
  (if n = 0 then 0 else st * leasedBy s i / n) + (if w = 0 then 0 else dyn * tget 0 s.mtr.act i / w)

/-- µJ joined to a record with those carried: whole mJ count, the rest is carried. Entry 16,384 is the unattributed record. -/
def addEnergy (s : State) (i uj : Nat) : State :=
  let all := tget 0 s.mtr.carry i + uj
  onMtr s fun m =>
    let m1 := { m with carry := tput 0 m.carry i (all % 1000) }
    if i = 16384 then { m1 with un := recAdd m.un 9 (all / 1000) }
    else { m1 with recs := tmod {} m.recs i fun r => recAdd r 9 (all / 1000) }

/-- METERING_INTERVAL (R445, R449): `mj` is the energy at the connector; what no entry takes is unattributed. -/
def execMeteringInterval (mj : Nat) (s : State) : Ans :=
  if !s.pins.vaux || !s.pins.vin54 || s.boot.phase < 5 then notEnabled s
  else
    let shares := (energyEntries s).map fun i => (i, energyShare s mj i)
    let rest := mj * 1000 - (shares.map Prod.snd).sum
    let s1 := addEnergy (forAll shares (fun s e => addEnergy s e.1 e.2) s) 16384 rest
    .next (onMtr s1 fun m => { m with act := [], unAct := 0, staticW := ashpitFld s 40 10 170 })

end Sys2Proof.Machine
end

