-- ==== Sys2Proof/Machine/Matrix.lean ====
section
/-! DEFINITION. Class 0x3, matrix and vector (R114, R120 to R123). -/

namespace Sys2Proof.Machine

/-- MWLD: block IMM19[1:0] of a tile into the thread's stationary. -/
def execMwld (t : ThreadRef) (w : BitVec 64) (s : State) : Ans :=
  issue s t w 3 0 fun it th =>
    let (s1, g) := wholeTile s it th (sReg th (wSa w))
    onGot s1 t 0 g fun (tag, bs) =>
      .next (onThread s1 t fun x => nextPc { x with stat := some (wImm19 w % 4, { tag := tag, cells := cellsOf bs }) })

/-- Element (i, j) of the block that a stationary holds; columns beyond K read as zero (R120). -/
def statElem (b : Nat) (d : TileData) (i j : Nat) : Val :=
  let c := b * mWidth d.tag + j
  if c < mCols d.tag then tileElem (fun k => tget 0 d.cells k) d.tag (i * mCols d.tag + c) else {}

/-- Element `j` of x; past the end of its register it is a free value (log 22). -/
def xElem (s : State) (f : Nat) (v : VReg) (j : Nat) : Val :=
  if j < vLen f then vVal f v j else fDecode (fspec f) ((Config.freeWord (s.draws + j)).toNat % 2 ^ elemBits f)

/-- MMV: each lane gains the products of its row with x (R120 to R123). Without a block loaded it adds nothing. -/
def execMmv (t : ThreadRef) (w : BitVec 64) (s : State) : Ans :=
  issue s t w 3 1 fun it th =>
    match th.stat with
    | none => accumulate s t (wDst w) (wL w) fun _ l => l
    | some (b, d) =>
      let f := wFmt w
      let off := wImm19 w % 512
      let x := upTo (mWidth d.tag) fun j => xElem s f (vReg th (wSa w)) (off + j)
      let s1 := meterOps (bump s (off + mWidth d.tag)) it.job d.tag (2 * 64 * mWidth d.tag)
      accumulate s1 t (wDst w) (wL w) fun i l =>
        if i < mRows d.tag then
          addProducts (wL w) (d.tag = 0 || f = 0) l (List.zipWith vMul (upTo (mWidth d.tag) (statElem b d i)) x)
        else l

/-- MTV: each lane gains the products of its tile row with x over all columns; x goes on through the registers from vSB,
wrapping from v7 to v0 (R121). -/
def execMtv (t : ThreadRef) (w : BitVec 64) (s : State) : Ans :=
  issue s t w 3 2 fun it th =>
    let (s1, g) := wholeTile s it th (sReg th (wSa w))
    onGot s1 t 0 g fun (tag, bs) =>
      let f := wFmt w
      let k := mCols tag
      let x := upTo k fun j => vVal f (vReg th (wSb w + j / vLen f)) (j % vLen f)
      let get := byteGet bs
      let s2 := meterOps s1 it.job tag (2 * mRows tag * k)
      accumulate s2 t (wDst w) (wL w) fun i l =>
        if i < mRows tag then
          addProducts (wL w) (tag = 0 || f = 0) l (List.zipWith vMul (upTo k fun j => tileElem get tag (i * k + j)) x)
        else l

/-- The values of element `j` of two source registers under an operation. -/
def vec2 (w : BitVec 64) (g : Val → Val → Val) (th : Thread) (j : Nat) : Val :=
  g (vVal (wFmt w) (vReg th (wSa w)) j) (vVal (wFmt w) (vReg th (wSb w)) j)

/-- VADD. -/
def execVadd (t : ThreadRef) (w : BitVec 64) (s : State) : Ans := vecOp s t w 3 (vec2 w vAdd)

/-- VSUB. -/
def execVsub (t : ThreadRef) (w : BitVec 64) (s : State) : Ans := vecOp s t w 4 (vec2 w fun a b => vAdd a (vNeg b))

/-- VMUL. -/
def execVmul (t : ThreadRef) (w : BitVec 64) (s : State) : Ans := vecOp s t w 5 (vec2 w vMul)

/-- VMAX. -/
def execVmax (t : ThreadRef) (w : BitVec 64) (s : State) : Ans := vecOp s t w 6 (vec2 w vMaxV)

/-- VMIN. -/
def execVmin (t : ThreadRef) (w : BitVec 64) (s : State) : Ans := vecOp s t w 7 (vec2 w vMinV)

/-- VFMA: vSA × vSB + vSC with one rounding. -/
def execVfma (t : ThreadRef) (w : BitVec 64) (s : State) : Ans :=
  vecOp s t w 8 fun th j => vAdd (vec2 w vMul th j) (vVal (wFmt w) (vReg th (wSc w)) j)

/-- VCVT: vSA from format IMM19[3:0] to FMT. Elements of the result that no source element gives are free values (log 22). -/
def execVcvt (t : ThreadRef) (w : BitVec 64) (s : State) : Ans :=
  vecOp s t w 9 fun th j =>
    let f := wImm19 w % 16
    if j < vLen f then vVal f (vReg th (wSa w)) j
    else fDecode (fspec (wFmt w)) ((Config.freeWord (s.draws + j)).toNat % 2 ^ elemBits (wFmt w))

/-- VBC: every element = low bits of sSA. -/
def execVbc (t : ThreadRef) (w : BitVec 64) (s : State) : Ans :=
  issue s t w 3 10 fun it _ =>
    let f := wFmt w
    .next (onThread (meterVec s it f) t fun x => nextPc (setV x (wDst w) (vOf f (List.replicate (vLen f) (sReg x (wSa w)).toNat))))

/-- VEXT: raw element IMM19, zero-extended; past the register it is a free value (log 22). -/
def execVext (t : ThreadRef) (w : BitVec 64) (s : State) : Ans :=
  issue s t w 3 11 fun it th =>
    let f := wFmt w
    let v := if wImm19 w < vLen f then BitVec.ofNat 64 (vElem f (vReg th (wSa w)) (wImm19 w)) else Config.freeWord s.draws
    .next (onThread (meterVec (bump s 1) it f) t fun x => nextPc (setS x (wDst w) v))

/-- VINS: raw element IMM19 = low bits of sSA; past the register the result is free (log 22). -/
def execVins (t : ThreadRef) (w : BitVec 64) (s : State) : Ans :=
  issue s t w 3 12 fun it _ =>
    let f := wFmt w
    .next (onThread (meterVec (bump s 64) it f) t fun x =>
      nextPc (setV x (wDst w) (if wImm19 w < vLen f then
        BitVec.ofNat 4096 (setFld (vReg x (wDst w)).toNat (elemBits f * wImm19 w) (elemBits f) (sReg x (wSa w)).toNat)
      else freeVec s)))

end Sys2Proof.Machine
end

