-- ==== Sys2Proof/Machine/Reduce.lean ====
section
/-! DEFINITION. Class 0x4, reduce (R114, R123), but for ACOMB, which stands with the combining groups. -/

namespace Sys2Proof.Machine

/-- ACLR: cleared to zero, flags clear, unclassed. -/
def execAclr (t : ThreadRef) (w : BitVec 64) (s : State) : Ans := regOp s t w 4 0 fun x => setA x (wDst w) {}

/-- AOUT: elements 0 to 63 of vDST = lanes of aSA rounded; the others keep what they hold. -/
def execAout (t : ThreadRef) (w : BitVec 64) (s : State) : Ans :=
  issue s t w 4 1 fun _ _ =>
    let f := wFmt w
    .next (onThread (bump s 64) t fun x =>
      let a := aReg x (wSa w)
      let old := vReg x (wDst w)
      nextPc (setV x (wDst w) (vOf f (upTo (vLen f) fun j =>
        if j < 64 then codeOf f (wCvt w) (drawU s.draws j) (accVal a j) else vElem f old j))))

/-- AADDV: lane i gains element IMM19[8:0] + i of vSA. -/
def execAaddv (t : ThreadRef) (w : BitVec 64) (s : State) : Ans :=
  issue s t w 4 2 fun _ th =>
    let f := wFmt w
    let v := vReg th (wSa w)
    let off := wImm19 w % 512
    accumulate s t (wDst w) (wL w) fun i l => addProducts (wL w) (f = 0) l [vVal f v (off + i)]

/-- The sum of the lanes of an accumulator, in its class. -/
def laneSum (a : Acc) : Lane :=
  match a.cls with
  | .b32 => (List.range 64).foldl (fun l i =>
      { l with b32 := b32Add l.b32 (tget {} a.lanes i).b32, n := l.n + (tget {} a.lanes i).n }) ({} : Lane)
  | _ => (List.range 64).foldl (fun l i => laneAdd false l (laneVal (tget {} a.lanes i)) (tget {} a.lanes i).n) ({} : Lane)

/-- ALSUM: lane 0 = the sum of the 64 lanes of aSA, the others 0. -/
def execAlsum (t : ThreadRef) (w : BitVec 64) (s : State) : Ans :=
  regOp s t w 4 3 fun x =>
    let a := aReg x (wSa w)
    setA x (wDst w) { cls := a.cls, lanes := tput {} ([] : Tab Lane) 0 (laneSum a) }

/-- The 64 extended partials of an accumulator, 12 bytes each (R80). -/
def accPartials (a : Acc) : List Byte := (List.range 64).flatMap fun i => natLe 12 (extPartial (accVal a i))

/-- AXP: the lanes of aSA as extended partials into scratch. -/
def execAxp (t : ThreadRef) (w : BitVec 64) (s : State) : Ans :=
  issue s t w 4 4 fun it th =>
    onGot s t 0 (useScratch th (sReg th (wSb w))) fun h =>
      .next (onThread (meter s it.job 0 768) t fun x =>
        nextPc (modHandle x h.num fun y => { y with data := { y.data with
          cells := putBytes y.data.cells (768 * wImm19 w) (accPartials (aReg x (wSa w))) } }))

/-- AXI: lanes gain 64 extended partials; the accumulator is a long one (log 23); a partial that is never produced is
MALFORMED (R80). -/
def execAxi (t : ThreadRef) (w : BitVec 64) (s : State) : Ans :=
  issue s t w 4 5 fun it th =>
    onGot s t 0 (useHandle it th (sReg th (wSa w))) fun h =>
      let (s1, g) := readHandle s it h (768 * wImm19 w) 768
      onGot s1 t h.jva g fun bs =>
        let ps := upTo 64 fun i => leAt bs (12 * i) 12
        if ps.any extBad then .next (fault s1 t stMalformed 0)
        else accumulate s1 t (wDst w) true fun i l => laneAdd false l (extVal (nth 0 ps i)) 1

end Sys2Proof.Machine
end

