-- ==== Sys2Proof/Machine/Scalar.lean ====
section
/-! DEFINITION. Class 0x0, scalar (R114): integer operations on the 32 scalar registers. -/

namespace Sys2Proof.Machine

/-- A scalar operation on sSA and the second operand. -/
def scalarOp (s : State) (t : ThreadRef) (w : BitVec 64) (opc : Nat) (g : W64 → W64 → W64) : Ans :=
  regOp s t w 0 opc fun x => setS x (wDst w) (g (sReg x (wSa w)) (opB x w))

/-- Quotient and remainder with the divisor 0 as R114 has them. -/
def divu64 (a b : W64) : W64 := if b = 0 then BitVec.allOnes 64 else a / b
def remu64 (a b : W64) : W64 := if b = 0 then a else a % b

/-- Number of ones. -/
def popCount (a : W64) : Nat := ((List.range 64).filter fun k => a.getLsbD k).length

/-- Number of leading zeros. -/
def leadZeros (a : W64) : Nat := 64 - bitLen a.toNat

/-- ADD: sum modulo 2^64. -/
def execAdd (t : ThreadRef) (w : BitVec 64) (s : State) : Ans := scalarOp s t w 0 fun a b => a + b

/-- SUB: difference modulo 2^64. -/
def execSub (t : ThreadRef) (w : BitVec 64) (s : State) : Ans := scalarOp s t w 1 fun a b => a - b

/-- MUL: low 64 bits of the product. -/
def execMul (t : ThreadRef) (w : BitVec 64) (s : State) : Ans := scalarOp s t w 2 fun a b => a * b

/-- MULHU: high 64 bits of the unsigned product. -/
def execMulhu (t : ThreadRef) (w : BitVec 64) (s : State) : Ans := scalarOp s t w 3 fun a b => BitVec.ofNat 64 (a.toNat * b.toNat / 2 ^ 64)

/-- AND. -/
def execAnd (t : ThreadRef) (w : BitVec 64) (s : State) : Ans := scalarOp s t w 4 fun a b => a &&& b

/-- OR. -/
def execOr (t : ThreadRef) (w : BitVec 64) (s : State) : Ans := scalarOp s t w 5 fun a b => a ||| b

/-- XOR. -/
def execXor (t : ThreadRef) (w : BitVec 64) (s : State) : Ans := scalarOp s t w 6 fun a b => a ^^^ b

/-- SHL: left by the low 6 bits of the second operand. -/
def execShl (t : ThreadRef) (w : BitVec 64) (s : State) : Ans := scalarOp s t w 7 fun a b => a <<< (b.toNat % 64)

/-- SHR: logical right. -/
def execShr (t : ThreadRef) (w : BitVec 64) (s : State) : Ans := scalarOp s t w 8 fun a b => a >>> (b.toNat % 64)

/-- SAR: arithmetic right. -/
def execSar (t : ThreadRef) (w : BitVec 64) (s : State) : Ans := scalarOp s t w 9 fun a b => a.sshiftRight (b.toNat % 64)

/-- MINU. -/
def execMinu (t : ThreadRef) (w : BitVec 64) (s : State) : Ans := scalarOp s t w 10 fun a b => if a.ult b then a else b

/-- MAXU. -/
def execMaxu (t : ThreadRef) (w : BitVec 64) (s : State) : Ans := scalarOp s t w 11 fun a b => if a.ult b then b else a

/-- MIN, signed. -/
def execMin (t : ThreadRef) (w : BitVec 64) (s : State) : Ans := scalarOp s t w 12 fun a b => if a.slt b then a else b

/-- MAX, signed. -/
def execMax (t : ThreadRef) (w : BitVec 64) (s : State) : Ans := scalarOp s t w 13 fun a b => if a.slt b then b else a

/-- LI: the sign-extended immediate. -/
def execLi (t : ThreadRef) (w : BitVec 64) (s : State) : Ans := regOp s t w 0 14 fun x => setS x (wDst w) (wSext w)

/-- LUI: the immediate in the high half, the low half kept. -/
def execLui (t : ThreadRef) (w : BitVec 64) (s : State) : Ans :=
  regOp s t w 0 15 fun x => setS x (wDst w) (BitVec.ofNat 64 (wImm w * 2 ^ 32 + (sReg x (wDst w)).toNat % 2 ^ 32))

/-- DIVU. -/
def execDivu (t : ThreadRef) (w : BitVec 64) (s : State) : Ans := scalarOp s t w 16 divu64

/-- REMU. -/
def execRemu (t : ThreadRef) (w : BitVec 64) (s : State) : Ans := scalarOp s t w 17 remu64

/-- POPC: ones of sSA. -/
def execPopc (t : ThreadRef) (w : BitVec 64) (s : State) : Ans :=
  regOp s t w 0 18 fun x => setS x (wDst w) (BitVec.ofNat 64 (popCount (sReg x (wSa w))))

/-- CLZ: leading zeros of sSA. -/
def execClz (t : ThreadRef) (w : BitVec 64) (s : State) : Ans :=
  regOp s t w 0 19 fun x => setS x (wDst w) (BitVec.ofNat 64 (leadZeros (sReg x (wSa w))))

end Sys2Proof.Machine
end

