-- ==== Sys2Proof/Machine/Search.lean ====
section
/-! DEFINITION. Class 0x8, search helpers (R114), and the operators IVF_PROBE, PQ_SCAN and TOPK_MERGE (R160 to R176). -/

namespace Sys2Proof.Machine

/-- A tile of free bytes. -/
def freeTile (s : State) : List Byte := upTo 16384 fun k => Config.freeByte (s.draws + k)

/-- A search helper whose result is a scratch tile that the spec does not give byte for byte: its handles are used, and the
bytes are free (log 29). -/
def helperTile (s : State) (t : ThreadRef) (w : BitVec 64) (opc : Nat) (needB : Bool) : Ans :=
  issue s t w 8 opc fun it th =>
    onGot s t 0 (useScratch th (sReg th (wDst w))) fun d =>
      onGot s t 0 (useHandle it th (sReg th (wSa w))) fun _ =>
        onGot s t 0 (if needB then useHandle it th (sReg th (wSb w)) else .ok d) fun _ =>
          .next (onThread (bump s 16384) t fun x =>
            nextPc (modHandle x d.num fun y => { y with data := { y.data with cells := cellsOf (freeTile s) } }))

/-- PQLUT: a distance table into scratch sDST. -/
def execPqlut (t : ThreadRef) (w : BitVec 64) (s : State) : Ans := helperTile s t w 0 true

/-- PQSCAN: scores into scratch sDST. -/
def execPqscan (t : ThreadRef) (w : BitVec 64) (s : State) : Ans := helperTile s t w 1 true

/-- TOPKINS: entries inserted into the list of scratch sDST. -/
def execTopkins (t : ThreadRef) (w : BitVec 64) (s : State) : Ans := helperTile s t w 2 false

/-- TOPKMRG: the list of sSA merged into the list of sDST (R170, R173, R175); lists are at the head of their tiles. -/
def execTopkmrg (t : ThreadRef) (w : BitVec 64) (s : State) : Ans :=
  issue s t w 8 3 fun it th =>
    onGot s t 0 (useScratch th (sReg th (wDst w))) fun d =>
      let (s1, g) := wholeTile s it th (sReg th (wSa w))
      onGot s1 t 0 g fun (_, a) =>
        let b := dataBytes d.data 0 16384
        if listBad a || listBad b || 16384 < 64 + 16 * (listHead b).k then .next (fault s1 t stMalformed 0)
        else
          let m := mergeLists (listHead b).k [b, a]
          .next (onThread (meter s1 it.job 0 m.length) t fun x =>
            nextPc (modHandle x d.num fun y => { y with data := { y.data with cells := putBytes y.data.cells 0 m } }))

/-- BMTEST: byte k of vDST = bit sSA + k of the bitmap at sSB. -/
def execBmtest (t : ThreadRef) (w : BitVec 64) (s : State) : Ans :=
  issue s t w 8 4 fun _ th =>
    let b := (sReg th (wSa w)).toNat
    let a := (sReg th (wSb w)).toNat + b / 8
    let (s1, g) := readJva s t.item t.n 0 a 65
    onGot s1 t a g fun (bs, srcs) =>
      let get := byteGet bs
      .next (onThread (chargeReads s1 t.item srcs) t fun x => nextPc (setV x (wDst w) (BitVec.ofNat 4096 (packCodes 8 (upTo 512 fun k =>
        b2n ((get ((b % 8 + k) / 8)).getLsbD ((b % 8 + k) % 8)))))))

/-! ## The index -/

/-- Fields of an index descriptor (R160). -/
structure Idx where
  ip : Bool := false
  m : Nat := 8
  four : Bool := false
  dim : Nat := 8
  cent : Nat := 0
  qf : Nat := 0
  cb : Nat := 0
  nlist : Nat := 1
  centAt : Nat := 0
  cnorm : Nat := 0
  book : Nat := 0
  dir : Nat := 0
deriving DecidableEq, Repr

/-- The fields of the 64 bytes. -/
def idxOf (bs : List Byte) : Idx :=
  let n := leNat bs
  { ip := fld n 8 2 = 1, m := 8 * 2 ^ fld n 10 2, four := tbit n 12, dim := fld n 16 13, cent := fld n 32 4, qf := fld n 36 4,
    cb := fld n 40 4, nlist := fld n 64 21, centAt := fld n 128 64, cnorm := fld n 192 64, book := fld n 256 64,
    dir := fld n 320 64 }

/-- Codewords of a sub-quantizer. -/
def idxNc (x : Idx) : Nat := if x.four then 16 else 256

/-- Bytes of a code (R160). -/
def codeBytes (x : Idx) : Nat := if x.four then x.m / 2 else x.m

/-- The checks of R160. -/
def idxStatus (bs : List Byte) : Option Nat :=
  let n := leNat bs
  let x := idxOf bs
  match descStatus (fld n 0 4) (fld n 4 4) 4 with
  | some st => some st
  | none =>
    if 9 < x.cent || 9 < x.qf || 9 < x.cb then some stUnsupported
    else if 1 < fld n 8 2 || x.dim < 8 || 4096 < x.dim || x.dim % x.m ≠ 0 || 4 < x.cent || 4 < x.qf || 2 < x.cb || x.nlist = 0 ||
        1048576 < x.nlist || x.centAt % 16384 ≠ 0 || (!x.ip && x.cnorm % 64 ≠ 0) || x.book % 64 ≠ 0 || x.dir % 64 ≠ 0 then
      some stMalformed
    else none

/-- Elements of a query (R161). -/
def readQuery (s : State) (i : ItemId) (it : Item) (x : Idx) (q : Nat) : State × Got (List Val) :=
  let n := x.dim * elemBytes x.qf
  match itemRead s i (opFld it 320 64 + q * roundUp 64 n) n with
  | (s1, .ok bs) => (s1, .ok (rowVals x.qf x.dim (byteGet bs)))
  | (s1, .wait) => (s1, .wait)
  | (s1, .bad st) => (s1, .bad st)

/-- Every tile carries one tag (R69). -/
def tagsAre (f : Nat) (ts : List (Nat × List Byte)) : Bool := ts.all fun t => t.1 = f

/-! ## IVF_PROBE -/

/-- The centroids as rows of values, 64 a group (R161). -/
def centroids (x : Idx) (tiles : List (List Val)) : List (List Val) :=
  let k := mCols x.cent
  let cb := (x.dim + k - 1) / k
  upTo x.nlist fun c => upTo x.dim fun d => nth {} (nth [] tiles (c / 64 * cb + d / k)) (c % 64 * k + d % k)

/-- The score of a centroid (R163). -/
def probeScore (dense : Bool) (x : Idx) (q c : List Val) (norm : Nat) : BitVec 32 :=
  let dot := classSum dense (x.qf = 0 || x.cent = 0) (List.zipWith vMul q c)
  if x.ip then b32Of (vNeg dot) else b32Of (vAdd (b32Val (BitVec.ofNat 32 norm)) (vNeg (vMul { man := 2 } dot)))

/-- The lists of lowest score, NaN never among them (R163). -/
def bestLists (n : Nat) (scores : List (BitVec 32)) : List Hit :=
  bestHits n (((List.zip (List.range scores.length) scores).filter fun p => (b32Val p.2).kind ≠ .nan).map fun p =>
    { id := p.1, dist := p.2.toNat, list := p.1 })

/-- IVF_PROBE: the descriptor, then query by query, then the header of the probe set (R163 to R165). -/
def execIvfProbe (i : ItemId) (s : State) : Ans :=
  opRun s i 0x30 fun it =>
    let x := idxOf it.buf
    let nq := opFld it 384 16
    let np := opFld it 400 16
    let out := opFld it 448 64
    let res := fun (it : Item) (st : Nat) => ({ status := st, count := itCnt it 0, opResult := x.nlist * nq } : Result)
    if it.prog = 0 then
      let (s1, g) := itemRead s i (opFld it 256 64) 64
      onGotI s1 i {} (opFld it 256 64) g fun bs =>
        match idxStatus bs with
        | some st => failItem s1 i {} st
        | none =>
          let (s2, c) := itemClass s1 it out (opFld it 256 64)
          onGotI s2 i {} out c fun _ => .next (onItem s2 i fun y => { y with prog := 1, buf := bs })
    else if itCnt it 0 < nq then
      let q := itCnt it 0
      let k := mCols x.cent
      let ntiles := (x.nlist + 63) / 64 * ((x.dim + k - 1) / k)
      let (s1, g) := needTiles s i (upTo ntiles fun n => x.centAt + 16384 * n)
      onGotI s1 i (res it 0) x.centAt g fun ts =>
        if !tagsAre x.cent ts then failItem s1 i (res it 0) stMalformed
        else
          let (s2, qg) := readQuery s1 i it x q
          onGotI s2 i (res it 0) (opFld it 320 64) qg fun qv =>
            let (s3, ng) := if x.ip then (s2, Got.ok []) else itemRead s2 i x.cnorm (4 * x.nlist)
            onGotI s3 i (res it 0) x.cnorm ng fun nb =>
              let cs := centroids x (ts.map fun t => tileVals t.1 t.2)
              let sc := (List.zip (List.range cs.length) cs).map fun p => probeScore (itCnt it 14 = 2) x qv p.2 (leAt nb (4 * p.1) 4)
              let best := bestLists np sc
              let bytes := upTo np fun n => match best[n]? with
                | some h => natLe 4 h.list ++ natLe 4 h.dist
                | none => natLe 4 0xFFFFFFFF ++ natLe 4 0x7F800000
              let jva := out + 64 + q * roundUp 64 (8 * np)
              let (s4, sg) := itemStore s3 i jva bytes.flatten
              onGotI s4 i (res it 0) jva sg fun _ =>
                .next (onItem (meterOps s4 it.job x.cent (2 * x.nlist * x.dim)) i fun y => releaseTiles (addCnt y 0 1))
    else
      let head := natLe 4 (0x52 + nq * 2 ^ 8) ++ natLe 4 np ++ natLe 8 (opFld it 256 64) ++ List.replicate 48 0
      let (s1, g) := itemStore s i out head
      onGotI s1 i (res it 0) out g fun _ => .next (endItem s1 i (res it (plainStatus it)))

/-! ## PQ_SCAN -/

/-- Filters (R172): none where the descriptor is valid for the kind. -/
def filterStatus (kind : Nat) (bs : List Byte) : Option Nat :=
  let n := leNat bs
  if kind = 0 then none
  else match descStatus (fld n 0 4) (fld n 4 4) (if kind = 1 then 8 else 7) with
    | some _ => some stMalformed
    | none =>
      if kind = 1 then (if fld n 64 64 % 64 ≠ 0 || fld n 128 40 = 0 then some stMalformed else none)
      else
        let nt := fld n 8 3
        if nt = 0 || (List.range nt).any fun t => 5 < fld n (64 + 64 * t + 11) 3 then some stMalformed else none

/-- A predicate over an attribute word (R172). -/
def predicateOk (bs : List Byte) (attr : Nat) : Bool :=
  let n := leNat bs
  let term := fun t =>
    let b := 64 + 64 * t
    let f := fld attr (fld n b 6) (fld n (b + 6) 5 + 1)
    let v := fld n (b + 32) 32
    match fld n (b + 11) 3 with
    | 0 => f = v
    | 1 => f ≠ v
    | 2 => f < v
    | 3 => v ≤ f
    | 4 => Nat.land f v ≠ 0
    | _ => Nat.land f v = 0
  let ts := List.range (fld n 8 3)
  if tbit n 11 then ts.any term else ts.all term

/-- The distance table of a query (R167): binary32 entries, sub-quantizer by sub-quantizer. -/
def distTable (dense : Bool) (x : Idx) (q : List Val) (book : List Val) : List (BitVec 32) :=
  let d := x.dim / x.m
  (List.range x.m).flatMap fun j => upTo (idxNc x) fun k =>
    let qs := (q.drop (j * d)).take d
    let cs := (book.drop ((j * idxNc x + k) * d)).take d
    let wide : Bool := x.qf = 0 || x.cb = 0
    if x.ip then b32Of (vNeg (classSum dense wide (List.zipWith vMul qs cs)))
    else b32Of (classSum dense wide (List.zipWith (fun a b => let e := vAdd a (vNeg b); vMul e e) qs cs))

/-- The codewords of a code (R162). -/
def codeWords (x : Idx) (code : List Byte) : List Nat :=
  upTo x.m fun j => if x.four then fld ((code.drop (j / 2)).headD 0).toNat (4 * (j % 2)) 4 else ((code.drop j).headD 0).toNat

/-- The distance of a code (R167). -/
def codeDist (dense : Bool) (x : Idx) (table : Nat → BitVec 32) (code : List Byte) : BitVec 32 :=
  b32Of (classSum dense true ((List.zip (List.range x.m) (codeWords x code)).map fun p => b32Val (table (p.1 * idxNc x + p.2))))

/-- What the scan of one list has found so far. -/
structure Scan where
  hits : List Hit := []
  eligible : Nat := 0
  skipped : Nat := 0
  scored : Nat := 0
deriving DecidableEq, Repr

/-- The filter's verdict on vector `j` of a list (R169, R172). -/
def filterVec (s : State) (i : ItemId) (kind : Nat) (filt : List Byte) (ids attr j : Nat) : State × Got Bool :=
  if kind = 0 then (s, .ok true)
  else if kind = 1 then
    match itemRead s i (ids + 8 * j) 8 with
    | (s1, .wait) => (s1, .wait)
    | (s1, .bad st) => (s1, .bad st)
    | (s1, .ok b) =>
      let id := leNat b
      if fld (leNat filt) 128 40 ≤ id then (s1, .ok false)
      else match itemRead s1 i (fld (leNat filt) 64 64 + id / 8) 1 with
        | (s2, .ok m) => (s2, .ok ((m.headD 0).getLsbD (id % 8)))
        | (s2, .wait) => (s2, .wait)
        | (s2, .bad st) => (s2, .bad st)
  else if attr = 0 then (s, .ok (predicateOk filt 0))
  else match itemRead s i (attr + 8 * j) 8 with
    | (s1, .ok b) => (s1, .ok (predicateOk filt (leNat b)))
    | (s1, .wait) => (s1, .wait)
    | (s1, .bad st) => (s1, .bad st)

/-- The vectors of a list in turn (R169, R170). `dist` gives a vector's distance, `tomb` its tombstone. -/
def scanVecs (s : State) (i : ItemId) (kind k list : Nat) (filt : List Byte) (ids attr : Nat) (tomb : Nat → Bool)
    (dist : Nat → BitVec 32) : List Nat → Scan → State × Got Scan
  | [], sc => (s, .ok sc)
  | j :: js, sc =>
    if tomb j then scanVecs s i kind k list filt ids attr tomb dist js { sc with skipped := sc.skipped + 1 }
    else
      let d := dist j
      match filterVec s i kind filt ids attr j with
      | (s1, .wait) => (s1, .wait)
      | (s1, .bad st) => (s1, .bad st)
      | (s1, .ok pass) =>
        let sc1 := { sc with scored := sc.scored + 1 }
        if !pass || (b32Val d).kind = .nan then scanVecs s1 i kind k list filt ids attr tomb dist js sc1
        else match itemRead s1 i (ids + 8 * j) 8 with
          | (s2, .wait) => (s2, .wait)
          | (s2, .bad st) => (s2, .bad st)
          | (s2, .ok b) =>
            scanVecs s2 i kind k list filt ids attr tomb dist js { sc1 with
              eligible := sc1.eligible + 1
              hits := (insertHit { id := leNat b, dist := d.toNat, list := list } sc1.hits).take k }

/-- Places in an item's `got` of a query's working list and distance table. -/
def workKey : Nat := 2 ^ 132
def tableKey : Nat := 2 ^ 133

/-- Bytes that an item keeps under a key. -/
def kept (it : Item) (k : Nat) : List Byte := match it.got.find? (·.1 = k) with | some x => x.2 | none => []

/-- An item with bytes kept under a key. -/
def keep (it : Item) (k : Nat) (bs : List Byte) : Item := { it with got := (k, bs) :: it.got.filter (·.1 ≠ k) }

/-- PQ_SCAN's result area (R174). Counters: 0 queries done, 1 sum of FOUND, 2 codes scored, 3 short queries, 4 widened queries,
5 probe, 6 eligible, 7 skipped, 8 probes scanned, 9 widened probes, 10 stage of the query's end. -/
def scanResult (it : Item) (st : Nat) : Result :=
  { status := st, count := itCnt it 0, detail := min (itCnt it 1) (2 ^ 32 - 1), opResult := min (itCnt it 2) (2 ^ 64 - 1) }

/-- Scratch working list of a query as hits. -/
def workHits (it : Item) : List Hit :=
  let bs := kept it workKey
  upTo (bs.length / 16) fun j => { id := leAt bs (16 * j) 8, dist := leAt bs (16 * j + 8) 4, list := leAt bs (16 * j + 12) 4 }

/-- One probe of the running query scanned (R168, R169). -/
def scanProbe (s : State) (i : ItemId) (it : Item) (x : Idx) (list : Nat) : Ans :=
  let filt := it.buf.drop 128
  let k := opFld it 400 16
  let (s1, g) := itemRead s i (x.dir + 64 * list) 64
  onGotI s1 i (scanResult it 0) (x.dir + 64 * list) g fun e =>
    let codes := leAt e 0 8
    let tombAt := leAt e 16 8
    let n := leAt e 32 4
    if codes % 16384 ≠ 0 then failItem s1 i { scanResult it 0 with detail := list } 0xC1
    else
      let ntiles := (n * codeBytes x + 16383) / 16384
      let (s2, tg) := needTiles s1 i (upTo ntiles fun t => codes + 16384 * t)
      onGotI s2 i (scanResult it 0) codes tg fun ts =>
        let (s3, bg) := if tombAt = 0 || n = 0 then (s2, Got.ok []) else itemRead s2 i tombAt ((n + 7) / 8)
        onGotI s3 i (scanResult it 0) tombAt bg fun tb =>
          let code := byteGet (ts.flatMap Prod.snd)
          let tombs := byteGet tb
          let tab := kept it tableKey
          let tabGet := byteGet tab
          let table := fun k => BitVec.ofNat 32 (leNat (upTo 4 fun b => tabGet (4 * k + b)))
          let dist := fun j => codeDist (itCnt it 14 = 2) x table (upTo (codeBytes x) fun b => code (j * codeBytes x + b))
          let (s4, sg) := scanVecs s3 i (opFld it 432 2) k list filt (leAt e 8 8) (leAt e 24 8)
            (fun j => (tombs (j / 8)).getLsbD (j % 8)) dist (List.range n) { hits := workHits it }
          onGotI s4 i (scanResult it 0) (leAt e 8 8) sg fun sc =>
            .next (onItem s4 i fun y =>
              let z := keep y workKey (sc.hits.flatMap hitBytes)
              let b := leAt it.buf 68 4 % 2 ^ 13 - opFld it 416 16
              releaseTiles (addCnt (addCnt (addCnt (addCnt (addCnt (addCnt z 2 sc.scored) 6 sc.eligible) 7 sc.skipped) 8 1) 5 1) 9
                (if b ≤ itCnt it 5 then 1 else 0)))

/-- The running query ends: its list is written, contributed where GROUP is named, and counted (R173, R174, R176). -/
def scanFinish (s : State) (i : ItemId) (it : Item) : Ans :=
  let k := opFld it 400 16
  let q := itCnt it 0
  let found := min k (itCnt it 6)
  let h : HitHead := { k := k, found := found, probes := itCnt it 8, eligible := itCnt it 6, widened := itCnt it 9, skipped := itCnt it 7 }
  let bs := listBytes h (workHits it)
  let jva := opFld it 576 64 + q * listStride k
  if itCnt it 10 = 0 then
    let (s1, g) := itemStore s i jva bs
    onGotI s1 i (scanResult it 0) jva g fun _ => .next (onItem s1 i fun y => setCnt y 10 1)
  else
    let grp := opFld it 640 64
    let last : Bool := q + 1 = opFld it 384 16
    let p : Part := { chunk := q, last := last, opa := contribOpa 0 3 false 0 0 false last k, bytes := bs }
    let (s1, g) := if grp = 0 then (s, Got.ok ()) else contribute s it 0 grp p
    onGotI s1 i (scanResult it 0) grp g fun _ =>
      .next (onItem s1 i fun y =>
        let z := addCnt (addCnt (addCnt (addCnt y 0 1) 1 found) 3 (if found < k then 1 else 0)) 4 (if itCnt y 9 = 0 then 0 else 1)
        let z1 := setCnt (setCnt (setCnt (setCnt (setCnt (setCnt z 5 0) 6 0) 7 0) 8 0) 9 0) 10 0
        let z2 := { z1 with prog := 1, got := z1.got.filter fun g => g.1 ≠ workKey && g.1 ≠ tableKey }
        if last then
          let st := if itCnt z2 3 ≠ 0 then stShort else if itCnt z2 4 ≠ 0 then 0x80 else plainStatus z2
          { z2 with result := some (scanResult z2 st) }
        else z2)

/-- PQ_SCAN: the descriptors and checks, then for each query its distance table, its base probes, the widening and its result
list (R166 to R174). -/
def execPqScan (i : ItemId) (s : State) : Ans :=
  opRun s i 0x31 fun it =>
    let x := idxOf it.buf
    let probes := opFld it 448 64
    let nprobe := leAt it.buf 68 4 % 2 ^ 13
    let base := nprobe - opFld it 416 16
    if it.prog = 0 then
      let (s1, g) := itemRead s i (opFld it 256 64) 64
      onGotI s1 i {} (opFld it 256 64) g fun ib =>
        match idxStatus ib with
        | some st => failItem s1 i {} st
        | none =>
          let (s2, pg) := itemRead s1 i probes 64
          onGotI s2 i {} probes pg fun pb =>
            let h := leNat pb
            if fld h 0 4 ≠ 2 || fld h 4 4 ≠ 5 || fld h 64 64 ≠ opFld it 256 64 || fld h 8 13 < opFld it 384 16 then failItem s2 i {} 0xC0
            else if opFld it 400 16 = 0 || 1024 < opFld it 400 16 || fld h 32 13 ≤ opFld it 416 16 || opFld it 432 2 = 3 then
              failItem s2 i {} stMalformed
            else
              let (s3, fg) := if opFld it 432 2 = 0 then (s2, Got.ok (List.replicate 64 (0 : Byte))) else itemRead s2 i (opFld it 512 64) 64
              onGotI s3 i {} (opFld it 512 64) fg fun fb =>
                if (filterStatus (opFld it 432 2) fb).isSome || (opFld it 432 2 ≠ 0 && opFld it 512 64 % 64 ≠ 0) then failItem s3 i {} stMalformed
                else
                  let (s4, c) := itemClass s3 it (opFld it 576 64) (opFld it 256 64)
                  onGotI s4 i {} (opFld it 576 64) c fun _ => .next (onItem s4 i fun y => { y with prog := 1, buf := ib ++ pb ++ fb })
    else if it.prog = 1 then
      let (s1, qg) := readQuery s i it x (itCnt it 0)
      onGotI s1 i (scanResult it 0) (opFld it 320 64) qg fun qv =>
        let n := x.m * idxNc x * (x.dim / x.m)
        let (s2, bg) := itemRead s1 i x.book (n * elemBytes x.cb)
        onGotI s2 i (scanResult it 0) x.book bg fun bb =>
          let tab := distTable (itCnt it 14 = 2) x qv (rowVals x.cb n (byteGet bb))
          .next (onItem s2 i fun y => { keep y tableKey (tab.flatMap fun c => natLe 4 c.toNat) with prog := 2 })
    else
      let p := itCnt it 5
      let k := opFld it 400 16
      if nprobe ≤ p || (base ≤ p && k ≤ itCnt it 6) then scanFinish s i it
      else
        let ea := probes + 64 + itCnt it 0 * roundUp 64 (8 * nprobe) + 8 * p
        let (s1, g) := itemRead s i ea 8
        onGotI s1 i (scanResult it 0) ea g fun e =>
          let list := leAt e 0 4
          if list = 0xFFFFFFFF then scanFinish s1 i it
          else if x.nlist ≤ list then failItem s1 i { scanResult it 0 with detail := list } 0xC1
          else scanProbe s1 i it x list

/-! ## TOPK_MERGE -/

/-- The input lists in turn (R175): each takes its stride from the K of its own header. -/
def readLists (s : State) (i : ItemId) : Nat → Nat → State × Got (List (List Byte))
  | _, 0 => (s, .ok [])
  | jva, n + 1 =>
    match itemRead s i jva 64 with
    | (s1, .wait) => (s1, .wait)
    | (s1, .bad st) => (s1, .bad st)
    | (s1, .ok h) =>
      if listBad h then (s1, .bad stMalformed)
      else match itemRead s1 i jva (64 + 16 * (listHead h).found) with
        | (s2, .wait) => (s2, .wait)
        | (s2, .bad st) => (s2, .bad st)
        | (s2, .ok b) => match readLists s2 i (jva + listStride (listHead h).k) n with
          | (s3, .ok bs) => (s3, .ok (b :: bs))
          | (s3, .wait) => (s3, .wait)
          | (s3, .bad st) => (s3, .bad st)

/-- TOPK_MERGE (R175, R176): the merged list is written, contributed where GROUP is named, and the item ends. -/
def execTopkMerge (i : ItemId) (s : State) : Ans :=
  opRun s i 0x32 fun it =>
    let k := opFld it 336 16
    let out := opFld it 576 64
    if it.prog = 0 then
      let (s1, g) := readLists s i (opFld it 256 64) (opFld it 320 16)
      onGotI s1 i {} (opFld it 256 64) g fun ls =>
        let m := mergeLists k ls
        let (s2, sg) := itemStore s1 i out m
        onGotI s2 i {} out sg fun _ =>
          .next (onItem s2 i fun y => setCnt { y with prog := 1, buf := m } 2 ((ls.map fun l => (listHead l).found).sum))
    else
      let grp := opFld it 640 64
      let p : Part := { chunk := 0, last := true, opa := contribOpa 0 3 false 0 0 false true k, bytes := it.buf }
      let (s1, g) := if grp = 0 then (s, Got.ok ()) else contribute s it 0 grp p
      let found := (listHead it.buf).found
      let r : Result := { count := 1, detail := found, opResult := itCnt it 2 }
      onGotI s1 i r grp g fun _ => .next (endItem s1 i { r with status := if found < k then stShort else plainStatus it })

end Sys2Proof.Machine
end

