-- ==== Sys2Proof/Machine/Dispatch.lean ====
section
/-! DEFINITION. One arm per command: a direct call of its meaning. -/

namespace Sys2Proof.Machine

/-- What command `i` does to everything but the queue. -/
def exec (i : Instr) (s : State) : Host.Outcome State Fault Refusal :=
  match i with
  | .scrubRead site errs => Sys2Proof.Machine.execScrubRead site errs s
  | .scrubWriteBack site lpa => Sys2Proof.Machine.execScrubWriteBack site lpa s
  | .refreshRateRead temps => Sys2Proof.Machine.execRefreshRateRead temps s
  | .perBankRefresh site chan rank bank => Sys2Proof.Machine.execPerBankRefresh site chan rank bank s
  | .channelIssue site chan => Sys2Proof.Machine.execChannelIssue site chan s
  | .requestAgeExpire site chan => Sys2Proof.Machine.execRequestAgeExpire site chan s
  | .aggressorTableClear => Sys2Proof.Machine.execAggressorTableClear s
  | .hotTilePeriod h => Sys2Proof.Machine.execHotTilePeriod h s
  | .tileFillComplete h tile => Sys2Proof.Machine.execTileFillComplete h tile s
  | .tileFillAbandon h tile => Sys2Proof.Machine.execTileFillAbandon h tile s
  | .evictWritebackComplete h tile bad => Sys2Proof.Machine.execEvictWritebackComplete h tile bad s
  | .fetchBudgetLapse item k => Sys2Proof.Machine.execFetchBudgetLapse item k s
  | .tileFetchComplete item k => Sys2Proof.Machine.execTileFetchComplete item k s
  | .windowCounterUpdate ctx => Sys2Proof.Machine.execWindowCounterUpdate ctx s
  | .stoveDomainPowered h => Sys2Proof.Machine.execStoveDomainPowered h s
  | .slotTake h => Sys2Proof.Machine.execSlotTake h s
  | .itemComplete item => Sys2Proof.Machine.execItemComplete item s
  | .cancelDrainDone item => Sys2Proof.Machine.execCancelDrainDone item s
  | .itemMove item stove => Sys2Proof.Machine.execItemMove item stove s
  | .kernelCodeRead item => Sys2Proof.Machine.execKernelCodeRead item s
  | .runLimitExpire item => Sys2Proof.Machine.execRunLimitExpire item s
  | .tldPoolTimeout t => Sys2Proof.Machine.execTldPoolTimeout t s
  | .add t w => Sys2Proof.Machine.execAdd t w s
  | .sub t w => Sys2Proof.Machine.execSub t w s
  | .mul t w => Sys2Proof.Machine.execMul t w s
  | .mulhu t w => Sys2Proof.Machine.execMulhu t w s
  | .and t w => Sys2Proof.Machine.execAnd t w s
  | .or t w => Sys2Proof.Machine.execOr t w s
  | .xor t w => Sys2Proof.Machine.execXor t w s
  | .shl t w => Sys2Proof.Machine.execShl t w s
  | .shr t w => Sys2Proof.Machine.execShr t w s
  | .sar t w => Sys2Proof.Machine.execSar t w s
  | .minu t w => Sys2Proof.Machine.execMinu t w s
  | .maxu t w => Sys2Proof.Machine.execMaxu t w s
  | .min t w => Sys2Proof.Machine.execMin t w s
  | .max t w => Sys2Proof.Machine.execMax t w s
  | .li t w => Sys2Proof.Machine.execLi t w s
  | .lui t w => Sys2Proof.Machine.execLui t w s
  | .divu t w => Sys2Proof.Machine.execDivu t w s
  | .remu t w => Sys2Proof.Machine.execRemu t w s
  | .popc t w => Sys2Proof.Machine.execPopc t w s
  | .clz t w => Sys2Proof.Machine.execClz t w s
  | .ld t w ecc => Sys2Proof.Machine.execLd t w ecc s
  | .ldsx t w => Sys2Proof.Machine.execLdsx t w s
  | .st t w => Sys2Proof.Machine.execSt t w s
  | .ldv t w => Sys2Proof.Machine.execLdv t w s
  | .stv t w => Sys2Proof.Machine.execStv t w s
  | .stvh t w => Sys2Proof.Machine.execStvh t w s
  | .param t w => Sys2Proof.Machine.execParam t w s
  | .resw t w => Sys2Proof.Machine.execResw t w s
  | .tld t w ecc => Sys2Proof.Machine.execTld t w ecc s
  | .talloc t w => Sys2Proof.Machine.execTalloc t w s
  | .tst t w => Sys2Proof.Machine.execTst t w s
  | .trel t w => Sys2Proof.Machine.execTrel t w s
  | .trv t w => Sys2Proof.Machine.execTrv t w s
  | .twv t w => Sys2Proof.Machine.execTwv t w s
  | .ttag t w => Sys2Proof.Machine.execTtag t w s
  | .twait t w => Sys2Proof.Machine.execTwait t w s
  | .tcvt t w => Sys2Proof.Machine.execTcvt t w s
  | .mwld t w => Sys2Proof.Machine.execMwld t w s
  | .mmv t w => Sys2Proof.Machine.execMmv t w s
  | .mtv t w => Sys2Proof.Machine.execMtv t w s
  | .vadd t w => Sys2Proof.Machine.execVadd t w s
  | .vsub t w => Sys2Proof.Machine.execVsub t w s
  | .vmul t w => Sys2Proof.Machine.execVmul t w s
  | .vmax t w => Sys2Proof.Machine.execVmax t w s
  | .vmin t w => Sys2Proof.Machine.execVmin t w s
  | .vfma t w => Sys2Proof.Machine.execVfma t w s
  | .vcvt t w => Sys2Proof.Machine.execVcvt t w s
  | .vbc t w => Sys2Proof.Machine.execVbc t w s
  | .vext t w => Sys2Proof.Machine.execVext t w s
  | .vins t w => Sys2Proof.Machine.execVins t w s
  | .aclr t w => Sys2Proof.Machine.execAclr t w s
  | .aout t w => Sys2Proof.Machine.execAout t w s
  | .aaddv t w => Sys2Proof.Machine.execAaddv t w s
  | .alsum t w => Sys2Proof.Machine.execAlsum t w s
  | .axp t w => Sys2Proof.Machine.execAxp t w s
  | .axi t w => Sys2Proof.Machine.execAxi t w s
  | .acomb t w => Sys2Proof.Machine.execAcomb t w s
  | .ceq t w => Sys2Proof.Machine.execCeq t w s
  | .cne t w => Sys2Proof.Machine.execCne t w s
  | .cltu t w => Sys2Proof.Machine.execCltu t w s
  | .clt t w => Sys2Proof.Machine.execClt t w s
  | .cgeu t w => Sys2Proof.Machine.execCgeu t w s
  | .cge t w => Sys2Proof.Machine.execCge t w s
  | .sel t w => Sys2Proof.Machine.execSel t w s
  | .pand t w => Sys2Proof.Machine.execPand t w s
  | .por t w => Sys2Proof.Machine.execPor t w s
  | .pxor t w => Sys2Proof.Machine.execPxor t w s
  | .pnot t w => Sys2Proof.Machine.execPnot t w s
  | .vcmplt t w => Sys2Proof.Machine.execVcmplt t w s
  | .vcmpeq t w => Sys2Proof.Machine.execVcmpeq t w s
  | .vsel t w => Sys2Proof.Machine.execVsel t w s
  | .vany t w => Sys2Proof.Machine.execVany t w s
  | .amadd t w => Sys2Proof.Machine.execAmadd t w s
  | .amand t w => Sys2Proof.Machine.execAmand t w s
  | .amor t w => Sys2Proof.Machine.execAmor t w s
  | .amxor t w => Sys2Proof.Machine.execAmxor t w s
  | .amminu t w => Sys2Proof.Machine.execAmminu t w s
  | .ammaxu t w => Sys2Proof.Machine.execAmmaxu t w s
  | .ammin t w => Sys2Proof.Machine.execAmmin t w s
  | .ammax t w => Sys2Proof.Machine.execAmmax t w s
  | .amswp t w => Sys2Proof.Machine.execAmswp t w s
  | .amcas t w => Sys2Proof.Machine.execAmcas t w s
  | .amfadd t w => Sys2Proof.Machine.execAmfadd t w s
  | .cntadd t w => Sys2Proof.Machine.execCntadd t w s
  | .cntwait t w => Sys2Proof.Machine.execCntwait t w s
  | .cntrd t w => Sys2Proof.Machine.execCntrd t w s
  | .flagwait t w => Sys2Proof.Machine.execFlagwait t w s
  | .flagwaitPoll t => Sys2Proof.Machine.execFlagwaitPoll t s
  | .flagwaitTimeout t => Sys2Proof.Machine.execFlagwaitTimeout t s
  | .flagcas t w => Sys2Proof.Machine.execFlagcas t w s
  | .pqlut t w => Sys2Proof.Machine.execPqlut t w s
  | .pqscan t w => Sys2Proof.Machine.execPqscan t w s
  | .topkins t w => Sys2Proof.Machine.execTopkins t w s
  | .topkmrg t w => Sys2Proof.Machine.execTopkmrg t w s
  | .bmtest t w => Sys2Proof.Machine.execBmtest t w s
  | .hashm t w => Sys2Proof.Machine.execHashm t w s
  | .qr t w => Sys2Proof.Machine.execQr t w s
  | .coali t w => Sys2Proof.Machine.execCoali t w s
  | .coaln t w => Sys2Proof.Machine.execCoaln t w s
  | .rowupd t w => Sys2Proof.Machine.execRowupd t w s
  | .br t w => Sys2Proof.Machine.execBr t w s
  | .jal t w => Sys2Proof.Machine.execJal t w s
  | .jr t w => Sys2Proof.Machine.execJr t w s
  | .loop t w => Sys2Proof.Machine.execLoop t w s
  | .yield t w => Sys2Proof.Machine.execYield t w s
  | .exit t w => Sys2Proof.Machine.execExit t w s
  | .trap t w => Sys2Proof.Machine.execTrap t w s
  | .pcnt t w => Sys2Proof.Machine.execPcnt t w s
  | .ccnt t w => Sys2Proof.Machine.execCcnt t w s
  | .fenceInstr t w => Sys2Proof.Machine.execFenceInstr t w s
  | .fenced t w => Sys2Proof.Machine.execFenced t w s
  | .fenceCountZero r => Sys2Proof.Machine.execFenceCountZero r s
  | .nop item => Sys2Proof.Machine.execNop item s
  | .copy item => Sys2Proof.Machine.execCopy item s
  | .fill item => Sys2Proof.Machine.execFill item s
  | .gather item => Sys2Proof.Machine.execGather item s
  | .scatterUpdate item => Sys2Proof.Machine.execScatterUpdate item s
  | .rowLockRelease h line => Sys2Proof.Machine.execRowLockRelease h line s
  | .ivfProbe item => Sys2Proof.Machine.execIvfProbe item s
  | .pqScan item => Sys2Proof.Machine.execPqScan item s
  | .topkMerge item => Sys2Proof.Machine.execTopkMerge item s
  | .matvec item => Sys2Proof.Machine.execMatvec item s
  | .gateOpen item => Sys2Proof.Machine.execGateOpen item s
  | .gateExpired item => Sys2Proof.Machine.execGateExpired item s
  | .segmentComplete item => Sys2Proof.Machine.execSegmentComplete item s
  | .attend item => Sys2Proof.Machine.execAttend item s
  | .reduceLocal item => Sys2Proof.Machine.execReduceLocal item s
  | .reduceGroup item => Sys2Proof.Machine.execReduceGroup item s
  | .prefetchTranslate item => Sys2Proof.Machine.execPrefetchTranslate item s
  | .prefetchTier0 item => Sys2Proof.Machine.execPrefetchTier0 item s
  | .advisePin item => Sys2Proof.Machine.execAdvisePin item s
  | .adviseUnpin item => Sys2Proof.Machine.execAdviseUnpin item s
  | .advisePair item => Sys2Proof.Machine.execAdvisePair item s
  | .adviseUnpair item => Sys2Proof.Machine.execAdviseUnpair item s
  | .adviseRemap item => Sys2Proof.Machine.execAdviseRemap item s
  | .publish item => Sys2Proof.Machine.execPublish item s
  | .kernel item => Sys2Proof.Machine.execKernel item s
  | .hello a f => Sys2Proof.Machine.execHello a f s
  | .linkTrained link agrees => Sys2Proof.Machine.execLinkTrained link agrees s
  | .helloRepeat link => Sys2Proof.Machine.execHelloRepeat link s
  | .ctxOpen a f => Sys2Proof.Machine.execCtxOpen a f s
  | .ctxClose a f => Sys2Proof.Machine.execCtxClose a f s
  | .fence a f => Sys2Proof.Machine.execFence a f s
  | .fenceGapTimeout ctx seq => Sys2Proof.Machine.execFenceGapTimeout ctx seq s
  | .read a f => Sys2Proof.Machine.execRead a f s
  | .write a f => Sys2Proof.Machine.execWrite a f s
  | .writePush a f => Sys2Proof.Machine.execWritePush a f s
  | .tileRead a f => Sys2Proof.Machine.execTileRead a f s
  | .tileWrite a f => Sys2Proof.Machine.execTileWrite a f s
  | .atomic a f => Sys2Proof.Machine.execAtomic a f s
  | .scatterUpdateRequest a f => Sys2Proof.Machine.execScatterUpdateRequest a f s
  | .publishRequest a f => Sys2Proof.Machine.execPublishRequest a f s
  | .leaseAcquire a f => Sys2Proof.Machine.execLeaseAcquire a f s
  | .leaseRenew a f => Sys2Proof.Machine.execLeaseRenew a f s
  | .leaseRelease a f => Sys2Proof.Machine.execLeaseRelease a f s
  | .leaseQuery a f => Sys2Proof.Machine.execLeaseQuery a f s
  | .leaseLapse no => Sys2Proof.Machine.execLeaseLapse no s
  | .revokeDrainDone h slot => Sys2Proof.Machine.execRevokeDrainDone h slot s
  | .snapCreate a f => Sys2Proof.Machine.execSnapCreate a f s
  | .snapOpen a f => Sys2Proof.Machine.execSnapOpen a f s
  | .snapClose a f => Sys2Proof.Machine.execSnapClose a f s
  | .snapQuery a f => Sys2Proof.Machine.execSnapQuery a f s
  | .snapDestroy a f => Sys2Proof.Machine.execSnapDestroy a f s
  | .cowCopyDone lpa => Sys2Proof.Machine.execCowCopyDone lpa s
  | .extentZeroingDone h slot => Sys2Proof.Machine.execExtentZeroingDone h slot s
  | .contrib a f => Sys2Proof.Machine.execContrib a f s
  | .deliver a f => Sys2Proof.Machine.execDeliver a f s
  | .roundComplete reg round => Sys2Proof.Machine.execRoundComplete reg round s
  | .roundLimitExpire reg round => Sys2Proof.Machine.execRoundLimitExpire reg round s
  | .cohRdS a f => Sys2Proof.Machine.execCohRdS a f s
  | .rdX a f => Sys2Proof.Machine.execRdX a f s
  | .upgrade a f => Sys2Proof.Machine.execUpgrade a f s
  | .atom a f => Sys2Proof.Machine.execAtom a f s
  | .evictS a f => Sys2Proof.Machine.execEvictS a f s
  | .evictX a f => Sys2Proof.Machine.execEvictX a f s
  | .wb a f => Sys2Proof.Machine.execWb a f s
  | .fetch a f => Sys2Proof.Machine.execFetch a f s
  | .ackI a f => Sys2Proof.Machine.execAckI a f s
  | .ackS a f => Sys2Proof.Machine.execAckS a f s
  | .ackDataI a f => Sys2Proof.Machine.execAckDataI a f s
  | .ackDataS a f => Sys2Proof.Machine.execAckDataS a f s
  | .ackFwd a f => Sys2Proof.Machine.execAckFwd a f s
  | .snpInv a f => Sys2Proof.Machine.execSnpInv a f s
  | .snpDown a f => Sys2Proof.Machine.execSnpDown a f s
  | .snpFwdS a f => Sys2Proof.Machine.execSnpFwdS a f s
  | .snpFwdX a f => Sys2Proof.Machine.execSnpFwdX a f s
  | .snpDev a f => Sys2Proof.Machine.execSnpDev a f s
  | .fwdData a f => Sys2Proof.Machine.execFwdData a f s
  | .pendResend h line => Sys2Proof.Machine.execPendResend h line s
  | .snoopTimeout h line agent => Sys2Proof.Machine.execSnoopTimeout h line agent s
  | .cutoffExpire agent => Sys2Proof.Machine.execCutoffExpire agent s
  | .inval a f => Sys2Proof.Machine.execInval a f s
  | .mgmtRead a f => Sys2Proof.Machine.execMgmtRead a f s
  | .mgmtWrite a f => Sys2Proof.Machine.execMgmtWrite a f s
  | .responseReceive a f => Sys2Proof.Machine.execResponseReceive a f s
  | .retransmitTimeout k => Sys2Proof.Machine.execRetransmitTimeout k s
  | .frameDamaged link why => Sys2Proof.Machine.execFrameDamaged link why s
  | .assemblyTimeout k => Sys2Proof.Machine.execAssemblyTimeout k s
  | .epochHoldTimeout k => Sys2Proof.Machine.execEpochHoldTimeout k s
  | .linkDown link cause => Sys2Proof.Machine.execLinkDown link cause s
  | .dozeNotice link => Sys2Proof.Machine.execDozeNotice link s
  | .frameTxEnd link => Sys2Proof.Machine.execFrameTxEnd link s
  | .gclIntervalEnd flue => Sys2Proof.Machine.execGclIntervalEnd flue s
  | .gateListAt flue => Sys2Proof.Machine.execGateListAt flue s
  | .walkReadComplete k ecc => Sys2Proof.Machine.execWalkReadComplete k ecc s
  | .faultRecordWrite job => Sys2Proof.Machine.execFaultRecordWrite job s
  | .faultRetry id => Sys2Proof.Machine.execFaultRetry id s
  | .faultDecline id => Sys2Proof.Machine.execFaultDecline id s
  | .translationTimeout k => Sys2Proof.Machine.execTranslationTimeout k s
  | .probe a f => Sys2Proof.Machine.execProbe a f s
  | .probeTimer => Sys2Proof.Machine.execProbeTimer s
  | .probeAck a f => Sys2Proof.Machine.execProbeAck a f s
  | .probeMiss pos => Sys2Proof.Machine.execProbeMiss pos s
  | .suspect a f => Sys2Proof.Machine.execSuspect a f s
  | .propose a f => Sys2Proof.Machine.execPropose a f s
  | .accept a f => Sys2Proof.Machine.execAccept a f s
  | .commit a f => Sys2Proof.Machine.execCommit a f s
  | .proposalTimeout => Sys2Proof.Machine.execProposalTimeout s
  | .collect a f => Sys2Proof.Machine.execCollect a f s
  | .mapRead a f => Sys2Proof.Machine.execMapRead a f s
  | .join a f => Sys2Proof.Machine.execJoin a f s
  | .mirrorWr a f => Sys2Proof.Machine.execMirrorWr a f s
  | .parityXor a f => Sys2Proof.Machine.execParityXor a f s
  | .journal a f => Sys2Proof.Machine.execJournal a f s
  | .journalRead a f => Sys2Proof.Machine.execJournalRead a f s
  | .rebuildRead a f => Sys2Proof.Machine.execRebuildRead a f s
  | .selfFence => Sys2Proof.Machine.execSelfFence s
  | .spareServe wins => Sys2Proof.Machine.execSpareServe wins s
  | .spareAbsentTimeout => Sys2Proof.Machine.execSpareAbsentTimeout s
  | .rebuildUnitDone k => Sys2Proof.Machine.execRebuildUnitDone k s
  | .moveCopyDone k => Sys2Proof.Machine.execMoveCopyDone k s
  | .auxRailUp => Sys2Proof.Machine.execAuxRailUp s
  | .auxRailLoss => Sys2Proof.Machine.execAuxRailLoss s
  | .internalResetRelease straps => Sys2Proof.Machine.execInternalResetRelease straps s
  | .modResetAssert => Sys2Proof.Machine.execModResetAssert s
  | .firebrickRead => Sys2Proof.Machine.execFirebrickRead s
  | .imageVerify => Sys2Proof.Machine.execImageVerify s
  | .serviceFlueTraining s0 s1 => Sys2Proof.Machine.execServiceFlueTraining s0 s1 s
  | .siteTraining results => Sys2Proof.Machine.execSiteTraining results s
  | .zeroInitialisation => Sys2Proof.Machine.execZeroInitialisation s
  | .quickShadowTest eyes => Sys2Proof.Machine.execQuickShadowTest eyes s
  | .fabricFlueTraining up => Sys2Proof.Machine.execFabricFlueTraining up s
  | .cellJoin => Sys2Proof.Machine.execCellJoin s
  | .joinWaitRecord => Sys2Proof.Machine.execJoinWaitRecord s
  | .ready => Sys2Proof.Machine.execReady s
  | .watchdogExpire => Sys2Proof.Machine.execWatchdogExpire s
  | .linkRetrainTimer => Sys2Proof.Machine.execLinkRetrainTimer s
  | .powerFailAssert => Sys2Proof.Machine.execPowerFailAssert s
  | .powerFailDeassert => Sys2Proof.Machine.execPowerFailDeassert s
  | .vinMonitorTrip => Sys2Proof.Machine.execVinMonitorTrip s
  | .modPresentBreak => Sys2Proof.Machine.execModPresentBreak s
  | .claim a f b => Sys2Proof.Machine.execClaim a f b s
  | .submit a f b => Sys2Proof.Machine.execSubmit a f b s
  | .bufferRelease a f b => Sys2Proof.Machine.execBufferRelease a f b s
  | .attest a f b => Sys2Proof.Machine.execAttest a f b s
  | .imageEnd a f b => Sys2Proof.Machine.execImageEnd a f b s
  | .bufferIdleTimeout b => Sys2Proof.Machine.execBufferIdleTimeout b s
  | .imageBegin b => Sys2Proof.Machine.execImageBegin b s
  | .rollbackTo b => Sys2Proof.Machine.execRollbackTo b s
  | .keyProgram b => Sys2Proof.Machine.execKeyProgram b s
  | .keyGrant b => Sys2Proof.Machine.execKeyGrant b s
  | .keyRevoke b => Sys2Proof.Machine.execKeyRevoke b s
  | .lock b => Sys2Proof.Machine.execLock b s
  | .jobSet b => Sys2Proof.Machine.execJobSet b s
  | .jobDelete b => Sys2Proof.Machine.execJobDelete b s
  | .rowgroupMode b => Sys2Proof.Machine.execRowgroupMode b s
  | .extentCreate b => Sys2Proof.Machine.execExtentCreate b s
  | .extentRemove b => Sys2Proof.Machine.execExtentRemove b s
  | .extentAssign b => Sys2Proof.Machine.execExtentAssign b s
  | .extentClear b => Sys2Proof.Machine.execExtentClear b s
  | .leaseRevoke b => Sys2Proof.Machine.execLeaseRevoke b s
  | .leaseBounds b => Sys2Proof.Machine.execLeaseBounds b s
  | .funcSet b => Sys2Proof.Machine.execFuncSet b s
  | .funcDrainDone => Sys2Proof.Machine.execFuncDrainDone s
  | .route b => Sys2Proof.Machine.execRoute b s
  | .policer b => Sys2Proof.Machine.execPolicer b s
  | .overhead b => Sys2Proof.Machine.execOverhead b s
  | .shaper b => Sys2Proof.Machine.execShaper b s
  | .gateList b => Sys2Proof.Machine.execGateList b s
  | .siteState b => Sys2Proof.Machine.execSiteState b s
  | .testRun b => Sys2Proof.Machine.execTestRun b s
  | .testComplete site errors => Sys2Proof.Machine.execTestComplete site errors s
  | .extentMove b => Sys2Proof.Machine.execExtentMove b s
  | .powerSetState b => Sys2Proof.Machine.execPowerSetState b s
  | .powerSetSection b => Sys2Proof.Machine.execPowerSetSection b s
  | .ashpitSet b => Sys2Proof.Machine.execAshpitSet b s
  | .moduleParams b => Sys2Proof.Machine.execModuleParams b s
  | .flueSet b => Sys2Proof.Machine.execFlueSet b s
  | .reset b => Sys2Proof.Machine.execReset b s
  | .resetDelayExpire => Sys2Proof.Machine.execResetDelayExpire s
  | .entryComplete => Sys2Proof.Machine.execEntryComplete s
  | .exitComplete us => Sys2Proof.Machine.execExitComplete us s
  | .wakePattern link => Sys2Proof.Machine.execWakePattern link s
  | .signalReturn flue => Sys2Proof.Machine.execSignalReturn flue s
  | .modWake => Sys2Proof.Machine.execModWake s
  | .wakeTimer => Sys2Proof.Machine.execWakeTimer s
  | .smoulderSample r => Sys2Proof.Machine.execSmoulderSample r s
  | .spareReentryTimer => Sys2Proof.Machine.execSpareReentryTimer s
  | .phaseEmberTimer => Sys2Proof.Machine.execPhaseEmberTimer s
  | .autoIdleExpire h => Sys2Proof.Machine.execAutoIdleExpire h s
  | .domainReturn d => Sys2Proof.Machine.execDomainReturn d s
  | .throttleChange h temp => Sys2Proof.Machine.execThrottleChange h temp s
  | .overtempTrip sensor temp => Sys2Proof.Machine.execOvertempTrip sensor temp s
  | .overtempClear temps => Sys2Proof.Machine.execOvertempClear temps s
  | .rateLimitPeriod => Sys2Proof.Machine.execRateLimitPeriod s
  | .ashNvmWrite acked => Sys2Proof.Machine.execAshNvmWrite acked s
  | .ashWindowRead a f => Sys2Proof.Machine.execAshWindowRead a f s
  | .cursorClaim a f c => Sys2Proof.Machine.execCursorClaim a f c s
  | .cursorSet a f c => Sys2Proof.Machine.execCursorSet a f c s
  | .cursorRelease a f c => Sys2Proof.Machine.execCursorRelease a f c s
  | .cursorIdleTimeout c => Sys2Proof.Machine.execCursorIdleTimeout c s
  | .operatingSecond temps => Sys2Proof.Machine.execOperatingSecond temps s
  | .droopDetect rail depth dur => Sys2Proof.Machine.execDroopDetect rail depth dur s
  | .shadowTest r => Sys2Proof.Machine.execShadowTest r s
  | .meteringInterval mj => Sys2Proof.Machine.execMeteringInterval mj s
  | .smbPointerSet data => Sys2Proof.Machine.execSmbPointerSet data s
  | .smbBlockRead => Sys2Proof.Machine.execSmbBlockRead s
  | .smbQuickStatus => Sys2Proof.Machine.execSmbQuickStatus s
  | .smbAlertResponse => Sys2Proof.Machine.execSmbAlertResponse s
  | .smbClockTimeout => Sys2Proof.Machine.execSmbClockTimeout s
  | .recHoldAssert => Sys2Proof.Machine.execRecHoldAssert s
  | .recHoldDeassert => Sys2Proof.Machine.execRecHoldDeassert s
  | .idcode => Sys2Proof.Machine.execIdcode s
  | .bypass => Sys2Proof.Machine.execBypass s
  | .extest => Sys2Proof.Machine.execExtest s
  | .intest => Sys2Proof.Machine.execIntest s
  | .clamp => Sys2Proof.Machine.execClamp s
  | .extestPulse => Sys2Proof.Machine.execExtestPulse s
  | .extestTrain => Sys2Proof.Machine.execExtestTrain s
  | .shaperEligible link cls => Sys2Proof.Machine.execShaperEligible link cls s
  | .serviceFlueLinkUp link => Sys2Proof.Machine.execServiceFlueLinkUp link s
  | .pauseFrame link => Sys2Proof.Machine.execPauseFrame link s
  | .unsupportedType a f => Sys2Proof.Machine.execUnsupportedType a f s
  | .transitFrame a f => Sys2Proof.Machine.execTransitFrame a f s
  | .testLogicReset => Sys2Proof.Machine.execTestLogicReset s

end Sys2Proof.Machine
end

