-- ==== Sys2Proof/Machine/Tick.lean ====
section
/-! DEFINITION. The passing of time: one tick of the Pilot. -/

namespace Sys2Proof.Machine

/-- One Pilot tick (R11): the Chimney count gains 1,250,000 / 1,024 cycles (R255), so the count times 1,024 stays whole. -/
def tick (s : State) : State :=
  { s with clk := { s.clk with pilot := s.clk.pilot + 1, chimney1024 := s.clk.chimney1024 + 1250000 } }

end Sys2Proof.Machine
end

