-- ==== Sys2Proof/WellFormed.lean ====
section
/-! DEFINITION. Well-formed commands: every operand lies in the range that the hardware has for it. A meaning does not
depend on this check; it says which terms are commands of the block. -/

namespace Sys2Proof

/-- Identifiers below the widths of R201, and a payload of at most 4,096 bytes with its length. -/
def Frame.wf (f : Frame) : Bool :=
  decide (f.rev < 16 ∧ f.tc < 8 ∧ f.typ < 256 ∧ f.status < 256 ∧ f.dstDev < 2 ^ 14 ∧ f.srcDev < 2 ^ 14 ∧ f.srcCtx < 2 ^ 16 ∧
    f.job < 2 ^ 20 ∧ f.epoch < 256 ∧ f.cell < 256 ∧ f.tag < 2 ^ 16 ∧ f.hops < 256 ∧ f.len < 2 ^ 16 ∧ f.frag < 256 ∧
    f.fwdFrom < 2 ^ 14 ∧ f.fragsM1 < 256 ∧ f.srcLink < 128) && decide (f.payload.length ≤ 4096)

/-- A link that exists: 96 fabric links and 2 of the service Flues (R228). -/
def linkOk (l : Nat) : Bool := decide (l < 98)

/-- An arrival on a link that exists, with an address and port of their widths. -/
def Arrival.wf (a : Arrival) : Bool := linkOk a.link && decide (a.ip < 2 ^ 128 ∧ a.port < 65536)

/-- A thread of one Stove. -/
def ThreadRef.wf (t : ThreadRef) : Bool := decide (t.n < 256)

/-- Class and operation of a command that is a Stove instruction (R114). -/
def stoveOp : Instr → Option (Nat × Nat)
  | .add _ _ => some (0, 0)
  | .sub _ _ => some (0, 1)
  | .mul _ _ => some (0, 2)
  | .mulhu _ _ => some (0, 3)
  | .and _ _ => some (0, 4)
  | .or _ _ => some (0, 5)
  | .xor _ _ => some (0, 6)
  | .shl _ _ => some (0, 7)
  | .shr _ _ => some (0, 8)
  | .sar _ _ => some (0, 9)
  | .minu _ _ => some (0, 10)
  | .maxu _ _ => some (0, 11)
  | .min _ _ => some (0, 12)
  | .max _ _ => some (0, 13)
  | .li _ _ => some (0, 14)
  | .lui _ _ => some (0, 15)
  | .divu _ _ => some (0, 16)
  | .remu _ _ => some (0, 17)
  | .popc _ _ => some (0, 18)
  | .clz _ _ => some (0, 19)
  | .ld _ _ _ => some (1, 0)
  | .ldsx _ _ => some (1, 1)
  | .st _ _ => some (1, 2)
  | .ldv _ _ => some (1, 3)
  | .stv _ _ => some (1, 4)
  | .stvh _ _ => some (1, 5)
  | .param _ _ => some (1, 6)
  | .resw _ _ => some (1, 7)
  | .tld _ _ _ => some (2, 0)
  | .talloc _ _ => some (2, 1)
  | .tst _ _ => some (2, 2)
  | .trel _ _ => some (2, 3)
  | .trv _ _ => some (2, 4)
  | .twv _ _ => some (2, 5)
  | .ttag _ _ => some (2, 6)
  | .twait _ _ => some (2, 7)
  | .tcvt _ _ => some (2, 8)
  | .mwld _ _ => some (3, 0)
  | .mmv _ _ => some (3, 1)
  | .mtv _ _ => some (3, 2)
  | .vadd _ _ => some (3, 3)
  | .vsub _ _ => some (3, 4)
  | .vmul _ _ => some (3, 5)
  | .vmax _ _ => some (3, 6)
  | .vmin _ _ => some (3, 7)
  | .vfma _ _ => some (3, 8)
  | .vcvt _ _ => some (3, 9)
  | .vbc _ _ => some (3, 10)
  | .vext _ _ => some (3, 11)
  | .vins _ _ => some (3, 12)
  | .aclr _ _ => some (4, 0)
  | .aout _ _ => some (4, 1)
  | .aaddv _ _ => some (4, 2)
  | .alsum _ _ => some (4, 3)
  | .axp _ _ => some (4, 4)
  | .axi _ _ => some (4, 5)
  | .acomb _ _ => some (4, 6)
  | .ceq _ _ => some (5, 0)
  | .cne _ _ => some (5, 1)
  | .cltu _ _ => some (5, 2)
  | .clt _ _ => some (5, 3)
  | .cgeu _ _ => some (5, 4)
  | .cge _ _ => some (5, 5)
  | .sel _ _ => some (5, 6)
  | .pand _ _ => some (5, 7)
  | .por _ _ => some (5, 8)
  | .pxor _ _ => some (5, 9)
  | .pnot _ _ => some (5, 10)
  | .vcmplt _ _ => some (5, 16)
  | .vcmpeq _ _ => some (5, 17)
  | .vsel _ _ => some (5, 18)
  | .vany _ _ => some (5, 19)
  | .amadd _ _ => some (6, 0)
  | .amand _ _ => some (6, 1)
  | .amor _ _ => some (6, 2)
  | .amxor _ _ => some (6, 3)
  | .amminu _ _ => some (6, 4)
  | .ammaxu _ _ => some (6, 5)
  | .ammin _ _ => some (6, 6)
  | .ammax _ _ => some (6, 7)
  | .amswp _ _ => some (6, 8)
  | .amcas _ _ => some (6, 9)
  | .amfadd _ _ => some (6, 10)
  | .cntadd _ _ => some (7, 0)
  | .cntwait _ _ => some (7, 1)
  | .cntrd _ _ => some (7, 2)
  | .flagwait _ _ => some (7, 3)
  | .flagcas _ _ => some (7, 4)
  | .pqlut _ _ => some (8, 0)
  | .pqscan _ _ => some (8, 1)
  | .topkins _ _ => some (8, 2)
  | .topkmrg _ _ => some (8, 3)
  | .bmtest _ _ => some (8, 4)
  | .hashm _ _ => some (9, 0)
  | .qr _ _ => some (9, 1)
  | .coali _ _ => some (9, 2)
  | .coaln _ _ => some (9, 3)
  | .rowupd _ _ => some (9, 4)
  | .br _ _ => some (10, 0)
  | .jal _ _ => some (10, 1)
  | .jr _ _ => some (10, 2)
  | .loop _ _ => some (10, 3)
  | .yield _ _ => some (10, 4)
  | .exit _ _ => some (10, 5)
  | .trap _ _ => some (10, 6)
  | .pcnt _ _ => some (10, 7)
  | .ccnt _ _ => some (10, 8)
  | .fenceInstr _ _ => some (11, 0)
  | .fenced _ _ => some (11, 1)
  | _ => none

/-- The word of a Stove instruction carries its class and operation. -/
def wordOk (i : Instr) (t : ThreadRef) (w : BitVec 64) : Bool :=
  t.wf && decide (stoveOp i = some (wordFld w 60 4, wordFld w 54 6))

/-- A well-formed command. -/
def Instr.wf (i : Instr) : Bool :=
  match i with
  | .scrubRead site _ => decide (site < 32)
  | .scrubWriteBack site lpa => decide (site < 32) && decide (lpa < 2 ^ 42)
  | .refreshRateRead temps => decide (temps.length ≤ 32)
  | .perBankRefresh site chan rank bank => decide (site < 32) && decide (chan < 8) && decide (rank < 2) && decide (bank < 16)
  | .channelIssue site chan => decide (site < 32) && decide (chan < 8)
  | .requestAgeExpire site chan => decide (site < 32) && decide (chan < 8)
  | .aggressorTableClear => true
  | .hotTilePeriod h => decide (h < 8)
  | .tileFillComplete h tile => decide (h < 8) && decide (tile < 2 ^ 28)
  | .tileFillAbandon h tile => decide (h < 8) && decide (tile < 2 ^ 28)
  | .evictWritebackComplete h tile _ => decide (h < 8) && decide (tile < 2 ^ 28)
  | .fetchBudgetLapse _ _ => true
  | .tileFetchComplete _ _ => true
  | .windowCounterUpdate ctx => decide (ctx < 2 ^ 16)
  | .stoveDomainPowered h => decide (h < 8)
  | .slotTake h => decide (h < 8)
  | .itemComplete _ => true
  | .cancelDrainDone _ => true
  | .itemMove _ stove => decide (stove < 32)
  | .kernelCodeRead _ => true
  | .runLimitExpire _ => true
  | .tldPoolTimeout t => t.wf
  | .add t w => wordOk i t w
  | .sub t w => wordOk i t w
  | .mul t w => wordOk i t w
  | .mulhu t w => wordOk i t w
  | .and t w => wordOk i t w
  | .or t w => wordOk i t w
  | .xor t w => wordOk i t w
  | .shl t w => wordOk i t w
  | .shr t w => wordOk i t w
  | .sar t w => wordOk i t w
  | .minu t w => wordOk i t w
  | .maxu t w => wordOk i t w
  | .min t w => wordOk i t w
  | .max t w => wordOk i t w
  | .li t w => wordOk i t w
  | .lui t w => wordOk i t w
  | .divu t w => wordOk i t w
  | .remu t w => wordOk i t w
  | .popc t w => wordOk i t w
  | .clz t w => wordOk i t w
  | .ld t w _ => wordOk i t w
  | .ldsx t w => wordOk i t w
  | .st t w => wordOk i t w
  | .ldv t w => wordOk i t w
  | .stv t w => wordOk i t w
  | .stvh t w => wordOk i t w
  | .param t w => wordOk i t w
  | .resw t w => wordOk i t w
  | .tld t w _ => wordOk i t w
  | .talloc t w => wordOk i t w
  | .tst t w => wordOk i t w
  | .trel t w => wordOk i t w
  | .trv t w => wordOk i t w
  | .twv t w => wordOk i t w
  | .ttag t w => wordOk i t w
  | .twait t w => wordOk i t w
  | .tcvt t w => wordOk i t w
  | .mwld t w => wordOk i t w
  | .mmv t w => wordOk i t w
  | .mtv t w => wordOk i t w
  | .vadd t w => wordOk i t w
  | .vsub t w => wordOk i t w
  | .vmul t w => wordOk i t w
  | .vmax t w => wordOk i t w
  | .vmin t w => wordOk i t w
  | .vfma t w => wordOk i t w
  | .vcvt t w => wordOk i t w
  | .vbc t w => wordOk i t w
  | .vext t w => wordOk i t w
  | .vins t w => wordOk i t w
  | .aclr t w => wordOk i t w
  | .aout t w => wordOk i t w
  | .aaddv t w => wordOk i t w
  | .alsum t w => wordOk i t w
  | .axp t w => wordOk i t w
  | .axi t w => wordOk i t w
  | .acomb t w => wordOk i t w
  | .ceq t w => wordOk i t w
  | .cne t w => wordOk i t w
  | .cltu t w => wordOk i t w
  | .clt t w => wordOk i t w
  | .cgeu t w => wordOk i t w
  | .cge t w => wordOk i t w
  | .sel t w => wordOk i t w
  | .pand t w => wordOk i t w
  | .por t w => wordOk i t w
  | .pxor t w => wordOk i t w
  | .pnot t w => wordOk i t w
  | .vcmplt t w => wordOk i t w
  | .vcmpeq t w => wordOk i t w
  | .vsel t w => wordOk i t w
  | .vany t w => wordOk i t w
  | .amadd t w => wordOk i t w
  | .amand t w => wordOk i t w
  | .amor t w => wordOk i t w
  | .amxor t w => wordOk i t w
  | .amminu t w => wordOk i t w
  | .ammaxu t w => wordOk i t w
  | .ammin t w => wordOk i t w
  | .ammax t w => wordOk i t w
  | .amswp t w => wordOk i t w
  | .amcas t w => wordOk i t w
  | .amfadd t w => wordOk i t w
  | .cntadd t w => wordOk i t w
  | .cntwait t w => wordOk i t w
  | .cntrd t w => wordOk i t w
  | .flagwait t w => wordOk i t w
  | .flagwaitPoll t => t.wf
  | .flagwaitTimeout t => t.wf
  | .flagcas t w => wordOk i t w
  | .pqlut t w => wordOk i t w
  | .pqscan t w => wordOk i t w
  | .topkins t w => wordOk i t w
  | .topkmrg t w => wordOk i t w
  | .bmtest t w => wordOk i t w
  | .hashm t w => wordOk i t w
  | .qr t w => wordOk i t w
  | .coali t w => wordOk i t w
  | .coaln t w => wordOk i t w
  | .rowupd t w => wordOk i t w
  | .br t w => wordOk i t w
  | .jal t w => wordOk i t w
  | .jr t w => wordOk i t w
  | .loop t w => wordOk i t w
  | .yield t w => wordOk i t w
  | .exit t w => wordOk i t w
  | .trap t w => wordOk i t w
  | .pcnt t w => wordOk i t w
  | .ccnt t w => wordOk i t w
  | .fenceInstr t w => wordOk i t w
  | .fenced t w => wordOk i t w
  | .fenceCountZero _ => true
  | .nop _ => true
  | .copy _ => true
  | .fill _ => true
  | .gather _ => true
  | .scatterUpdate _ => true
  | .rowLockRelease h line => decide (h < 8) && decide (line < 2 ^ 36)
  | .ivfProbe _ => true
  | .pqScan _ => true
  | .topkMerge _ => true
  | .matvec _ => true
  | .gateOpen _ => true
  | .gateExpired _ => true
  | .segmentComplete _ => true
  | .attend _ => true
  | .reduceLocal _ => true
  | .reduceGroup _ => true
  | .prefetchTranslate _ => true
  | .prefetchTier0 _ => true
  | .advisePin _ => true
  | .adviseUnpin _ => true
  | .advisePair _ => true
  | .adviseUnpair _ => true
  | .adviseRemap _ => true
  | .publish _ => true
  | .kernel _ => true
  | .hello a f => a.wf && f.wf
  | .linkTrained link _ => linkOk link
  | .helloRepeat link => linkOk link
  | .ctxOpen a f => a.wf && f.wf
  | .ctxClose a f => a.wf && f.wf
  | .fence a f => a.wf && f.wf
  | .fenceGapTimeout ctx seq => decide (ctx < 2 ^ 16) && decide (seq < 2 ^ 32)
  | .read a f => a.wf && f.wf
  | .write a f => a.wf && f.wf
  | .writePush a f => a.wf && f.wf
  | .tileRead a f => a.wf && f.wf
  | .tileWrite a f => a.wf && f.wf
  | .atomic a f => a.wf && f.wf
  | .scatterUpdateRequest a f => a.wf && f.wf
  | .publishRequest a f => a.wf && f.wf
  | .leaseAcquire a f => a.wf && f.wf
  | .leaseRenew a f => a.wf && f.wf
  | .leaseRelease a f => a.wf && f.wf
  | .leaseQuery a f => a.wf && f.wf
  | .leaseLapse _ => true
  | .revokeDrainDone h slot => decide (h < 8) && decide (slot < 512)
  | .snapCreate a f => a.wf && f.wf
  | .snapOpen a f => a.wf && f.wf
  | .snapClose a f => a.wf && f.wf
  | .snapQuery a f => a.wf && f.wf
  | .snapDestroy a f => a.wf && f.wf
  | .cowCopyDone lpa => decide (lpa < 2 ^ 42)
  | .extentZeroingDone h slot => decide (h < 8) && decide (slot < 512)
  | .contrib a f => a.wf && f.wf
  | .deliver a f => a.wf && f.wf
  | .roundComplete _ _ => true
  | .roundLimitExpire _ _ => true
  | .cohRdS a f => a.wf && f.wf
  | .rdX a f => a.wf && f.wf
  | .upgrade a f => a.wf && f.wf
  | .atom a f => a.wf && f.wf
  | .evictS a f => a.wf && f.wf
  | .evictX a f => a.wf && f.wf
  | .wb a f => a.wf && f.wf
  | .fetch a f => a.wf && f.wf
  | .ackI a f => a.wf && f.wf
  | .ackS a f => a.wf && f.wf
  | .ackDataI a f => a.wf && f.wf
  | .ackDataS a f => a.wf && f.wf
  | .ackFwd a f => a.wf && f.wf
  | .snpInv a f => a.wf && f.wf
  | .snpDown a f => a.wf && f.wf
  | .snpFwdS a f => a.wf && f.wf
  | .snpFwdX a f => a.wf && f.wf
  | .snpDev a f => a.wf && f.wf
  | .fwdData a f => a.wf && f.wf
  | .pendResend h line => decide (h < 8) && decide (line < 2 ^ 36)
  | .snoopTimeout h line agent => decide (h < 8) && decide (line < 2 ^ 36) && decide (agent < 8192)
  | .cutoffExpire agent => decide (agent < 8192)
  | .inval a f => a.wf && f.wf
  | .mgmtRead a f => a.wf && f.wf
  | .mgmtWrite a f => a.wf && f.wf
  | .responseReceive a f => a.wf && f.wf
  | .retransmitTimeout _ => true
  | .frameDamaged link _ => linkOk link
  | .assemblyTimeout _ => true
  | .epochHoldTimeout _ => true
  | .linkDown link cause => linkOk link && decide (cause < 256)
  | .dozeNotice link => linkOk link
  | .frameTxEnd link => linkOk link
  | .gclIntervalEnd flue => decide (flue < 26)
  | .gateListAt flue => decide (flue < 26)
  | .walkReadComplete _ _ => true
  | .faultRecordWrite job => decide (job < 2 ^ 20)
  | .faultRetry _ => true
  | .faultDecline _ => true
  | .translationTimeout _ => true
  | .probe a f => a.wf && f.wf
  | .probeTimer => true
  | .probeAck a f => a.wf && f.wf
  | .probeMiss pos => decide (pos < 64)
  | .suspect a f => a.wf && f.wf
  | .propose a f => a.wf && f.wf
  | .accept a f => a.wf && f.wf
  | .commit a f => a.wf && f.wf
  | .proposalTimeout => true
  | .collect a f => a.wf && f.wf
  | .mapRead a f => a.wf && f.wf
  | .join a f => a.wf && f.wf
  | .mirrorWr a f => a.wf && f.wf
  | .parityXor a f => a.wf && f.wf
  | .journal a f => a.wf && f.wf
  | .journalRead a f => a.wf && f.wf
  | .rebuildRead a f => a.wf && f.wf
  | .selfFence => true
  | .spareServe _ => true
  | .spareAbsentTimeout => true
  | .rebuildUnitDone _ => true
  | .moveCopyDone _ => true
  | .auxRailUp => true
  | .auxRailLoss => true
  | .internalResetRelease _ => true
  | .modResetAssert => true
  | .firebrickRead => true
  | .imageVerify => true
  | .serviceFlueTraining _ _ => true
  | .siteTraining results => results.all fun r => decide (r.site < 32)
  | .zeroInitialisation => true
  | .quickShadowTest eyes => eyes.all fun e => decide (e.chan < 256)
  | .fabricFlueTraining up => up.all fun l => decide (l < 96)
  | .cellJoin => true
  | .joinWaitRecord => true
  | .ready => true
  | .watchdogExpire => true
  | .linkRetrainTimer => true
  | .powerFailAssert => true
  | .powerFailDeassert => true
  | .vinMonitorTrip => true
  | .modPresentBreak => true
  | .claim a f b => a.wf && f.wf && decide (b < 4)
  | .submit a f b => a.wf && f.wf && decide (b < 4)
  | .bufferRelease a f b => a.wf && f.wf && decide (b < 4)
  | .attest a f b => a.wf && f.wf && decide (b < 4)
  | .imageEnd a f b => a.wf && f.wf && decide (b < 4)
  | .bufferIdleTimeout b => decide (b < 4)
  | .imageBegin b => decide (b < 4)
  | .rollbackTo b => decide (b < 4)
  | .keyProgram b => decide (b < 4)
  | .keyGrant b => decide (b < 4)
  | .keyRevoke b => decide (b < 4)
  | .lock b => decide (b < 4)
  | .jobSet b => decide (b < 4)
  | .jobDelete b => decide (b < 4)
  | .rowgroupMode b => decide (b < 4)
  | .extentCreate b => decide (b < 4)
  | .extentRemove b => decide (b < 4)
  | .extentAssign b => decide (b < 4)
  | .extentClear b => decide (b < 4)
  | .leaseRevoke b => decide (b < 4)
  | .leaseBounds b => decide (b < 4)
  | .funcSet b => decide (b < 4)
  | .funcDrainDone => true
  | .route b => decide (b < 4)
  | .policer b => decide (b < 4)
  | .overhead b => decide (b < 4)
  | .shaper b => decide (b < 4)
  | .gateList b => decide (b < 4)
  | .siteState b => decide (b < 4)
  | .testRun b => decide (b < 4)
  | .testComplete site _ => decide (site < 32)
  | .extentMove b => decide (b < 4)
  | .powerSetState b => decide (b < 4)
  | .powerSetSection b => decide (b < 4)
  | .ashpitSet b => decide (b < 4)
  | .moduleParams b => decide (b < 4)
  | .flueSet b => decide (b < 4)
  | .reset b => decide (b < 4)
  | .resetDelayExpire => true
  | .entryComplete => true
  | .exitComplete _ => true
  | .wakePattern link => linkOk link
  | .signalReturn flue => decide (flue < 2)
  | .modWake => true
  | .wakeTimer => true
  | .smoulderSample r => decide (r.temps.length = 16)
  | .spareReentryTimer => true
  | .phaseEmberTimer => true
  | .autoIdleExpire h => decide (h < 8)
  | .domainReturn d => decide (d < 30)
  | .throttleChange h _ => decide (h < 8)
  | .overtempTrip sensor _ => decide (sensor < 16)
  | .overtempClear temps => decide (temps.length = 16)
  | .rateLimitPeriod => true
  | .ashNvmWrite _ => true
  | .ashWindowRead a f => a.wf && f.wf
  | .cursorClaim a f c => a.wf && f.wf && decide (c < 8)
  | .cursorSet a f c => a.wf && f.wf && decide (c < 8)
  | .cursorRelease a f c => a.wf && f.wf && decide (c < 8)
  | .cursorIdleTimeout c => decide (c < 8)
  | .operatingSecond temps => decide (temps.length ≤ 48)
  | .droopDetect rail _ _ => decide (rail < 4)
  | .shadowTest m => match m with | .dram e => decide (e.chan < 256) | .lane lane _ _ _ _ _ => decide (lane < 104)
  | .meteringInterval _ => true
  | .smbPointerSet data => decide (data.length ≤ 255)
  | .smbBlockRead => true
  | .smbQuickStatus => true
  | .smbAlertResponse => true
  | .smbClockTimeout => true
  | .recHoldAssert => true
  | .recHoldDeassert => true
  | .idcode => true
  | .bypass => true
  | .extest => true
  | .intest => true
  | .clamp => true
  | .extestPulse => true
  | .extestTrain => true
  | .shaperEligible link cls => linkOk link && decide (cls < 9)
  | .serviceFlueLinkUp link => linkOk link
  | .pauseFrame link => linkOk link
  | .unsupportedType a f => a.wf && f.wf
  | .transitFrame a f => a.wf && f.wf
  | .testLogicReset => true

end Sys2Proof
end

