-- ==== Sys2Proof/Safety.lean ====
section
/-! DEFINITION. What a sound state of the block is, in the terms that claims use: the tables and lists that hold memory, tags and
the marks of lines stand in their one canonical form, so that equal contents are equal data; what it is for an operator to run;
what it is for an arriving request to meet no refusal on its way to the home of its address; and what it is for an item of a
record to be next. -/

namespace Sys2Proof.Machine

/-- Every number of the list is at least `lo`, and they rise strictly. -/
def risingFrom : Nat → List Nat → Bool
  | _, [] => true
  | lo, x :: xs => decide (lo ≤ x) && risingFrom (x + 1) xs

/-- The numbers rise strictly: the canonical form of a set of line or unit numbers. -/
def rising (xs : List Nat) : Bool := risingFrom 0 xs

/-- The memory keeps its canonical form: bytes and tags by rising address without entries of zero (R41), and the sets of
poisoned, refilled, unprotected and lost lines as rising lists (R42, R44, R346, R352). -/
def Mem.wf (m : Mem) : Bool :=
  tok 0 m.cells && tok (.fmt 0) m.tags && rising m.poison && rising m.filled && rising m.unprot && rising m.lost

/-- Item `i` runs operator `op`: it is in a Stove, has no outcome yet and no cancel has come (R136). -/
def runs (s : State) (i : ItemId) (op : Nat) (it : Item) : Prop :=
  itemOf s i = some it ∧ it.op = op ∧ it.result = none ∧ it.cancelled = false

/-! ## The way of a request that nothing refuses -/

/-- A frame passes the checks of its arrival (R200 to R207, R223, R252) and is whole (R218): in `s1` it is request `r`. -/
def admitted (s : State) (a : Arrival) (f : Frame) (s1 : State) (r : Req) : Prop :=
  ∃ s0 r0, arrive s a f = (s0, some r0) ∧ notServing s0 = false ∧ assemble s0 r0 = (s1, some r)

/-- A frame of the fabric leg comes to its owning module: its job is served there, its epoch is not behind and its window lets it
run (R211 to R213, R221, R261 checks 3 to 6). -/
def atOwner (s : State) (a : Arrival) (f : Frame) (s1 : State) (r : Req) : Prop :=
  ∃ s0, admitted s a f s0 r ∧ r.f.leg = true ∧
    (r.f.typ = tContrib ∨ r.f.typ = tDeliver ∨ (r.f.typ = tCoh ∧ cohRequest r.f = false) ∨ ownerEarly s0 r.f = none) ∧
    (r.f.cell = s0.boot.cell → epochDist s0 r.f ≤ 128) ∧ judgeFabric s0 r.f = .run ∧ enterWindow s0 r.f = (s1, true)

/-- A partner's request comes to its entry module: its context admits it and its window lets it run (R208, R211, R281, R283). -/
def atEntry (s : State) (a : Arrival) (f : Frame) (s1 : State) (r : Req) : Prop :=
  ∃ s0 r0 s2, admitted s a f s0 r0 ∧ r0.f.leg = false ∧ r0.f.typ ≠ tCtxOpen ∧ r0.f.typ ≠ tCtxClose ∧
    ctxStatus s0 r0.a r0.f = none ∧
    (r0.f.typ = tCoh → isService r0.a.link = false ∧ hasAgent s0 r0.a.link = true ∧ memberCutNow s0 r0.a.link = false ∧
      ((cohCtx s0 r0.a.link).any fun c => c.1 ≠ r0.f.srcCtx) = false) ∧
    judgePartner s0 r0.f = .run ∧ (ctxOf s0 r0.f.srcCtx).closing = none ∧ enterWindow s0 r0.f = (s2, true) ∧
    s1 = addLeg s2 r0.f ∧ r = entered s2 r0

/-- At its owning module a request passes checks 7 to 10 of R261: in `s1` it is served as `r1`. -/
def confirmed (s : State) (r : Req) (s1 : State) (r1 : Req) : Prop :=
  slotCheck s r.f = .serve ∧ (ownRules r.f.typ = true ∨ admitCheck s r.f = none) ∧
    ((isWalker r.f = true ∧ s1 = s ∧ r1 = r) ∨
      ∃ s2 nc, isWalker r.f = false ∧ confirm s r.f = (.passed nc, s2) ∧ s1 = dropTables s2 ∧ functionOk s1 r.f = true ∧
        r1 = { r with nc := nc })

/-- A partner's request translates to an address of this module that admits it (R25, R261 checks 7 and 8, R275): in `s1` it is
served as `r1`. -/
def mapsHere (s : State) (r : Req) (s1 : State) (r1 : Req) : Prop :=
  ∃ s2 m nc,
    (if isTileReq r.f then ∃ ps, tileLeaves s r (reqAcc r.f) (quarters r.f.jva.toNat) = (s2, some ps) ∧
        isNative (ps.map Prod.fst) = true ∧ m = (ps.map Prod.fst).headD 0 ∧ nc = ps.any fun p => decide (p.2.pbmt = 1)
      else ∃ l, translate s (.req r) r.f.job r.f.jva.toNat (if r.f.typ = tLease || r.f.typ = tSnap then 0 else reqAcc r.f) s.clk.pilot =
        (s2, .ok m l) ∧ nc = decide (l.pbmt = 1)) ∧
    mpaDev m = selfDev s2 ∧ r1 = { r with f := { r.f with mpa := BitVec.ofNat 64 m }, nc := nc } ∧
    s1 = legDest s2 r.f (selfDev s2) ∧ slotCheck s1 r1.f = .serve ∧ (ownRules r.f.typ = true ∨ admitCheck s1 r1.f = none)

/-- An arriving frame that nothing refuses comes to the service of its home on this module, as request `r` in `s1`. -/
def comesHome (s : State) (a : Arrival) (f : Frame) (s1 : State) (r : Req) : Prop :=
  (∃ s0 r0, atOwner s a f s0 r0 ∧ confirmed s0 r0 s1 r) ∨
    ∃ s0 r0, atEntry s a f s0 r0 ∧ fieldsBad r0.f = false ∧ mapsHere s0 r0 s1 r

/-- Nothing stands before a request at the line it names (R285, R286, R295): it is ordered there as `r1` in `s1` and is served at
once. -/
def itsTurn (s : State) (r : Req) (s1 : State) (r1 : Req) : Prop :=
  txOf s (reqLine s r) = none ∧ lockOf s (reqLine s r) = none ∧ trackerFree s (reqLine s r) = true ∧
    orderReq s r (reqLine s r) = (s1, r1) ∧ beforeServe s1 r1 [] (reqLine s r) (decide (r1.stage = 2)) = .nothing

/-- An arriving frame comes to its home, counts in its extent (R310) and is served at once at line `l`, as `r` in `s1`; a coherence
request is of an agent that is not cut off, and no device's lines are being dropped (R281, R305, R306). -/
def servedAt (s : State) (a : Arrival) (f : Frame) (l : Nat) (s1 : State) (r : Req) : Prop :=
  ∃ s0 r0, comesHome s a f s0 r0 ∧ itsTurn (beginAdmitted s0 r0).1 (beginAdmitted s0 r0).2 s1 r ∧
    l = reqLine (beginAdmitted s0 r0).1 (beginAdmitted s0 r0).2 ∧
    (r0.f.typ = tCoh → ∃ k, agentOf (beginAdmitted s0 r0).1 (beginAdmitted s0 r0).2.f = some k ∧
      isCutOff (beginAdmitted s0 r0).1 k = false ∧ (beginAdmitted s0 r0).1.home.devWait = [])

/-- A coherence message of agent `k` that is no request comes to the home of its line on this module, from another module or from a
link of this one where it ends no delivery; it is well formed and its agent is not cut off (R281, R293, R297, R305). -/
def messageAt (s : State) (a : Arrival) (f : Frame) (k : Nat) (s1 : State) (r : Req) : Prop :=
  (atOwner s a f s1 r ∨
    ∃ s0, atEntry s a f s0 r ∧ fieldsBad r.f = false ∧ (cohMsg r.f < 0x10 ∨ deliveryOf s0 r.f r.a.link = none) ∧
      s1 = legDest s0 r.f (mpaDev r.f.mpa.toNat)) ∧
    cohRequest r.f = false ∧ listedMsg (cohMsg r.f) = true ∧ cohMsg r.f < 0x20 ∧ (cohData (cohMsg r.f) = true → r.f.payload.length = 64) ∧
    r.f.mpa.toNat % 64 = 0 ∧ mpaDev r.f.mpa.toNat = selfDev s1 ∧ agentOf s1 r.f = some k ∧
    isCutOff s1 k = false

/-! ## Records being applied (R395) -/

/-- Buffer `b` applies a record whose next item is `i`, before `rest`: the item takes effect in `s1`, where it counts as done. -/
def itemNext (s : State) (b : Nat) (i : Item390) (rest : List Item390) (s1 : State) : Prop :=
  (bufOf s b).todo = i :: rest ∧ (bufOf s b).state = 3 ∧
    s1 = onBuf s b fun x => { x with
      todo := rest, done := x.done + 1, opsec := if x.done = 0 then s.clk.opSec else x.opsec }

/-- After an item's effect: with the last item the record ends, and what can go on does. -/
def itemDone (s : State) (b : Nat) (rest : List Item390) : State := settle (if rest.isEmpty then endRecord s b else s)

end Sys2Proof.Machine
end

