-- ==== Sys2Proof/Certificates/Slice0/Obligations.lean ====
section
/-! DEFINITION. The statements for the provers. Each is a proposition about every state and every operand; most say of a group of
commands what next state each answers, under conditions on the state and the operands alone. A frame needs no statement of its own
where the next state is given whole, as it is in these. -/

open Sys2Proof Sys2Proof.Machine

/-! ## Instructions of a Stove thread (R111 to R127, R131) -/

/-- R114: the scalar operations on two operands write sDST, and the other instructions that change nothing but registers write theirs; of
each nothing but that and the pc changes. -/
def Obligations.RegisterInstructionsComplete : Prop :=
  (∀ (s : State) (t : ThreadRef) (w : BitVec 64) (it : Item) (th : Thread) (o : Nat) (c : ThreadRef → BitVec 64 → Instr)
     (g : W64 → W64 → W64),
     (o, c, g) ∈ ([(0, .add, fun a b => a + b), (1, .sub, fun a b => a - b), (2, .mul, fun a b => a * b),
       (3, .mulhu, fun a b => BitVec.ofNat 64 (a.toNat * b.toNat / 2 ^ 64)), (4, .and, fun a b => a &&& b),
       (5, .or, fun a b => a ||| b), (6, .xor, fun a b => a ^^^ b), (7, .shl, fun a b => a <<< (b.toNat % 64)),
       (8, .shr, fun a b => a >>> (b.toNat % 64)), (9, .sar, fun a b => a.sshiftRight (b.toNat % 64)),
       (10, .minu, fun a b => if a.ult b then a else b), (11, .maxu, fun a b => if a.ult b then b else a),
       (12, .min, fun a b => if a.slt b then a else b), (13, .max, fun a b => if a.slt b then b else a),
       (16, .divu, fun a b => if b = 0 then BitVec.allOnes 64 else a / b), (17, .remu, fun a b => if b = 0 then a else a % b)] :
       List (Nat × (ThreadRef → BitVec 64 → Instr) × (W64 → W64 → W64))) →
     canIssue s t w 0 o = some (it, th) → guardHolds th w = true →
     exec (c t w) s = .next (onThread s t fun x => nextPc (setS x (wDst w) (g (sReg x (wSa w)) (opB x w))))) ∧
  (∀ (s : State) (t : ThreadRef) (w : BitVec 64) (it : Item) (th : Thread) (k o : Nat) (c : ThreadRef → BitVec 64 → Instr)
     (g : Thread → Thread),
     (k, o, c, g) ∈ ([
       (0, 14, .li, fun x => setS x (wDst w) (wSext w)),
       (0, 15, .lui, fun x => setS x (wDst w) (BitVec.ofNat 64 (wImm w * 2 ^ 32 + (sReg x (wDst w)).toNat % 2 ^ 32))),
       (0, 18, .popc, fun x => setS x (wDst w) (BitVec.ofNat 64 (popCount (sReg x (wSa w))))),
       (0, 19, .clz, fun x => setS x (wDst w) (BitVec.ofNat 64 (leadZeros (sReg x (wSa w))))),
       (4, 0, .aclr, fun x => setA x (wDst w) {}),
       (4, 3, .alsum, fun x => setA x (wDst w)
         { cls := (aReg x (wSa w)).cls, lanes := tput {} ([] : Tab Lane) 0 (laneSum (aReg x (wSa w))) }),
       (5, 0, .ceq, fun x => setP x (wDst w) (sReg x (wSa w) == opB x w)),
       (5, 1, .cne, fun x => setP x (wDst w) (sReg x (wSa w) != opB x w)),
       (5, 2, .cltu, fun x => setP x (wDst w) ((sReg x (wSa w)).ult (opB x w))),
       (5, 3, .clt, fun x => setP x (wDst w) ((sReg x (wSa w)).slt (opB x w))),
       (5, 4, .cgeu, fun x => setP x (wDst w) (!(sReg x (wSa w)).ult (opB x w))),
       (5, 5, .cge, fun x => setP x (wDst w) (!(sReg x (wSa w)).slt (opB x w))),
       (5, 6, .sel, fun x => setS x (wDst w) (if pReg x (wImm w) then sReg x (wSa w) else sReg x (wSb w))),
       (5, 7, .pand, fun x => setP x (wDst w) (pReg x (wSa w) && pReg x (wSb w))),
       (5, 8, .por, fun x => setP x (wDst w) (pReg x (wSa w) || pReg x (wSb w))),
       (5, 9, .pxor, fun x => setP x (wDst w) (pReg x (wSa w) != pReg x (wSb w))),
       (5, 10, .pnot, fun x => setP x (wDst w) (!pReg x (wSa w))),
       (5, 18, .vsel, fun x => setV x (wDst w) (BitVec.ofNat 4096 (packCodes 8 (upTo 512 fun k =>
         if fld (vReg x (wSc w)).toNat (8 * k) 8 ≠ 0 then fld (vReg x (wSa w)).toNat (8 * k) 8
         else fld (vReg x (wSb w)).toNat (8 * k) 8)))),
       (5, 19, .vany, fun x => setP x (wDst w) (vReg x (wSa w) != 0)),
       (9, 0, .hashm, fun x => setS x (wDst w)
         (BitVec.ofNat 64 (hashm (sReg x (wSa w)).toNat (sReg x (wSb w)).toNat (sReg x (wSc w)).toNat))),
       (9, 1, .qr, fun x => setS (setS x (wDst w) (divu64 (sReg x (wSa w)) (sReg x (wSb w)))) ((wDst w + 1) % 32)
         (remu64 (sReg x (wSa w)) (sReg x (wSb w)))),
       (0xA, 4, .yield, id),
       (0xA, 7, .pcnt, fun x => setS x (wDst w) (BitVec.ofNat 64 (s.clk.pilot % 2 ^ 32)))] :
       List (Nat × Nat × (ThreadRef → BitVec 64 → Instr) × (Thread → Thread))) →
     canIssue s t w k o = some (it, th) → guardHolds th w = true →
     exec (c t w) s = .next (onThread s t fun x => nextPc (g x)))

/-- R113: a guarded instruction whose guard is false, that is p[GP] XOR GN = 0, writes nothing, issues no request and raises no fault. It
takes its issue slot: the pc passes it. Every instruction of a thread is named here. -/
def Obligations.FalseGuardPasses : Prop :=
  ∀ (s : State) (t : ThreadRef) (w : BitVec 64) (it : Item) (th : Thread) (e : Ecc) (k o : Nat) (c : ThreadRef → BitVec 64 → Instr),
    (k, o, c) ∈ ([
      (0, 0, .add), (0, 1, .sub), (0, 2, .mul), (0, 3, .mulhu), (0, 4, .and), (0, 5, .or), (0, 6, .xor), (0, 7, .shl),
      (0, 8, .shr), (0, 9, .sar), (0, 10, .minu), (0, 11, .maxu), (0, 12, .min), (0, 13, .max), (0, 14, .li), (0, 15, .lui),
      (0, 16, .divu), (0, 17, .remu), (0, 18, .popc), (0, 19, .clz), (1, 0, fun t w => .ld t w e), (1, 1, .ldsx), (1, 2, .st),
      (1, 3, .ldv), (1, 4, .stv), (1, 5, .stvh), (1, 6, .param), (1, 7, .resw), (2, 0, fun t w => .tld t w e), (2, 1, .talloc),
      (2, 2, .tst), (2, 3, .trel), (2, 4, .trv), (2, 5, .twv), (2, 6, .ttag), (2, 7, .twait), (2, 8, .tcvt), (3, 0, .mwld),
      (3, 1, .mmv), (3, 2, .mtv), (3, 3, .vadd), (3, 4, .vsub), (3, 5, .vmul), (3, 6, .vmax), (3, 7, .vmin), (3, 8, .vfma),
      (3, 9, .vcvt), (3, 10, .vbc), (3, 11, .vext), (3, 12, .vins), (4, 0, .aclr), (4, 1, .aout), (4, 2, .aaddv),
      (4, 3, .alsum), (4, 4, .axp), (4, 5, .axi), (4, 6, .acomb), (5, 0, .ceq), (5, 1, .cne), (5, 2, .cltu), (5, 3, .clt),
      (5, 4, .cgeu), (5, 5, .cge), (5, 6, .sel), (5, 7, .pand), (5, 8, .por), (5, 9, .pxor), (5, 10, .pnot), (5, 16, .vcmplt),
      (5, 17, .vcmpeq), (5, 18, .vsel), (5, 19, .vany), (6, 0, .amadd), (6, 1, .amand), (6, 2, .amor), (6, 3, .amxor),
      (6, 4, .amminu), (6, 5, .ammaxu), (6, 6, .ammin), (6, 7, .ammax), (6, 8, .amswp), (6, 9, .amcas), (6, 10, .amfadd),
      (7, 0, .cntadd), (7, 1, .cntwait), (7, 2, .cntrd), (7, 3, .flagwait), (7, 4, .flagcas), (8, 0, .pqlut), (8, 1, .pqscan),
      (8, 2, .topkins), (8, 3, .topkmrg), (8, 4, .bmtest), (9, 0, .hashm), (9, 1, .qr), (9, 2, .coali), (9, 3, .coaln),
      (9, 4, .rowupd), (10, 0, .br), (10, 1, .jal), (10, 2, .jr), (10, 3, .loop), (10, 4, .yield), (10, 5, .exit),
      (10, 6, .trap), (10, 7, .pcnt), (10, 8, .ccnt), (11, 0, .fenceInstr), (11, 1, .fenced)] : List (Nat × Nat × (ThreadRef → BitVec 64 → Instr))) →
    canIssue s t w k o = some (it, th) → wGe w = true → (pReg th (wGp w) ^^ wGn w) = false →
    exec (c t w) s = .next (onThread s t nextPc)

/-- What a thread changes of itself (`onThread`) leaves the rest of the block as it was: every part of the state but the Stoves, every
other item, of its item everything but its threads, and every other thread of it. -/
def Obligations.ThreadFrame : Prop :=
  ∀ (s : State) (t : ThreadRef) (g : Thread → Thread),
    { onThread s t g with stv := s.stv } = s ∧
    { (onThread s t g).stv with items := s.stv.items } = s.stv ∧
    (∀ i, i ≠ t.item → itemOf (onThread s t g) i = itemOf s i) ∧
    (∀ it, itemOf s t.item = some it →
      ∃ ths, itemOf (onThread s t g) t.item = some { it with threads := ths } ∧
        (tok {} it.threads = true → tget {} ths t.n = g (tget {} it.threads t.n) ∧
          ∀ n, n ≠ t.n → tget {} ths n = tget {} it.threads n))

/-- R114, class 0x1: a load whose address is naturally aligned and whose bytes can be read writes them to its register, zero-extended
(LD), sign-extended (LDSX) or as 512 bytes (LDV). -/
def Obligations.LoadsComplete : Prop :=
  ∀ (s s1 : State) (t : ThreadRef) (w : BitVec 64) (it : Item) (th : Thread) (bs : List Byte) (srcs : List Src), guardHolds th w = true →
    ((∀ e, canIssue s t w 1 0 = some (it, th) → addrI th w % widthBytes (wW w) = 0 →
        readJva s t.item t.n 0 (addrI th w) (widthBytes (wW w)) = (s1, .ok (bs, srcs)) →
        (∀ l, srcs.headD (.far 0) = .here l → stoveDecode s1 (lineOf l) e = (s1, .ok ())) →
        exec (.ld t w e) s = .next (onThread (chargeReads s1 t.item srcs) t fun x =>
          nextPc (setS x (wDst w) (BitVec.ofNat 64 (leNat bs))))) ∧
     (canIssue s t w 1 1 = some (it, th) → addrI th w % widthBytes (wW w) = 0 →
        readJva s t.item t.n 0 (addrI th w) (widthBytes (wW w)) = (s1, .ok (bs, srcs)) →
        (∀ l, srcs.headD (.far 0) = .here l → stoveDecode s1 (lineOf l) .clean = (s1, .ok ())) →
        exec (.ldsx t w) s = .next (onThread (chargeReads s1 t.item srcs) t fun x =>
          nextPc (setS x (wDst w) (BitVec.ofInt 64 (sgn (8 * widthBytes (wW w)) (leNat bs)))))) ∧
     (canIssue s t w 1 3 = some (it, th) → addrI th w % 64 = 0 → readJva s t.item t.n 0 (addrI th w) 512 = (s1, .ok (bs, srcs)) →
        exec (.ldv t w) s = .next (onThread (chargeReads s1 t.item srcs) t fun x =>
          nextPc (setV x (wDst w) (BitVec.ofNat 4096 (leNat bs))))))

/-- R114, R126, class 0x1: a store whose address is aligned stores the low W bytes of sSB (ST), 512 bytes of vSB (STV) or its low 256
bytes (STVH) at sSA + sext(IMM), as the shared store operation does it; PARAM and RESW read a slot operand and set a result word. -/
def Obligations.StoresComplete : Prop :=
  ∀ (s s1 : State) (t : ThreadRef) (w : BitVec 64) (it : Item) (th : Thread), guardHolds th w = true →
    (canIssue s t w 1 2 = some (it, th) → addrI th w % widthBytes (wW w) = 0 →
      storeJva s t.item t.n (.store t) (addrI th w) (natLe (widthBytes (wW w)) (sReg th (wSb w)).toNat) = (s1, .ok ()) →
      exec (.st t w) s = .next (onThread s1 t nextPc)) ∧
    (canIssue s t w 1 4 = some (it, th) → addrI th w % 64 = 0 →
      storeJva s t.item t.n (.store t) (addrI th w) (natLe 512 (vReg th (wSb w)).toNat) = (s1, .ok ()) →
      exec (.stv t w) s = .next (onThread s1 t nextPc)) ∧
    (canIssue s t w 1 5 = some (it, th) → addrI th w % 64 = 0 →
      storeJva s t.item t.n (.store t) (addrI th w) (natLe 256 (vReg th (wSb w)).toNat) = (s1, .ok ()) →
      exec (.stvh t w) s = .next (onThread s1 t nextPc)) ∧
    (canIssue s t w 1 6 = some (it, th) →
      exec (.param t w) s = .next (onThread s t fun x => nextPc (setS x (wDst w) (BitVec.ofNat 64 (opFld it (256 + 64 * wImm w) 64))))) ∧
    (canIssue s t w 1 7 = some (it, th) →
      exec (.resw t w) s = .next (onItem (onThread s t nextPc) t.item fun x => { x with
        resw := tput 0 x.resw (wImm w % 4) (sReg th (wSb w)) }))

/-- R131: a load, a store or an atomic at an address that is not aligned is fault 0xF0 at that address. -/
def Obligations.MisalignedFaults : Prop :=
  ∀ (s : State) (t : ThreadRef) (w : BitVec 64) (it : Item) (th : Thread) (e : Ecc), guardHolds th w = true →
    (∀ o c, (o, c) ∈ ([(0, fun t w => .ld t w e), (1, .ldsx), (2, .st)] : List (Nat × (ThreadRef → BitVec 64 → Instr))) →
      canIssue s t w 1 o = some (it, th) → addrI th w % widthBytes (wW w) ≠ 0 →
      exec (c t w) s = .next (fault s t 0xF0 (addrI th w))) ∧
    (∀ o c, (o, c) ∈ ([(3, .ldv), (4, .stv), (5, .stvh)] : List (Nat × (ThreadRef → BitVec 64 → Instr))) →
      canIssue s t w 1 o = some (it, th) → addrI th w % 64 ≠ 0 → exec (c t w) s = .next (fault s t 0xF0 (addrI th w))) ∧
    (∀ o c, (o, c) ∈ ([(0, .amadd), (1, .amand), (2, .amor), (3, .amxor), (4, .amminu), (5, .ammaxu), (6, .ammin), (7, .ammax),
        (8, .amswp), (10, .amfadd)] : List (Nat × (ThreadRef → BitVec 64 → Instr))) →
      canIssue s t w 6 o = some (it, th) → addrI th w % widthBytes (wW w) ≠ 0 →
      exec (c t w) s = .next (fault s t 0xF0 (addrI th w))) ∧
    (canIssue s t w 6 9 = some (it, th) → addrT th w % widthBytes (wW w) ≠ 0 →
      exec (.amcas t w) s = .next (fault s t 0xF0 (addrT th w)))

/-- R115 to R119, class 0x2: the tile instructions on a thread with a free handle or a live one. -/
def Obligations.TileInstructionsComplete : Prop :=
  ∀ (s s1 s2 : State) (t : ThreadRef) (w : BitVec 64) (it : Item) (th : Thread) (n : Nat) (h : Handle) (bs : List Byte) (tag : Nat),
    guardHolds th w = true →
    (∀ e, canIssue s t w 2 0 = some (it, th) → (sReg th (wSa w)).toNat % 16384 = 0 → freeHandle th = some n →
      heldInHearth s it.hearth < poolSize (t0Slice s it.hearth) → cachedLeaf s it.job (sReg th (wSa w)).toNat = none →
      exec (.tld t w e) s = .next (onThread
        (beginFetch s t.item { jva := (sReg th (wSa w)).toNat, thread := t.n, issued := s.clk.pilot, budget := fetchBudget s it }) t
        fun x => nextPc { (addHandle x (wDst w)
          { num := n, kind := .borrowed, jva := (sReg th (wSa w)).toNat, fetch := it.fetches.length }) with wait := .none })) ∧
    (canIssue s t w 2 1 = some (it, th) → freeHandle th = some n → scratchUsed it < it.scratch →
      exec (.talloc t w) s = .next (onThread s t fun x => nextPc (addHandle x (wDst w) { num := n, data := { tag := wFmt w } }))) ∧
    (canIssue s t w 2 2 = some (it, th) → (sReg th (wSa w)).toNat % 16384 = 0 →
      wholeTile s it th (sReg th (wSb w)) = (s1, .ok (tag, bs)) →
      storeTile s1 t.item t.n (.store t) (sReg th (wSa w)).toNat tag bs = (s2, .ok ()) →
      exec (.tst t w) s = .next (onThread s2 t nextPc)) ∧
    (canIssue s t w 2 3 = some (it, th) → liveHandle th (sReg th (wSa w)) = some h →
      exec (.trel t w) s = .next (onThread s t fun x => nextPc { x with
        handles := x.handles.filter (·.num ≠ h.num) })) ∧
    (canIssue s t w 2 4 = some (it, th) → useHandle it th (sReg th (wSa w)) = .ok h →
      readHandle s it h (512 * wImm19 w) 512 = (s1, .ok bs) →
      exec (.trv t w) s = .next (onThread s1 t fun x => nextPc (setV x (wDst w) (BitVec.ofNat 4096 (leNat bs))))) ∧
    (canIssue s t w 2 5 = some (it, th) → useScratch th (sReg th (wSa w)) = .ok h →
      exec (.twv t w) s = .next (onThread (meter s it.job 0 512) t fun x =>
        nextPc (modHandle x h.num fun y => { y with data := putData y.data (512 * wImm19 w) (natLe 512 (vReg x (wSb w)).toNat) }))) ∧
    (canIssue s t w 2 6 = some (it, th) → useHandle it th (sReg th (wSa w)) = .ok h → handleTag s h = .ok tag →
      exec (.ttag t w) s = .next (onThread s t fun x => nextPc (setS x (wDst w) (BitVec.ofNat 64 tag)))) ∧
    (canIssue s t w 2 7 = some (it, th) → liveHandle th (sReg th (wSa w)) = some h → useHandle it th (sReg th (wSa w)) = .ok h →
      exec (.twait t w) s = .next (onThread s t fun x => nextPc (setS x (wDst w) 0))) ∧
    (canIssue s t w 2 8 = some (it, th) → freeHandle th = some n → scratchUsed it < it.scratch →
      wholeTile s it th (sReg th (wSa w)) = (s1, .ok (tag, bs)) → tag = wFmt w →
      exec (.tcvt t w) s = .next (onThread (meter s1 it.job 0 16384) t fun x =>
        nextPc (addHandle x (wDst w) { num := n, data := { tag := wFmt w, cells := cellsOf bs } }))) ∧
    (canIssue s t w 3 0 = some (it, th) → wholeTile s it th (sReg th (wSa w)) = (s1, .ok (tag, bs)) →
      exec (.mwld t w) s = .next (onThread s1 t fun x => nextPc { x with
        stat := some (wImm19 w % 4, { tag := tag, cells := cellsOf bs }) }))

/-- R114, classes 0x3 and 0x5: each element of the result is one rounding, under FMT and CVT, of the operation on the elements of the
source registers; a vector compare writes all ones or zero. Elements past a source register are free values (log 22). -/
def Obligations.VectorInstructionsComplete : Prop :=
  ∀ (s : State) (t : ThreadRef) (w : BitVec 64) (it : Item) (th : Thread), guardHolds th w = true →
    (∀ o c g, (o, c, g) ∈ ([
        (3, .vadd, fun j => vAdd (vVal (wFmt w) (vReg th (wSa w)) j) (vVal (wFmt w) (vReg th (wSb w)) j)),
        (4, .vsub, fun j => vAdd (vVal (wFmt w) (vReg th (wSa w)) j) (vNeg (vVal (wFmt w) (vReg th (wSb w)) j))),
        (5, .vmul, fun j => vMul (vVal (wFmt w) (vReg th (wSa w)) j) (vVal (wFmt w) (vReg th (wSb w)) j)),
        (6, .vmax, fun j => vMaxV (vVal (wFmt w) (vReg th (wSa w)) j) (vVal (wFmt w) (vReg th (wSb w)) j)),
        (7, .vmin, fun j => vMinV (vVal (wFmt w) (vReg th (wSa w)) j) (vVal (wFmt w) (vReg th (wSb w)) j)),
        (8, .vfma, fun j => vAdd (vMul (vVal (wFmt w) (vReg th (wSa w)) j) (vVal (wFmt w) (vReg th (wSb w)) j))
          (vVal (wFmt w) (vReg th (wSc w)) j)),
        (9, .vcvt, fun j => if j < vLen (wImm19 w % 16) then vVal (wImm19 w % 16) (vReg th (wSa w)) j
          else fDecode (fspec (wFmt w)) ((Config.freeWord (s.draws + j)).toNat % 2 ^ elemBits (wFmt w)))] :
        List (Nat × (ThreadRef → BitVec 64 → Instr) × (Nat → Val))) →
      canIssue s t w 3 o = some (it, th) →
      exec (c t w) s = .next (onThread (meterVec (bump s (vLen (wFmt w))) it (wFmt w)) t fun x => nextPc (setV x (wDst w)
        (vOf (wFmt w) (upTo (vLen (wFmt w)) fun j => codeOf (wFmt w) (wCvt w) (drawU s.draws j) (g j)))))) ∧
    (∀ o c g, (o, c, g) ∈ ([(16, .vcmplt, fun a b => a.kind ≠ .nan && b.kind ≠ .nan && vLt a b), (17, .vcmpeq, vEq)] :
        List (Nat × (ThreadRef → BitVec 64 → Instr) × (Val → Val → Bool))) →
      canIssue s t w 5 o = some (it, th) →
      exec (c t w) s = .next (onThread (meterVec s it (wFmt w)) t fun x => nextPc (setV x (wDst w)
        (vOf (wFmt w) (upTo (vLen (wFmt w)) fun j => if g (vVal (wFmt w) (vReg th (wSa w)) j) (vVal (wFmt w) (vReg th (wSb w)) j)
          then 2 ^ elemBits (wFmt w) - 1 else 0))))) ∧
    (canIssue s t w 3 10 = some (it, th) →
      exec (.vbc t w) s = .next (onThread (meterVec s it (wFmt w)) t fun x =>
        nextPc (setV x (wDst w) (vOf (wFmt w) (List.replicate (vLen (wFmt w)) (sReg x (wSa w)).toNat))))) ∧
    (canIssue s t w 3 11 = some (it, th) → wImm19 w < vLen (wFmt w) →
      exec (.vext t w) s = .next (onThread (meterVec (bump s 1) it (wFmt w)) t fun x =>
        nextPc (setS x (wDst w) (BitVec.ofNat 64 (vElem (wFmt w) (vReg th (wSa w)) (wImm19 w)))))) ∧
    (canIssue s t w 3 12 = some (it, th) → wImm19 w < vLen (wFmt w) →
      exec (.vins t w) s = .next (onThread (meterVec (bump s 64) it (wFmt w)) t fun x => nextPc (setV x (wDst w)
        (BitVec.ofNat 4096 (setFld (vReg x (wDst w)).toNat (elemBits (wFmt w) * wImm19 w) (elemBits (wFmt w)) (sReg x (wSa w)).toNat)))))

/-- R120 to R123, classes 0x3 and 0x4: an accumulating instruction whose accumulator `a` has its class, and none of whose lanes passes
2^32 products, changes the lanes of that accumulator. -/
def Obligations.AccumulatorInstructionsComplete : Prop :=
  ∀ (s s1 s2 : State) (t : ThreadRef) (w : BitVec 64) (it : Item) (th : Thread) (a : Acc) (h : Handle) (tag b : Nat) (d : TileData)
    (bs : List Byte) (g : Nat → Lane → Lane), guardHolds th w = true →
    (canIssue s t w 3 1 = some (it, th) → th.stat = none → takeClass (aReg (threadOf s t) (wDst w)) (wL w) = some a →
      laneOver (mapLanes a fun _ l => l) = false →
      exec (.mmv t w) s = .next (onThread s t fun x => nextPc (setA x (wDst w) (mapLanes a fun _ l => l)))) ∧
    (canIssue s t w 3 1 = some (it, th) → th.stat = some (b, d) →
      s1 = meterOps (bump s (wImm19 w % 512 + mWidth d.tag)) it.job d.tag (2 * 64 * mWidth d.tag) →
      (g = fun i l => if i < mRows d.tag then
        addProducts (wL w) (d.tag = 0 || wFmt w = 0) l (List.zipWith vMul (upTo (mWidth d.tag) (statElem b d i))
          (upTo (mWidth d.tag) fun j => xElem s (wFmt w) (vReg th (wSa w)) (wImm19 w % 512 + j))) else l) →
      takeClass (aReg (threadOf s1 t) (wDst w)) (wL w) = some a → laneOver (mapLanes a g) = false →
      exec (.mmv t w) s = .next (onThread s1 t fun x => nextPc (setA x (wDst w) (mapLanes a g)))) ∧
    (canIssue s t w 3 2 = some (it, th) → wholeTile s it th (sReg th (wSa w)) = (s1, .ok (tag, bs)) →
      s2 = meterOps s1 it.job tag (2 * mRows tag * mCols tag) →
      (g = fun i l => if i < mRows tag then addProducts (wL w) (tag = 0 || wFmt w = 0) l
        (List.zipWith vMul (upTo (mCols tag) fun j => tileElem (byteGet bs) tag (i * mCols tag + j))
          (upTo (mCols tag) fun j => vVal (wFmt w) (vReg th (wSb w + j / vLen (wFmt w))) (j % vLen (wFmt w)))) else l) →
      takeClass (aReg (threadOf s2 t) (wDst w)) (wL w) = some a → laneOver (mapLanes a g) = false →
      exec (.mtv t w) s = .next (onThread s2 t fun x => nextPc (setA x (wDst w) (mapLanes a g)))) ∧
    (canIssue s t w 4 1 = some (it, th) →
      exec (.aout t w) s = .next (onThread (bump s 64) t fun x => nextPc (setV x (wDst w) (vOf (wFmt w) (upTo (vLen (wFmt w)) fun j =>
        if j < 64 then codeOf (wFmt w) (wCvt w) (drawU s.draws j) (accVal (aReg x (wSa w)) j)
        else vElem (wFmt w) (vReg x (wDst w)) j))))) ∧
    (canIssue s t w 4 2 = some (it, th) →
      (g = fun i l => addProducts (wL w) (wFmt w = 0) l [vVal (wFmt w) (vReg th (wSa w)) (wImm19 w % 512 + i)]) →
      takeClass (aReg (threadOf s t) (wDst w)) (wL w) = some a → laneOver (mapLanes a g) = false →
      exec (.aaddv t w) s = .next (onThread s t fun x => nextPc (setA x (wDst w) (mapLanes a g)))) ∧
    (canIssue s t w 4 4 = some (it, th) → useScratch th (sReg th (wSb w)) = .ok h →
      exec (.axp t w) s = .next (onThread (meter s it.job 0 768) t fun x =>
        nextPc (modHandle x h.num fun y => { y with
          data := { y.data with cells := putBytes y.data.cells (768 * wImm19 w) (accPartials (aReg x (wSa w))) } }))) ∧
    (canIssue s t w 4 5 = some (it, th) → useHandle it th (sReg th (wSa w)) = .ok h →
      readHandle s it h (768 * wImm19 w) 768 = (s1, .ok bs) → ((upTo 64 fun i => leAt bs (12 * i) 12).any extBad) = false →
      (g = fun i l => laneAdd false l (extVal (nth 0 (upTo 64 fun i => leAt bs (12 * i) 12) i)) 1) →
      takeClass (aReg (threadOf s1 t) (wDst w)) true = some a → laneOver (mapLanes a g) = false →
      exec (.axi t w) s = .next (onThread s1 t fun x => nextPc (setA x (wDst w) (mapLanes a g))))

/-- R123, R131: what an accumulating instruction answers: the lanes changed, fault 0xF3 where the accumulator's class is another,
MALFORMED where a lane would have received more than 2^32 products. -/
def Obligations.AccumulateAnswers : Prop :=
  ∀ (s : State) (t : ThreadRef) (r : Nat) (long : Bool) (g : Nat → Lane → Lane),
    (∀ a, takeClass (aReg (threadOf s t) r) long = some a → laneOver (mapLanes a g) = false →
      accumulate s t r long g = .next (onThread s t fun x => nextPc (setA x r (mapLanes a g)))) ∧
    (∀ a, takeClass (aReg (threadOf s t) r) long = some a → laneOver (mapLanes a g) = true →
      accumulate s t r long g = .next (fault s t stMalformed 0)) ∧
    (takeClass (aReg (threadOf s t) r) long = none → accumulate s t r long g = .next (fault s t 0xF3 0)) ∧
    (takeClass (aReg (threadOf s t) r) long = none ↔
      (long = true ∧ (aReg (threadOf s t) r).cls = .b32) ∨ (long = false ∧ (aReg (threadOf s t) r).cls = .long))

/-- R124, R126: an atomic of a thread on a line of this module reads the old value into its register and changes the line at its home at
once; one on another module's line is completed by the answer that has come. -/
def Obligations.AtomicInstructionsComplete : Prop :=
  ∀ (s s1 s2 : State) (t : ThreadRef) (w : BitVec 64) (it : Item) (th : Thread) (a old : Nat) (v : W64), guardHolds th w = true →
    (∀ o c, (o, c) ∈ ([(0, .amadd), (1, .amand), (2, .amor), (3, .amxor), (4, .amminu), (5, .ammaxu), (6, .ammin), (7, .ammax),
        (8, .amswp), (9, .amcas), (10, .amfadd)] : List (Nat × (ThreadRef → BitVec 64 → Instr))) →
      canIssue s t w 6 o = some (it, th) → (if o = 9 then addrT th w else addrI th w) % widthBytes (wW w) = 0 →
      (th.reply = none → tryStore s t.item 2 (if o = 9 then addrT th w else addrI th w) false = (s1, .ok (.here a)) →
        isPoisoned s1 (lineOf a) = false →
        applyAtomic (meter (meterLine s1 (lineOf a) it.job 128) it.job 3 1) (lineOf a) (a % 64) o (wW w)
          (sReg th (wSb w)).toNat (sReg th (wSc w)).toNat = (old, s2) →
        exec (c t w) s = .next (onThread s2 t fun x => nextPc (setS x (wDst w) (BitVec.ofNat 64 old)))) ∧
      (th.reply = some (stOk, v) →
        exec (c t w) s = .next (onThread (onThread s t fun x => { x with reply := none }) t fun x => nextPc (setS x (wDst w) v)))) ∧
    (canIssue s t w 7 4 = some (it, th) → th.reply = none →
      tryStore s t.item 2 (sReg th (wSa w)).toNat false = (s1, .ok (.here a)) → isPoisoned s1 (lineOf a) = false →
      applyAtomic (meter (meterLine s1 (lineOf a) it.job 128) it.job 3 1) (lineOf a) (a % 64) 0xB 0
        ((sReg th (wSb w)).toNat % 256) (wImm w % 256) = (old, s2) →
      exec (.flagcas t w) s = .next (onThread s2 t fun x => nextPc (setS x (wDst w) (BitVec.ofNat 64 old))))

/-- R125, R127: the crew counters, FLAGWAIT with its polls and its limit, and the fences of a thread. -/
def Obligations.WaitsAndFencesComplete : Prop :=
  ∀ (s s1 : State) (t : ThreadRef) (w : BitVec 64) (it : Item) (th : Thread) (bs : List Byte) (srcs : List Src)
    (a v dst since limit k : Nat), guardHolds th w = true →
    (canIssue s t w 7 0 = some (it, th) →
      exec (.cntadd t w) s = .next (onItem (onThread s t fun x => nextPc (setS x (wDst w) ((crewCount it (wImm w)).setWidth 64))) t.item
        fun x => { x with c := tput 0 x.c (wImm w % 8) (crewCount it (wImm w) + (sReg th (wSa w)).truncate 32) })) ∧
    (canIssue s t w 7 1 = some (it, th) →
      exec (.cntwait t w) s = .next (if (crewCount it (wImm w) - (sReg th (wSa w)).truncate 32).toNat < 2 ^ 31
        then onThread s t nextPc else s)) ∧
    (canIssue s t w 7 2 = some (it, th) →
      exec (.cntrd t w) s = .next (onThread s t fun x => nextPc (setS x (wDst w) ((crewCount it (wImm w)).setWidth 64)))) ∧
    (canIssue s t w 7 3 = some (it, th) → readJva s t.item t.n 0 (sReg th (wSa w)).toNat 1 = (s1, .ok (bs, srcs)) →
      (bs.headD 0).toNat = (sReg th (wSb w)).toNat % 256 →
      exec (.flagwait t w) s = .next (endFlagWait (chargeReads s1 t.item srcs) t (wDst w) true)) ∧
    ((threadOf s t).wait = .flag a v dst since limit (some k) → usPassed since s.clk.pilot (pollUs k) = true →
      readJva s t.item t.n 0 a 1 = (s1, .ok (bs, srcs)) →
      exec (.flagwaitPoll t) s = .next (if (bs.headD 0).toNat = v then endFlagWait (chargeReads s1 t.item srcs) t dst true
        else onThread (chargeReads s1 t.item srcs) t fun x => { x with wait := .flag a v dst since limit (some (k + 1)) })) ∧
    (∀ q, (threadOf s t).wait = .flag a v dst since limit q → limit ≠ 0 → since + limit ≤ s.clk.pilot →
      exec (.flagwaitTimeout t) s = .next (endFlagWait s t dst false)) ∧
    (canIssue s t w 0xB 0 = some (it, th) → fenceOpen s t none = false →
      exec (.fenceInstr t w) s = .next (endFence s t (wDst w) none)) ∧
    (canIssue s t w 0xB 1 = some (it, th) → fenceOpen s t (some ((sReg th (wSa w)).toNat % 2 ^ 14)) = false →
      exec (.fenced t w) s = .next (endFence s t (wDst w) (some ((sReg th (wSa w)).toNat % 2 ^ 14)))) ∧
    (∀ dev, (threadOf s t).wait = .fence dst dev → fenceOpen s t dev = false →
      exec (.fenceCountZero (.thread t)) s = .next (endFence s t dst dev))

/-- R114, R131, R133, class 0xA: the control instructions. -/
def Obligations.ControlInstructionsComplete : Prop :=
  ∀ (s : State) (t : ThreadRef) (w : BitVec 64) (it : Item) (th : Thread), guardHolds th w = true →
    (canIssue s t w 0xA 0 = some (it, th) → exec (.br t w) s = .next (onThread s t fun x => { x with pc := target x w })) ∧
    (canIssue s t w 0xA 1 = some (it, th) →
      exec (.jal t w) s = .next (onThread s t fun x => { setS x (wDst w) (BitVec.ofNat 64 (x.pc + 1)) with pc := target x w })) ∧
    (canIssue s t w 0xA 2 = some (it, th) → (sReg th (wSa w)).toNat < (it.code.getD []).length →
      exec (.jr t w) s = .next (onThread s t fun x => { x with pc := (sReg th (wSa w)).toNat })) ∧
    (canIssue s t w 0xA 2 = some (it, th) → (it.code.getD []).length ≤ (sReg th (wSa w)).toNat →
      exec (.jr t w) s = .next (fault s t 0xF2 0)) ∧
    (canIssue s t w 0xA 3 = some (it, th) →
      exec (.loop t w) s = .next (onThread s t fun x =>
        if sReg x (wDst w) - 1 = 0 then nextPc (setS x (wDst w) 0)
        else { setS x (wDst w) (sReg x (wDst w) - 1) with pc := target x w })) ∧
    (canIssue s t w 0xA 5 = some (it, th) →
      exec (.exit t w) s = .next (onItem (onThread s t fun x => { x with done := some (wImm w % 256) }) t.item fun x => { x with
        exits := x.exits ++ [wImm w % 256] })) ∧
    (canIssue s t w 0xA 6 = some (it, th) → exec (.trap t w) s = .next (fault s t (wImm w % 256) 0)) ∧
    (canIssue s t w 0xA 8 = some (it, th) →
      exec (.ccnt t w) s = .next (onThread (bump s 1) t fun x => nextPc (setS x (wDst w) (Config.stoveClocks s.draws))))

/-- R114, classes 0x8 and 0x9: the search and embedding instructions that work on handles. The bytes that PQLUT, PQSCAN and TOPKINS write
are free values (log 29). -/
def Obligations.HelperInstructionsComplete : Prop :=
  ∀ (s s1 : State) (t : ThreadRef) (w : BitVec 64) (it : Item) (th : Thread) (d h h2 : Handle) (tag : Nat) (bs : List Byte)
    (srcs : List Src), guardHolds th w = true →
    (∀ o c, (o, c) ∈ ([(0, .pqlut), (1, .pqscan), (2, .topkins)] : List (Nat × (ThreadRef → BitVec 64 → Instr))) →
      canIssue s t w 8 o = some (it, th) → useScratch th (sReg th (wDst w)) = .ok d → useHandle it th (sReg th (wSa w)) = .ok h →
      useHandle it th (sReg th (wSb w)) = .ok h2 →
      exec (c t w) s = .next (onThread (bump s 16384) t fun x =>
        nextPc (modHandle x d.num fun y => { y with data := { y.data with cells := cellsOf (freeTile s) } }))) ∧
    (canIssue s t w 8 3 = some (it, th) → useScratch th (sReg th (wDst w)) = .ok d →
      wholeTile s it th (sReg th (wSa w)) = (s1, .ok (tag, bs)) → listBad bs = false →
      listBad (dataBytes d.data 0 16384) = false → 64 + 16 * (listHead (dataBytes d.data 0 16384)).k ≤ 16384 →
      exec (.topkmrg t w) s = .next (onThread
        (meter s1 it.job 0 (mergeLists (listHead (dataBytes d.data 0 16384)).k [dataBytes d.data 0 16384, bs]).length) t fun x =>
          nextPc (modHandle x d.num fun y => { y with
            data := { y.data with
              cells := putBytes y.data.cells 0 (mergeLists (listHead (dataBytes d.data 0 16384)).k [dataBytes d.data 0 16384, bs]) } }))) ∧
    (canIssue s t w 8 4 = some (it, th) →
      readJva s t.item t.n 0 ((sReg th (wSb w)).toNat + (sReg th (wSa w)).toNat / 8) 65 = (s1, .ok (bs, srcs)) →
      exec (.bmtest t w) s = .next (onThread (chargeReads s1 t.item srcs) t fun x =>
        nextPc (setV x (wDst w) (BitVec.ofNat 4096 (packCodes 8 (upTo 512 fun k =>
          b2n ((byteGet bs (((sReg th (wSa w)).toNat % 8 + k) / 8)).getLsbD (((sReg th (wSa w)).toNat % 8 + k) % 8)))))))) ∧
    (∀ n, canIssue s t w 9 2 = some (it, th) → it.coal.findIdx? (· = sReg th (wSa w)) = some n →
      exec (.coali t w) s = .next (onThread s t fun x => nextPc (setS x (wDst w) (BitVec.ofNat 64 n)))) ∧
    (canIssue s t w 9 2 = some (it, th) → it.coal.findIdx? (· = sReg th (wSa w)) = none → it.coal.length < coalSize →
      exec (.coali t w) s = .next (onItem (onThread s t fun x => nextPc (setS x (wDst w) (BitVec.ofNat 64 it.coal.length))) t.item
        fun y => { y with coal := y.coal ++ [sReg th (wSa w)] })) ∧
    (canIssue s t w 9 3 = some (it, th) →
      exec (.coaln t w) s = .next (onThread s t fun x => nextPc (setS x (wDst w) (BitVec.ofNat 64 it.coal.length))))

/-! ## Operators (R128, R136, R137 to R194, R277, R325) -/

/-- R136, R137, R192, R193, R277: an operator all of whose units are done ends with its counts. -/
def Obligations.OperatorsEnd : Prop :=
  ∀ (s : State) (i : ItemId) (it : Item),
    (runs s i 0x0001 it → exec (.nop i) s = .next (endItem s i { status := stOk })) ∧
    (runs s i 0x0010 it → opFld it 384 32 ≤ it.prog →
      exec (.copy i) s = .next (endItem s i { status := plainStatus it, count := opFld it 384 32 })) ∧
    (runs s i 0x0011 it → opFld it 320 32 ≤ it.prog →
      exec (.fill i) s = .next (endItem s i { status := stOk, count := opFld it 320 32 })) ∧
    (runs s i 0x0042 it → opFld it 512 64 = 0 → opFld it 384 32 ≤ it.prog →
      exec (.reduceLocal i) s = .next (endItem s i { status := plainStatus it, count := opFld it 384 32 })) ∧
    (runs s i 0x0042 it → opFld it 512 64 ≠ 0 → opFld it 384 32 ≤ it.prog →
      exec (.reduceGroup i) s = .next (endItem s i { status := plainStatus it, count := opFld it 384 32 })) ∧
    (runs s i 0x0050 it → opFld it 352 2 = 0 → opFld it 320 32 ≤ it.prog →
      exec (.prefetchTranslate i) s = .next (endItem s i { status := stOk, count := itCnt it 0, detail := itCnt it 1 })) ∧
    (runs s i 0x0050 it → opFld it 352 2 = 1 → opFld it 320 32 ≤ it.prog →
      exec (.prefetchTier0 i) s = .next (endItem s i { status := stOk, count := itCnt it 0, detail := itCnt it 1 })) ∧
    (runs s i 0x0051 it → opFld it 352 8 = 1 → opFld it 320 32 ≤ it.prog →
      exec (.advisePin i) s = .next (endItem s i (if itCnt it 2 ≠ 0
        then { status := stShort, count := itCnt it 0, detail := itCnt it 0 }
        else { status := stOk, count := itCnt it 0, detail := itCnt it 1 }))) ∧
    (runs s i 0x0051 it → opFld it 352 8 = 2 → opFld it 320 32 ≤ it.prog →
      exec (.adviseUnpin i) s = .next (endItem s i { status := stOk, count := itCnt it 0, detail := itCnt it 1 })) ∧
    (∀ lk e, runs s i 0x0051 it → opFld it 352 8 = 5 → jobEntry s it.job = some (lk, e) → opFld it 384 64 % 16384 = 0 →
      opFld it 320 32 * 16384 ≤ it.prog →
      exec (.adviseRemap i) s = .next (if itCnt it 4 = 0 then onItem s i fun y => { setCnt y 4 1 with prog := 0 }
        else endItem s i { status := stOk, count := itCnt it 0, detail := itCnt it 1 })) ∧
    (∀ k, runs s i 0x0041 it → k = kvOf it.buf → it.prog ≠ 0 → k.heads * k.qpk < it.prog → ∃ r,
      exec (.attend i) s = .next (endItem s i r) ∧ r.status = plainStatus it ∧ r.count = it.prog - 1)

/-- R137, R192, R193: one unit of COPY (a tile with its tag), FILL (a tile of the pattern) and REDUCE (up to a unit of elements) on
operands that can be read and written. -/
def Obligations.GeneralOperatorUnits : Prop :=
  ∀ (s s1 s2 s3 s4 : State) (i : ItemId) (it : Item) (tag : Nat) (bs : List Byte),
    (runs s i 0x0010 it → it.prog < opFld it 384 32 → needTile s i (opFld it 256 64 + 16384 * it.prog) = (s1, .ok (tag, bs)) →
      opFld it 424 1 ≠ 1 → itemStoreTile s1 i (opFld it 320 64 + 16384 * it.prog) tag bs = (s2, .ok ()) →
      exec (.copy i) s = .next (onItem s2 i fun x => { releaseTiles x with prog := it.prog + 1 })) ∧
    (runs s i 0x0011 it → it.prog < opFld it 320 32 → opFld it 360 1 = 1 →
      itemStoreTile (bump s (tileElems (opFld it 352 4))) i (opFld it 256 64 + 16384 * it.prog) (opFld it 352 4)
        (List.replicate 2048 (natLe 8 (opFld it 384 64))).flatten = (s1, .ok ()) →
      exec (.fill i) s = .next (onItem s1 i fun x => { x with prog := it.prog + 1 })) ∧
    (∀ (dense : Bool) (m : Nat) (as_ bs_ : List Val), runs s i 0x0042 it → opFld it 512 64 = 0 → it.prog < opFld it 384 32 →
      m = min reduceUnit (opFld it 384 32 - it.prog) →
      itemClass s it (opFld it 320 64) (opFld it 256 64) = (s1, .ok dense) →
      readElems s1 i (opFld it 256 64) (opFld it 416 4) it.prog m = (s2, .ok as_) →
      readElems s2 i (opFld it 320 64) (opFld it 420 4) it.prog m = (s3, .ok bs_) →
      itemStore (bump s3 m) i (opFld it 320 64 + it.prog * elemBytes (opFld it 420 4))
        ((plainElems (opFld it 420 4) (cvtRnd (opFld it 424 4)) (cvtSat (opFld it 424 4)) (drawU s3.draws)
          (List.zipWith (reduceVal dense (opFld it 428 2)) bs_ as_)).flatMap (natLe (elemBytes (opFld it 420 4)))) = (s4, .ok ()) →
      exec (.reduceLocal i) s = .next (onItem s4 i fun x => { x with prog := it.prog + m })) ∧
    (∀ (m : Nat) (vs : List Val), runs s i 0x0042 it → opFld it 512 64 ≠ 0 → it.prog < opFld it 384 32 →
      itemClass s it (opFld it 256 64) (opFld it 256 64) = (s1, .ok true) → m = min 1024 (opFld it 384 32 - it.prog) →
      readElems s1 i (opFld it 256 64) (opFld it 416 4) it.prog m = (s2, .ok vs) →
      contribute s2 it 0 (opFld it 512 64)
        { chunk := it.prog / 1024, last := opFld it 384 32 ≤ it.prog + m
          opa := contribOpa 0 (opFld it 428 2) false (opFld it 420 4) (opFld it 424 4) false (opFld it 384 32 ≤ it.prog + m) 0
          lanes := vs.map fun v => (b32Of v).toNat } = (s3, .ok ()) →
      exec (.reduceGroup i) s = .next (onItem s3 i fun x => { x with prog := it.prog + m }))

/-- R54, R57, R61, R277, R325: one unit of the operators that prepare memory. -/
def Obligations.PreparingOperatorUnits : Prop :=
  ∀ (s s1 s2 : State) (i : ItemId) (it : Item) (ps : List (Nat × Leaf)) (tile : Nat),
    (runs s i 0x0050 it → opFld it 352 2 = 0 → it.prog < opFld it 320 32 →
      quietPages s it.job it.ctx (quarters (opFld it 256 64 + 16384 * it.prog)) = (s1, some ps) →
      exec (.prefetchTranslate i) s = .next (tileDone s1 i (!ps.isEmpty))) ∧
    (runs s i 0x0050 it → opFld it 352 2 = 1 → it.prog < opFld it 320 32 →
      quietPages s it.job it.ctx (quarters (opFld it 256 64 + 16384 * it.prog)) = (s1, some ps) → tileHere s1 ps = some tile →
      exec (.prefetchTier0 i) s = .next (tileDone (promote s1 tile it.job) i (t0Tile (promote s1 tile it.job) tile).isSome)) ∧
    (runs s i 0x0051 it → opFld it 352 8 = 1 → it.prog < opFld it 320 32 →
      tryPages s i 0 (quarters (opFld it 256 64 + 16384 * it.prog)) = (s1, .ok ps) → tileHere s1 ps = some tile →
      admission s1 (tile * 16384) it.job (selfDev s1) it.ctx true = none → quadrantOn s1 (tileHearth tile) = true →
      (t0Tile s1 tile).any (·.pinned) = false → pinnedCount (t0Slice s1 (tileHearth tile)) < 1024 →
      exec (.advisePin i) s = .next (tileDone (pinTile s1 tile it.job) i true)) ∧
    (runs s i 0x0051 it → opFld it 352 8 = 2 → it.prog < opFld it 320 32 →
      tryPages s i 0 (quarters (opFld it 256 64 + 16384 * it.prog)) = (s1, .ok ps) → tileHere s1 ps = some tile →
      admission s1 (tile * 16384) it.job (selfDev s1) it.ctx true = none → (t0Tile s1 tile).any (·.pinned) = true →
      exec (.adviseUnpin i) s = .next (tileDone (onT0Tile s1 tile fun x => { x with pinned := false }) i true)) ∧
    (runs s i 0x0051 it → opFld it 352 8 = 3 → opFld it 384 64 % 16384 = 0 → opFld it 320 32 ≤ it.prog →
      oneDense s (gatheredPair it) = true →
      exec (.advisePair i) s = .next (endItem (onT0 s fun t => { t with
        pairs := t.pairs.filter (fun q => !pairsMeet (gatheredPair it) q) ++ [gatheredPair it] }) i
          { status := stOk, count := opFld it 320 32 })) ∧
    (runs s i 0x0051 it → opFld it 352 8 = 4 → exec (.adviseUnpair i) s = .next (endItem (onT0 s fun t => { t with
        pairs := t.pairs.filter fun p =>
          !(p.job = it.job && rangesMeet p.addr p.tiles (opFld it 256 64) (opFld it 320 32)) }) i
      { status := stOk, count := ((s.t0.pairs.filter fun p =>
          p.job = it.job && rangesMeet p.addr p.tiles (opFld it 256 64) (opFld it 320 32)).map (·.tiles)).sum })) ∧
    (∀ lk e x ok, runs s i 0x0051 it → opFld it 352 8 = 5 → jobEntry s it.job = some (lk, e) → opFld it 384 64 % 16384 = 0 →
      it.prog < opFld it 320 32 * 16384 → findLeaf s it e it.prog = .leaf x → itCnt it 5 ≠ 1 → spotOk s it e x = true →
      itCnt it 4 ≠ 0 → moveBytes s it x = (s1, true) → mpaDev x.at_ = selfDev s1 → rewriteHere s1 x = (s2, some ok) →
      exec (.adviseRemap i) s = .next (settle (leafDone
        (if ok then countTrn (dropTables (releasePage s2 i it.job (opFld it 256 64 + it.prog) x.lg)) 10
          else dropTables (releasePage s2 i it.job (opFld it 256 64 + it.prog) x.lg)) i (it.prog + 2 ^ x.lg) ok))) ∧
    (∀ m l ans, runs s i 0x0060 it → outstanding s (· == .publish i) = false →
      stoveXlate s it (opFld it 256 64) 2 = (s1, .ok (m, l)) → mpaDev m = selfDev s1 → extPresent s1 (mpaLpa m) = true →
      (extOf s1 (mpaLpa m)).state ≠ 6 → publishNow s1 (regionOf (mpaLpa m)) (opFld it 320 32) it.job = (s2, some ans) →
      exec (.publish i) s = .next (endItem s2 i (publishResult ans)))

/-- R146, R149, R151 to R157, R163, R170, R175: one unit of the embedding and search operators. -/
def Obligations.SearchOperatorUnits : Prop :=
  ∀ (s s1 s2 : State) (i : ItemId) (it : Item) (ix : Nat) (rows : List (Bool × Nat)) (key : Nat) (bs ob : List Byte),
    (runs s i 0x0020 it → 1 < it.prog → opFld it 417 2 = 0 → readIndex s i it (itCnt it 0) = (s1, .ok (ix, false)) →
      rowsOf (tblOf it.buf) ix = some rows → it.got.find? (·.1 = ringKey rows) = some (key, bs) →
      itemStore s1 i (opFld it 576 64 + itCnt it 0 * outRow (tblOf it.buf) it) bs = (s2, .ok ()) →
      exec (.gather i) s = .next (onItem s2 i fun x => if itCnt (addCnt x 0 1) 0 = opFld it 384 32
        then { addCnt x 0 1 with result := some (embedResult (addCnt x 0 1) (if itCnt (addCnt x 0 1) 1 = 0 then 0 else 0x80)) }
        else addCnt x 0 1)) ∧
    (∀ c, runs s i 0x0021 it → it.prog = 1 → tblStatus (it.buf.take 64) (opFld it 424 4) true = none →
      itemRead s i (opFld it 512 64) 64 = (s1, .ok ob) →
      optStatus ob (tblOf it.buf).dim (tblOf it.buf).fmt (2 ^ (tblOf it.buf).lg) (opFld it 576 64) = none →
      itemClass s1 it (tblOf it.buf).base (opFld it 256 64) = (s2, .ok c) →
      exec (.scatterUpdate i) s = .next (onItem s2 i fun x => { x with prog := 2, buf := x.buf.take 64 ++ ob })) ∧
    (runs s i 0x0030 it → it.prog ≠ 0 → opFld it 384 16 ≤ itCnt it 0 →
      itemStore s i (opFld it 448 64) (natLe 4 (0x52 + opFld it 384 16 * 2 ^ 8) ++ natLe 4 (opFld it 400 16) ++
        natLe 8 (opFld it 256 64) ++ List.replicate 48 0) = (s1, .ok ()) →
      exec (.ivfProbe i) s = .next (endItem s1 i
        { status := plainStatus it, count := itCnt it 0, opResult := (idxOf it.buf).nlist * opFld it 384 16 })) ∧
    (∀ qv n, runs s i 0x0031 it → it.prog = 1 → readQuery s i it (idxOf it.buf) (itCnt it 0) = (s1, .ok qv) →
      n = (idxOf it.buf).m * idxNc (idxOf it.buf) * ((idxOf it.buf).dim / (idxOf it.buf).m) →
      itemRead s1 i (idxOf it.buf).book (n * elemBytes (idxOf it.buf).cb) = (s2, .ok bs) →
      exec (.pqScan i) s = .next (onItem s2 i fun y =>
        { (keep y tableKey ((distTable (itCnt it 14 = 2) (idxOf it.buf) qv (rowVals (idxOf it.buf).cb n (byteGet bs))).flatMap
            fun c => natLe 4 c.toNat)) with prog := 2 })) ∧
    (∀ ls, runs s i 0x0032 it → it.prog = 0 → readLists s i (opFld it 256 64) (opFld it 320 16) = (s1, .ok ls) →
      itemStore s1 i (opFld it 576 64) (mergeLists (opFld it 336 16) ls) = (s2, .ok ()) →
      exec (.topkMerge i) s = .next (onItem s2 i fun y => setCnt { y with prog := 1, buf := mergeLists (opFld it 336 16) ls } 2
        ((ls.map fun l => (listHead l).found).sum))) ∧
    (runs s i 0x0032 it → it.prog ≠ 0 → opFld it 640 64 = 0 →
      exec (.topkMerge i) s = .next (endItem s i
        { count := 1, detail := (listHead it.buf).found, opResult := itCnt it 2, status := if (listHead it.buf).found < opFld it 336 16 then stShort else plainStatus it }))

/-- R179 to R187, R191: the run of MATVEC with its gates and segments, and ATTEND's checks. -/
def Obligations.RunOperatorUnits : Prop :=
  ∀ (s s1 s2 : State) (i : ItemId) (it : Item) (r : Run) (bs : List Byte),
    (∀ k dense s3, runs s i 0x0040 it → it.run = none →
      r = { segs := (chunks 64 (fld (leNat bs) 8 13) k).map segOf, ahead := fld (leNat bs) 21 2, passes := fld (leNat bs) 32 32, gateLimit := fld (leNat bs) 64 32 } →
      itemRead s i (opFld it 256 64) 64 = (s1, .ok bs) → descStatus (fld (leNat bs) 0 4) (fld (leNat bs) 4 4) 9 = none →
      fld (leNat bs) 8 13 ≠ 0 → fld (leNat bs) 8 13 ≤ 4096 → fld (leNat bs) 32 32 ≠ 0 →
      itemRead s1 i (opFld it 256 64 + 64) (64 * fld (leNat bs) 8 13) = (s2, .ok k) →
      r.segs.any (segBad (opFld it 512 64)) = false → tooWide r = false → (segAt r 0).toGroup = false →
      itemClass s2 it (opFld it 448 64 + 64 * (segAt r 0).yoff) (opFld it 320 64 + 64 * (segAt r 0).xoff) = (s3, .ok dense) →
      (dense = false → r.segs.any (·.toGroup) = true → opFld it 388 4 ≤ 2) →
      exec (.matvec i) s = .next (reachSeg (forAll (List.range r.ahead) (fun s k => stageSeg s i k)
        (onItem s3 i fun x => { x with run := some { r with fine := !dense } })) i)) ∧
    (runs s i 0x0040 it → it.run = some r → r.opened = false → itemRead s i (segAt r (segNow r)).rdy 4 = (s1, .ok bs) →
      ptDiff (leNat bs) ((segAt r (segNow r)).rdyVal + r.pass) < 2 ^ 31 → exec (.gateOpen i) s = .next (openGate s1 i)) ∧
    (runs s i 0x0040 it → it.run = some r → r.opened = false → r.gateLimit ≠ 0 → r.sincePt + r.gateLimit ≤ s.clk.pilot →
      exec (.gateExpired i) s = .next (endItem s i { runCounts it 0 with status := 0xC0 })) ∧
    (runs s i 0x0040 it → it.run = some r → r.sent = true → outstanding s (· == .itemStore i) = false →
      (segAt r (segNow r)).signal = 0 → r.seg + 1 < r.segs.length →
      exec (.segmentComplete i) s = .next (reachSeg (onItem s i fun x => { x with run := some { r with seg := r.seg + 1 } }) i)) ∧
    (runs s i 0x0040 it → it.run = some r → r.sent = true → outstanding s (· == .itemStore i) = false →
      (segAt r (segNow r)).signal = 0 → r.segs.length ≤ r.seg + 1 → r.passes ≤ r.pass + 1 →
      exec (.segmentComplete i) s = .next (endItem
        (onItem s i fun x => { x with run := some { r with seg := r.segs.length, pass := r.passes } }) i
        (runCounts { it with run := some { r with seg := r.segs.length, pass := r.passes } } (plainStatus it)))) ∧
    (∀ c, runs s i 0x0041 it → it.prog = 0 → opFld it 256 64 % 64 = 0 → itemRead s i (opFld it 256 64) 64 = (s1, .ok bs) →
      kvStatus bs (opFld it 416 32) = none → itemClass s1 it (opFld it 448 64) (opFld it 256 64) = (s2, .ok c) →
      exec (.attend i) s = .next (onItem s2 i fun z => { z with prog := 1, buf := bs }))

/-! ## Memory sites, channels and tier 0 (R45 to R58) -/

/-- R46 to R51: the work of a site that is in service and of its channels; the oldest request of a channel, 1,500 ns (two pt) after it was
queued, is marked to go next. -/
def Obligations.SiteWorkCompletes : Prop :=
  (∀ (s s1 : State) (site chan rank bank lpa : Nat) (errs : List (Nat × Ecc)) (temps : List Nat),
     (siteRuns s site = true →
       exec (.scrubRead site errs) s = .next (onSites (forAll errs (fun x e => scrubError x (scrubPlace site (siteAt s site).row e.1) e.2)
           (meterUn s 1 (rowData s site ((siteAt s site).row % 196608)))) fun x => { x with
         sites := tmod {} x.sites site fun v => { v with row := ((siteAt s site).row + 1) % rowsPerSite } })) ∧
     (siteRuns s site = true → lineOf lpa ∈ (siteAt s site).scrubbed → extPresent s lpa = true →
       prepWrite s (lineOf lpa) true = (s1, true) → (siteAt s1 site).scrubbed.contains (lineOf lpa) = true →
       exec (.scrubWriteBack site lpa) s = .next (devStore (meterUn s1 1 64) (lineOf lpa * 64) (lineBytes s1 (lineOf lpa)) false)) ∧
     (s.pwr.state = 0 → s.boot.phase ≠ 12 → exec (.refreshRateRead temps) s = .next (settle (freeWaits
       (forAll (List.range 32) (fun x k => match (temps.map some).getD k none with
         | some t => if (siteAt x k).trained then readSite x k t else x
         | none => x) s)))) ∧
     (siteRuns s site = true → chan < 8 → rank < 2 → bank < 16 →
       exec (.perBankRefresh site chan rank bank) s = .next (easeBank (onBank
         (onChan s (8 * site + chan) fun x => { x with openRow := tput none x.openRow (bankOf rank bank) none })
         (8 * site + chan) (bankOf rank bank) fun x => { x with refreshes := x.refreshes + 1 }) (8 * site + chan) (bankOf rank bank))) ∧
     (siteRuns s site = true → chan < 8 → exec (.channelIssue site chan) s = .next (issueOne s (8 * site + chan))) ∧
     exec .aggressorTableClear s = .next (onSites s fun x => { x with banks := tmapAll {} (fun b => { b with rows := [] }) x.banks })) ∧
  (∀ (s : State) (site chan : Nat) (d : DReq), chan < 8 → (tget {} s.sites.chans (8 * site + chan)).reads = [d] →
     (tget {} s.sites.chans (8 * site + chan)).writes = [] → (tget {} s.sites.chans (8 * site + chan)).urgent = none →
     exec (.requestAgeExpire site chan) s = .next (if d.sincePt + 2 ≤ s.clk.pilot
       then onChan s (8 * site + chan) fun y => { y with urgent := some d.no } else s))

/-- R45, R55, R56: a promotion that ends within 1 µs makes the tier-0 copy whole and is metered; one that takes longer is abandoned and
counted; an evicted tile is back in tier 1. -/
def Obligations.TierZeroMovesComplete : Prop :=
  ∀ (s : State) (h tile since : Nat) (t : T0Tile), (t0Slice s h).tiles.find? (·.tile = tile) = some t → tileHearth tile = h →
    (t.status = .filling since → s.clk.pilot ≤ since + 2 →
      exec (.tileFillComplete h tile) s = .next (endFill (meter s t.job 1 16384) t
        (updFirst (·.tile = tile) fun t => { t with status := .whole, held := [] }))) ∧
    (t.status = .filling since → since + 2 ≤ s.clk.pilot →
      exec (.tileFillAbandon h tile) s = .next (endFill (onT0 s fun x => { x with abandoned := satInc 64 x.abandoned }) t
        (dropFirst (·.tile = tile)))) ∧
    (∀ s1 bad, t.status = .evicting → s1 = onT0Slice s h (fun x => { x with tiles := dropFirst (·.tile = tile) x.tiles }) →
      exec (.evictWritebackComplete h tile bad) s = .next (forAll (bad.filter (· < 256))
        (fun s k => if isPoisoned s (tile * 256 + k) then s else poisonLine s (tile * 256 + k))
        (forAll (List.range 256) (fun s k => queueDram s (tile * 256 + k) true)
          (meter s1 (extOf s1 (tile * 16384)).job 1 16384)))) ∧
    exec (.hotTilePeriod h) s = .next (onT0Slice s h fun x => { x with hot := [] })

/-! ## Stoves and slots (R89 to R116, R129 to R131) -/

/-- R62, R99, R115, R116: a tile fetch of an item becomes whole with the tile, or its budget lapses; a TLD that finds no room for 10 ms
faults with TIMEOUT. -/
def Obligations.TileFetchesComplete : Prop :=
  ∀ (s s1 : State) (i : ItemId) (k n b since : Nat) (it : Item) (f : Fetch) (g : TileGot), itemOf s i = some it →
    (k < it.fetches.length → nth {} it.fetches k = f → f.st = .fetching → readTile s i f.thread f.jva = (s1, .ok g) →
      exec (.tileFetchComplete i k) s = .next (fetchWhole s1 i k g false)) ∧
    (k < it.fetches.length → nth {} it.fetches k = f → f.budget = some b → f.st = .fetching → f.issued + b ≤ s.clk.pilot →
      it.result = none → exec (.fetchBudgetLapse i k) s = .next (match shadowOf s it.job f.jva with
        | some tile => onFetch s i k fun x => { x with askShadow := some tile, budget := none }
        | none => if it.miss then fault s { item := i, n := f.thread } stTimeout f.jva
          else onFetch s i k fun x => { x with budget := none })) ∧
    (∀ w, (threadOf s { item := i, n := n }).wait = .pool since → runsCode it = true → usPassed since s.clk.pilot 10000 = true →
      (it.code.bind fun ws => ws[(threadOf s { item := i, n := n }).pc]?) = some w →
      exec (.tldPoolTimeout { item := i, n := n }) s = .next (onThread (fault s { item := i, n := n } stTimeout
        (sReg (threadOf s { item := i, n := n }) (wSa w)).toNat) { item := i, n := n } fun x => { x with wait := .none }))

/-- R96, R97, R100 to R103, R105 to R107: a slot is taken, an item completes over TAKEN, a cancelled item's slot fails with
UNKNOWN_OUTCOME, and an item moves to another Stove. -/
def Obligations.SlotsAndItemsComplete : Prop :=
  ∀ (s s1 s2 : State) (h : Nat) (i : ItemId) (it : Item) (w : Win) (r : Result) (c : Chosen) (passed : List QSlot),
    (choose s h (ranked s h) [] = (s1, some (c, passed)) → (ctxOf s1 c.q.ctx).win = some w →
      (takeSlot s1 h c w).stv.nextItem ≠ s1.stv.nextItem →
      exec (.slotTake h) s = .next (settle (onSchedN (takeSlot s1 h c w) h fun x => { x with
        queue := x.queue.map fun q => if passed.any fun p => p.ctx = q.ctx && p.slot = q.slot then
          { q with passed := q.passed + 1, got := none } else q }))) ∧
    (itemOf s i = some it → outcomeOf it = some r → (ctxOf s it.ctx).win = some w → it.cancelled = false → itemBusy s i = false →
      flagReady s w it.slot = (s1, true) → placeMatches s1 w it = true → slotFlag s1 w it.slot = 2 →
      exec (.itemComplete i) s = .next (completeItem s1 it w r)) ∧
    (itemOf s i = some it → it.cancelled = true → itemBusy s i = false → it.noFlag = false → (ctxOf s it.ctx).win = some w →
      flagReady s w it.slot = (s1, true) → placeMatches s1 w it = true → slotFlag s1 w it.slot = 5 → unpin s1 it = (s2, true) →
      exec (.cancelDrainDone i) s = .next (endFlag (onWin s2 it.ctx fun x => { x with cancels := satInc 32 x.cancels, changed := true })
        { it with pin := none } w stUnknown 2 (min it.shadowCnt 65535) 4)) ∧
    (∀ stove, itemOf s i = some it → stove < 32 → stove ≠ it.stove → it.cancelled = false →
      fits (onStv s fun x => { x with items := x.items.filter (·.id ≠ i) }) stove
        { crew := it.crew, accs := it.accs, stat := it.stat, scratch := it.scratch, code := it.codeTiles } = true →
      s.pwr.domains.getLsbD (stove / 4) = true → (ctxOf s it.ctx).win = some w → flagReady s w it.slot = (s1, true) →
      slotFlag s1 w it.slot = 2 → placeMatches s1 w it = true → isPoisoned s1 (lineOf (slotLpa w it.slot)) = false →
      exec (.itemMove i stove) s = .next (onItem (moveHearth (devStore s1 (slotLpa w it.slot + 22) (natLe 2 (it.place + 1)) false) it
        (stove / 4)) i fun x => { x with stove := stove, hearth := stove / 4, place := (it.place + 1) % 65536 })) ∧
    (∀ ctx, (ctxOf s ctx).win = some w → w.state = 1 → w.changed = true → w.lastPt + 1024 ≤ s.clk.pilot →
      exec (.windowCounterUpdate ctx) s = .next (onWin (writeWinHeader s w 1 0) ctx fun x => { x with
        changed := false, lastPt := s.clk.pilot })) ∧
    ((tget none s.pwr.returning h).isSome = true → h < 8 → s.pwr.domains.getLsbD (8 + h) = true → s.pwr.state = 0 →
      exec (.stoveDomainPowered h) s = .next (onPwr s fun p => { p with
        returning := tput none p.returning h none, domains := p.domains ||| BitVec.ofNat 30 (2 ^ h) }))

/-- R110, R129 to R131: a kernel's code is read once and kept, its crew starts with the registers of R110, and its limit ends it. -/
def Obligations.KernelsComplete : Prop :=
  ∀ (s s1 s2 : State) (i : ItemId) (it : Item) (hb cb : List Byte) (hs cs : List Src),
    (runs s i 0x70 it → it.code = none → readJva s i 0 3 (opFld it 256 64) 64 = (s1, .ok (hb, hs)) →
      descStatus (fld (leNat hb) 0 4) (fld (leNat hb) 4 4) 1 = none → headOk it (codeHead hb) = true →
      readJva s1 i 0 3 (opFld it 256 64 + 64) (8 * (codeHead hb).words) = (s2, .ok (cb, cs)) → crc32c cb = (codeHead hb).crc →
      codeBad (chargeReads (chargeReads s2 i hs) i cs) it (codeHead hb)
        ((chunks 8 (codeHead hb).words cb).map fun x => BitVec.ofNat 64 (leNat x)) = none →
      exec (.kernelCodeRead i) s = .next (holdCode (chargeReads (chargeReads s2 i hs) i cs) i (codeHead hb)
        ((chunks 8 (codeHead hb).words cb).map fun x => BitVec.ofNat 64 (leNat x)))) ∧
    (∀ w, runs s i 0x70 it → it.code.isSome = true → it.validated = false → (ctxOf s it.ctx).win = some w →
      exec (.kernel i) s = .next (onItem s i fun x => { x with
        validated := true, prog := s.clk.pilot
        threads := (List.range it.crew).foldl (fun t k => tput {} t k (setS (setS (setS (setS { pc := it.base } 0 (BitVec.ofNat 64 k)) 1
          (BitVec.ofNat 64 it.crew)) 2 (BitVec.ofNat 64 (w.base + 256 * (it.slot + 1)))) 3 (BitVec.ofNat 64 it.job))) ([] : Tab Thread) })) ∧
    (itemOf s i = some it → runsCode it = true → opFld it 320 32 ≠ 0 → it.prog + opFld it 320 32 ≤ s.clk.pilot →
      exec (.runLimitExpire i) s = .next (fault s { item := i, n := 0 } stTimeout 0))

/-! ## Requests at their home (R203, R204, R261, R285, R295) -/

/-- R204, R261, R295: a memory request that nothing refuses and before which nothing stands at its line is served: READ answers with the
line, WRITE changes the bytes its mask names, WRITE_PUSH the whole line, ATOMIC applies its operation and answers the old value; of a
poisoned line READ answers POISON; a tile request serves its first line and goes on to the next. -/
def Obligations.MemoryRequestsServed : Prop :=
  ∀ (s s1 s2 : State) (a : Arrival) (f : Frame) (l : Nat) (r r2 : Req), servedAt s a f l s1 r → inTransit s f = false →
    (f.typ = tRead → isPoisoned s1 l = false →
      exec (.read a f) s = .next (settle (conclude (markFresh (meterLine s1 l r.f.job 64) l) l r []
        { payload := lineBytes s1 l, result := readResult s1 r l }))) ∧
    (f.typ = tRead → isPoisoned s1 l = true →
      exec (.read a f) s = .next (settle (conclude (markFresh (meterLine s1 l r.f.job 64) l) l r [] (plain stPoison)))) ∧
    (f.typ = tWrite → f.opa ≠ 0 → (isPoisoned s1 l = false ∨ f.opa = BitVec.allOnes 64) →
      exec (.write a f) s = .next (settle (conclude (markFresh (applyWrite
        (meterStore (dropOwn s1 l (ownAgents s1 r [])) l r.f.job (decide (f.opa = BitVec.allOnes 64))) l
        (maskBytes f.opa.toNat (lineBytes s1 l) (byteSlice r.f.payload 0 64)) (decide (f.opa = BitVec.allOnes 64))) l) l r []
        (plain stOk)))) ∧
    (f.typ = tWritePush →
      exec (.writePush a f) s = .next (settle (conclude (markFresh (applyWrite
        (meterStore (dropOwn s1 l (ownAgents s1 r [])) l r.f.job true) l (byteSlice r.f.payload 0 64) true) l) l r [] (plain stOk)))) ∧
    (f.typ = tAtomic → isPoisoned s1 l = false →
      exec (.atomic a f) s = .next (settle (conclude (markFresh (applyAtomic
          (meter (meterLine (dropOwn s1 l (ownAgents s1 r [])) l r.f.job 128) r.f.job 3 1) l (r.f.mpa.toNat % 64) (reqAop r.f) (reqW r.f)
          (atomicArgs r.f).1 (atomicArgs r.f).2).2 l) l r []
        { result := BitVec.ofNat 64 (applyAtomic
          (meter (meterLine (dropOwn s1 l (ownAgents s1 r [])) l r.f.job 128) r.f.job 3 1) l (r.f.mpa.toNat % 64) (reqAop r.f) (reqW r.f)
          (atomicArgs r.f).1 (atomicArgs r.f).2).1 }))) ∧
    (f.typ = tTileRead → isPoisoned s1 l = false → s2 = meterLine s1 l r.f.job 64 →
      r2 = { r with part := r.part + 1, acc := r.acc ++ lineBytes s2 l, stage := 0, a := { r.a with ecc := .clean } } →
      r.part + 1 ≠ 256 → txOf s2 l = none → txOf s2 (reqLine s2 r2) = none → lockOf s2 (reqLine s2 r2) = none →
      exec (.tileRead a f) s = .next (settle (serveOne 4095 s2 r2 []))) ∧
    (f.typ = tTileWrite → s2 = applyWrite (meterStore (dropOwn s1 l (ownAgents s1 r [])) l r.f.job true) l
        (byteSlice r.f.payload (64 * r.part) 64) true →
      r2 = { r with part := r.part + 1, acc := [], stage := 0, a := { r.a with ecc := .clean } } →
      r.part + 1 ≠ 256 → txOf s2 l = none → txOf s2 (reqLine s2 r2) = none → lockOf s2 (reqLine s2 r2) = none →
      exec (.tileWrite a f) s = .next (settle (serveOne 4095 s2 r2 [])))

/-- R281, R288, R295, R303: a coherence request that nothing refuses and before which nothing stands at its line is granted: RD_S shared
with the line, RD_X exclusive with the line, UPGRADE exclusive without data where the agent held the line shared and with the line
where it did not, ATOM near exclusive with the line or far with the old value. -/
def Obligations.CoherenceRequestsServed : Prop :=
  ∀ (s s1 c : State) (a : Arrival) (f : Frame) (l : Nat) (r : Req), servedAt s a f l s1 r → inTransit s f = false → f.typ = tCoh →
    c = countCoh s1 (lineHearth l) 0 → isPoisoned s1 l = false →
    (cohMsg f = 1 → r.nc = false →
      exec (.cohRdS a f) s = .next (settle (conclude (markFresh (grantTo (meterLine c l r.f.job 64) l r false) l) l r [] (grantData c l 1 false)))) ∧
    (cohMsg f = 2 → r.nc = false →
      exec (.rdX a f) s = .next (settle (conclude (markFresh (grantTo (meterLine (dropOwn c l (ownAgents s1 r [])) l r.f.job 64) l r true) l) l r []
        (grantData c l 2 false)))) ∧
    (∀ hs, cohMsg f = 3 → r.nc = false → homeOf c l = some (.s hs) →
      ((ownAgents s1 r []).any fun k => hs.any (·.agent = k)) = true →
      exec (.upgrade a f) s = .next (settle (conclude (markFresh (grantTo (meterLine (dropOwn c l (ownAgents s1 r [])) l r.f.job 0) l r true) l) l r []
        { info := cohInfo 2 false false }))) ∧
    (cohMsg f = 3 → r.nc = false → homeOf c l = none →
      exec (.upgrade a f) s = .next (settle (conclude (markFresh (grantTo (meterLine (dropOwn c l (ownAgents s1 r [])) l r.f.job 64) l r true) l) l r []
        (grantData c l 2 false)))) ∧
    (∀ c1, cohMsg f = 4 → r.stage ≠ 2 → c1 = countCoh (meter c r.f.job 3 1) (lineHearth l) 7 →
      exec (.atom a f) s = .next (settle (conclude (markFresh (grantTo (meterLine (dropOwn c1 l (ownAgents s1 r [])) l r.f.job 64) l r true) l) l r []
        (grantData c1 l 2 true)))) ∧
    (∀ c1 v, cohMsg f = 4 → r.stage = 2 →
      c1 = meterLine (dropOwn (countCoh (meter c r.f.job 3 1) (lineHearth l) 8) l (ownAgents s1 r [])) l r.f.job 128 →
      v = applyAtomic c1 l (r.f.mpa.toNat % 64) (reqAop r.f) (reqW r.f) (atomicArgs r.f).1 (atomicArgs r.f).2 →
      exec (.atom a f) s = .next (settle (conclude (markFresh v.2 l) l r [] { result := BitVec.ofNat 64 v.1 })))

/-- R293, R295, R297, R301, R302: an agent's other messages at the home of their line: EVICT_S and EVICT_X drop what it holds, WB also
writes the line back, FETCH answers a holder with the line, and an acknowledgement ends the snoop that it answers. -/
def Obligations.CoherenceMessagesServed : Prop :=
  ∀ (s s1 s2 : State) (a : Arrival) (f : Frame) (k l : Nat) (r r2 : Req), messageAt s a f k s1 r → inTransit s f = false → f.typ = tCoh →
    l = lineOf (mpaLpa r.f.mpa.toNat) →
    (∀ hs, cohMsg f = 5 → itsTurn s1 r s2 r2 → l = reqLine s1 r → agentOf s2 r2.f = some k → homeOf s2 l = some (.s hs) →
      exec (.evictS a f) s = .next (settle (conclude (markFresh (removeHolder s2 l k) l) l r2 [] (plain stOk)))) ∧
    (cohMsg f = 6 → snoopedNow s1 l k = false → itsTurn s1 r s2 r2 → l = reqLine s1 r →
      ((ownerOf s2 l).any fun o => decide (some o.agent = agentOf s2 r2.f)) = true →
      exec (.evictX a f) s = .next (settle (conclude (markFresh (setHome s2 l none) l) l r2 [] (plain stOk)))) ∧
    (cohMsg f = 7 → snoopedNow s1 l k = false → itsTurn s1 r s2 r2 → l = reqLine s1 r →
      ((ownerOf s2 l).any fun o => decide (some o.agent = agentOf s2 r2.f)) = true →
      exec (.wb a f) s = .next (settle (conclude (markFresh (applyWrite (meterStore (setHome s2 l none) l r2.f.job true) l
        (byteSlice r2.f.payload 0 64) true) l) l r2 [] (plain stOk)))) ∧
    (∀ h, cohMsg f = 8 → txOf s1 l = none → (holdersOf (homeOf s1 l)).find? (fun h => some h.agent = agentOf s1 r.f) = some h →
      exec (.fetch a f) s = .next (settle (answer s1 r (grantData s1 l (match homeOf s1 l with | some (.x _) => 2 | _ => 1) false)))) ∧
    (∀ x, answeredSnoop s1 r.f l = some x →
      (cohMsg f = 0x10 → r.f.opb.getLsbD 32 = false →
        exec (.ackI a f) s = .next (settle (progressTx (refuse (snoopDone s1 l x 0x10 r.f.payload) r stOk) l))) ∧
      (cohMsg f = 0x11 → exec (.ackS a f) s = .next (settle (progressTx (refuse (snoopDone s1 l x 0x11 r.f.payload) r stOk) l))) ∧
      (cohMsg f = 0x12 → exec (.ackDataI a f) s = .next (settle (progressTx (refuse (snoopDone s1 l x 0x12 r.f.payload) r stOk) l))) ∧
      (cohMsg f = 0x13 → exec (.ackDataS a f) s = .next (settle (progressTx (refuse (snoopDone s1 l x 0x13 r.f.payload) r stOk) l))) ∧
      (cohMsg f = 0x14 → exec (.ackFwd a f) s = .next (settle (progressTx (refuse (snoopDone s1 l x 0x14 r.f.payload) r stOk) l))))

/-! ## Leases, snapshots, publishing, embedding rows (R156, R315 to R332) -/

/-- R317 to R320: ACQUIRE grants a fresh lease of a free extent for the term asked; RENEW moves the end, RELEASE ends the lease, QUERY
answers what is left of it. -/
def Obligations.LeaseRequestsServed : Prop :=
  ∀ (s s1 : State) (a : Arrival) (f : Frame) (r : Req) (k t : Nat) (e : Ext), comesHome s a f s1 r → inTransit s f = false → f.typ = tLease →
    recordNames s1 (mpaLpa r.f.mpa.toNat) = false → k = lpaExt (mpaLpa r.f.mpa.toNat) → t = leaseTerm s1 (fld r.f.opb.toNat 0 32) →
    (lopOf f = 1 → e = extN s1 k → e.state = 2 → e.vpool = false → e.job = r.f.job → movingOut s1 k = false →
      (liveLeases s1).length < 131072 →
      exec (.leaseAcquire a f) s = .next (settle (answer (countLse (onExtN (takeLease s1).1 k fun x => { x with
        state := 3, leaseNo := (takeLease s1).2, leaseEnd := s1.clk.pilot + t, term := t, holderDev := r.f.srcDev,
        holderCtx := r.f.srcCtx }) 0) r { result := leaseResult (takeLease s1).2 t }))) ∧
    (lopOf f = 2 → namedLease s1 r.f = .extent k e →
      exec (.leaseRenew a f) s = .next (settle (answer (countLse (onExtN s1 k fun x => { x with
        leaseEnd := s1.clk.pilot + t, term := t }) 1) r { result := leaseResult e.leaseNo t }))) ∧
    (lopOf f = 3 → namedLease s1 r.f = .extent k e →
      exec (.leaseRelease a f) s = .next (settle (answer (endLease s1 k 2) r { result := leaseResult e.leaseNo (e.leaseEnd - s1.clk.pilot) }))) ∧
    (lopOf f = 4 → namedLease s1 r.f = .extent k e →
      exec (.leaseQuery a f) s = .next (settle (answer s1 r { result := leaseResult e.leaseNo (e.leaseEnd - s1.clk.pilot) }))) ∧
    (∀ v, lopOf f = 4 → namedLease s1 r.f = .snap v →
      exec (.leaseQuery a f) s = .next (settle (answer s1 r { result := leaseResult v.no (v.endPt - s1.clk.pilot) })))

/-- R322, R323, R329, R331, R332: CREATE makes a region whose current version is 1, OPEN opens the current version under a new lease,
CLOSE ends that lease, QUERY answers the current version, DESTROY begins the region's end. -/
def Obligations.SnapRequestsServed : Prop :=
  ∀ (s s1 : State) (a : Arrival) (f : Frame) (r : Req) (p : Nat) (g : Region) (v : Version) (l : SLease), comesHome s a f s1 r →
    inTransit s f = false → f.typ = tSnap → recordNames s1 (mpaLpa r.f.mpa.toNat) = false → p = mpaLpa r.f.mpa.toNat →
    (sopOf f = 1 → regionAt s1 p = none → admission s1 p r.f.job r.f.srcDev 0xFFFF false = none → s1.ext.regions.length < 65536 →
      exec (.snapCreate a f) s = .next (settle (answer (onExt s1 fun x => { x with
        regions := tput none x.regions (regionOf p) (some { job := r.f.job, exported := r.f.opa.getLsbD 5, current := 1, versions := [{ num := 1 }] }) })
        r { info := 1 }))) ∧
    (∀ t, sopOf f = 2 → liveRegion s1 p = some g → g.job = r.f.job → f.opa.getLsbD 4 = true →
      g.versions.find? (·.num = g.current) = some v → v.lost = false → viewLease s1 (regionOf p) r.f.job r.f.srcDev r.f.srcCtx = none →
      (liveLeases s1).length < 131072 → t = leaseTerm s1 (fld r.f.opb.toNat 32 32) →
      exec (.snapOpen a f) s = .next (settle (answer (countLse (freeVersions (onExt (takeLease s1).1 fun x => { x with
        snaps := x.snaps ++ [{ no := (takeLease s1).2, job := r.f.job, dev := r.f.srcDev, ctx := r.f.srcCtx, region := regionOf p,
                               version := g.current, endPt := s1.clk.pilot + t, term := t }] }) (regionOf p)) 0)
        r { result := leaseResult (takeLease s1).2 t, info := BitVec.ofNat 64 g.current }))) ∧
    (sopOf f = 3 → regionAt s1 p = some g → viewLease s1 (regionOf p) r.f.job r.f.srcDev r.f.srcCtx = some l →
      exec (.snapClose a f) s = .next (settle (answer (endSnap s1 l) r { result := leaseResult l.no (l.endPt - s1.clk.pilot) }))) ∧
    (sopOf f = 4 → liveRegion s1 p = some g → g.job = r.f.job →
      exec (.snapQuery a f) s = .next (settle (answer s1 r { info := BitVec.ofNat 64 g.current }))) ∧
    (sopOf f = 5 → liveRegion s1 p = some g → g.job = r.f.job →
      exec (.snapDestroy a f) s = .next (settle (answer (destroyRegion s1 (regionOf p)) r (plain stOk))))

/-- R156, R325: PUBLISH whose parent is the current version makes the next version, one whose parent is not is answered CONFLICT with the
current one; SCATTER_UPDATE updates its row once the row's lines are ready. -/
def Obligations.PublishAndScatterServed : Prop :=
  ∀ (s s1 s2 : State) (a : Arrival) (f : Frame) (r : Req) (k : Nat), inTransit s f = false →
    (∀ g, comesHome s a f s1 r → f.typ = tPublish → recordNames s1 (mpaLpa r.f.mpa.toNat) = false → k = regionOf (mpaLpa r.f.mpa.toNat) →
      tget none s1.ext.regions k = some g → g.copying = none →
      (publishStop s1 k (fld f.opa.toNat 0 32) r.f.job = none → prepReads s1 (ownedLines s1 k) = (s2, true) →
        exec (.publishRequest a f) s = .next (settle (answer (countLse (freeVersions (onRegion s2 k fun x => { x with
          current := nextVersion g.current, versions := x.versions ++ [{ num := nextVersion g.current }] }) k) 5) r
          { result := BitVec.ofNat 64 (nextVersion g.current) }))) ∧
      (g.destroying = false → g.job = r.f.job → (extOf s1 (k * 2 ^ 21)).state = 3 → fld f.opa.toNat 0 32 ≠ g.current →
        exec (.publishRequest a f) s = .next (settle (answer (countLse s1 6) r { status := stConflict, info := BitVec.ofNat 64 g.current })))) ∧
    (∀ s0 r0 j dense lpas, comesHome s a f s0 r0 → f.typ = tScatter → beginAdmitted s0 r0 = (s1, r) → scatterJob r.f = (j, dense) →
      lpas = ownerLpas s1 r.f (rowOffs (optOf j.opt) j.dim j.fmt) → scatterBad r.f = false →
      optStatus j.opt j.dim j.fmt (2 ^ 22) j.step = none → (lpas.all fun x => decide (lpaExt x = lpaExt (lpas.headD 0))) = true →
      prepWrites s1 false (lpas.map lineOf) = (s2, true) → ((lpas.map lineOf).any (isPoisoned s2)) = false →
      exec (.scatterUpdateRequest a f) s = .next (settle (answer (updateRow s2 dense r.f.job j (rowOffs (optOf j.opt) j.dim j.fmt) lpas) r
        (plain stOk))))

/-! ## Groups, fences, contexts, responses, snoops and links (R206 to R254, R274, R282, R294 to R306, R380, R418) -/

/-- R156, R240, R241, R244 to R246: a child's chunk enters its round; a round that is full is combined and goes up, chunk by chunk; a
delivered chunk is written to the slot; a round whose limit has passed fails; ACOMB contributes a thread's lanes; ROWUPD updates a row
of this module. -/
def Obligations.GroupCommandsComplete : Prop :=
  ∀ (s s1 : State) (a : Arrival) (f : Frame) (r : Req) (g : Reg) (rd : Round) (j reg round : Nat), inTransit s f = false →
    (∀ e p s2, atOwner s a f s1 r → f.typ = tContrib → jobEntry s1 r.f.job = some e →
      s1.chim.regs.find? (fun x => decide (x.job = r.f.job) && decide (x.gid = fld r.f.opa.toNat 0 24)) = some g →
      g.children.contains r.f.srcDev = true → j = (fld r.f.opb.toNat 0 32 + 2 ^ 32 - g.first) % 2 ^ 32 → roundOver g j = false → j < 2 ^ 31 →
      j < g.doneUpTo + 4 → tbit r.f.opa.toNat 35 = false → gOp g ≠ 3 → gFine g = false →
      p = {
            child := true, who := r.f.srcDev, chunk := fld r.f.opb.toNat 32 22, last := tbit r.f.opa.toNat 36, opa := r.f.opa
            lanes := upTo (r.f.payload.length / 4) fun k => leAt r.f.payload (4 * k) 4 } →
      absorb s1 g j p = (s2, .ok ()) → exec (.contrib a f) s = .next (settle (refuse s2 r stOk))) ∧
    (∀ s2 s3 g3, atOwner s a f s1 r → f.typ = tDeliver →
      s1.chim.regs.find? (fun x => decide (x.job = r.f.job) && decide (x.gid = fld r.f.opa.toNat 0 24)) = some g → r.f.srcDev = gFld g 64 14 →
      j = (fld r.f.opb.toNat 0 32 + 2 ^ 32 - g.first) % 2 ^ 32 → roundOver g j = false → roundOf g j = some rd →
      tbit r.f.opa.toNat 35 = false → rd.delivered.contains (fld r.f.opb.toNat 32 22) = false →
      writeSlot s1 g j (fld r.f.opb.toNat 32 22) r.f.opa r.f.payload = (s2, .ok ()) →
      s3 = onRound (sendDeliver s2 g r.f.opa j (fld r.f.opb.toNat 32 22) r.f.payload) g.lpa j (fun x => { x with
        delivered := x.delivered ++ [fld r.f.opb.toNat 32 22]
        lastChunk := if tbit r.f.opa.toNat 36 then some (fld r.f.opb.toNat 32 22) else x.lastChunk }) →
      regAt s3 g.lpa = some g3 →
      (((roundOf g3 j).getD {}).lastChunk = none → exec (.deliver a f) s = .next (settle (refuse s3 r stOk))) ∧
      (∀ l s4, ((roundOf g3 j).getD {}).lastChunk = some l → ((roundOf g3 j).getD {}).combined = true →
        ((List.range (l + 1)).all fun k => ((roundOf g3 j).getD {}).delivered.contains k) = true → addRdy s3 g3 = (s4, true) →
        exec (.deliver a f) s = .next (settle (refuse (closeRound s4 g.lpa j) r stOk)))) ∧
    (∀ last, regAt s reg = some g → roundOf g round = some rd → rd.combined = false → roundFull g rd = true → gRoot g = false →
      last = ((rd.parts.filter (·.last)).map (·.chunk)).foldl max 0 →
      exec (.roundComplete reg round) s = .next (onRound (forAll (upTo (last + 1) fun c => (c, rd.parts.filter (·.chunk = c))) (fun s x =>
          sendFabric s (groupFrame s g tContrib (gFld g 64 14) (BitVec.ofNat 64 (setFld (setFld (combineParts g x.2).opa.toNat 0 24 g.gid)
            36 1 (b2n (x.1 = last)))) round x.1 (partBytes g (combineParts g x.2))) (.contrib reg round)) s) reg round fun y => { y with
        combined := true, parts := [], lastChunk := some last })) ∧
    (regAt s reg = some g → roundOf g round = some rd → rd.firstPt + (if gFld g 96 32 = 0 then 65536 else gFld g 96 32) ≤ s.clk.pilot →
      exec (.roundLimitExpire reg round) s = .next (failRound s reg round stTimeout false)) ∧
    (∀ t w it th s2, canIssue s t w 4 6 = some (it, th) → guardHolds th w = true →
      contribute s it t.n (sReg th (wSb w)).toNat {
          chunk := 0
          last := true
          lanes := upTo 64 fun i => if (aReg th (wSa w)).cls ≠ .b32 then extPartial (accVal (aReg th (wSa w)) i)
            else (tget {} (aReg th (wSa w)).lanes i).b32.toNat
          opa := contribOpa 0 0 (decide ((aReg th (wSa w)).cls ≠ .b32)) 0 0 false true 0 } = (s2, .ok ()) →
      exec (.acomb t w) s = .next (onThread s2 t nextPc)) ∧
    (∀ t w it th s2 s3 s4 h bs ob srcs lpas job dim row, canIssue s t w 9 4 = some (it, th) → guardHolds th w = true →
      row = (sReg th (wSa w)).toNat → row % 64 = 0 → wholeTile s it th (sReg th (wSb w)) = (s2, .ok (h, bs)) →
      readJva s2 t.item t.n 0 (sReg th (wSc w)).toNat 64 = (s3, .ok (ob, srcs)) →
      dim = (Config.freeWord s.draws).toNat % 4096 + 1 →
      job = {
              dim := dim, fmt := wFmt w, opt := ob, step := (Config.freeWord (s.draws + 1)).toNat, cvt := wCvt w
              grad := upTo dim fun k => b32Val (BitVec.ofNat 32 (leAt bs (4 * (wImm19 w * dim + k)) 4)) } →
      optStatus ob dim (wFmt w) (2 ^ 22) job.step = none → tryRow s3 t.item row (rowOffs (optOf ob) dim (wFmt w)) = (s4, .ok (.here lpas)) →
      (lpas.any fun x => isPoisoned (bump (chargeReads s4 t.item srcs) 3) (lineOf x)) = false →
      exec (.rowupd t w) s = .next (onThread (updateRow (bump (chargeReads s4 t.item srcs) 3)
        (extOf (bump (chargeReads s4 t.item srcs) 3) (lpas.headD 0)).dense it.job job (rowOffs (optOf ob) dim (wFmt w)) lpas) t nextPc))

/-- R219, R220, R225, R274: a FENCE whose count is zero is answered at once and one whose count is not waits; a waiting one is answered
when its count is zero, or when missing numbers have counted as failures; INVAL empties the translation cache of its range. -/
def Obligations.FencesAndInvalServed : Prop :=
  ∀ (s s1 : State) (a : Arrival) (f : Frame) (r : Req) (x : Fence),
    (atEntry s a f s1 r → f.typ = tFence → x = { r := r, ctx := r.f.srcCtx, seq := r.f.seq, sincePt := s1.clk.pilot } →
      exec (.fence a f) s = .next (settle (if fenceDone s1 x then endPartnerFence s1 x
        else onNet s1 fun n => { n with fences := n.fences ++ [x] }))) ∧
    (atEntry s a f s1 r → f.typ = tInval → r.f.jva.toNat % 4096 = 0 → exec (.inval a f) s = .next (settle (beginInval s1 r))) ∧
    ((s.net.fences.find? fun y => decide (y.ctx = x.ctx) && decide (y.seq = x.seq)) = some x → fenceDone s x = true →
      exec (.fenceCountZero (.partner x.ctx x.seq)) s = .next (settle (endPartnerFence s x))) ∧
    (∀ s2 y, (s.net.fences.find? fun y => decide (y.ctx = x.ctx) && decide (y.seq = BitVec.ofNat 32 x.seq.toNat)) = some x →
      (missingBefore s x.ctx x.seq).isEmpty = false → usPassed x.sincePt s.clk.pilot 450 = true →
      y = { x with missing := missingBefore s x.ctx x.seq } →
      s2 = onNet s (fun n => { n with fences := updFirst (· == x) (fun _ => y) n.fences }) →
      exec (.fenceGapTimeout x.ctx x.seq.toNat) s = .next (if fenceDone s2 y then settle (endPartnerFence s2 y) else s2))

/-- R208, R209, R282: CTX_OPEN binds a free context of a job that admits the link to its link and window, the same OPEN again names the
same context; CTX_CLOSE begins to close it, and of a number that is not open is answered OK. -/
def Obligations.ContextCommandsComplete : Prop :=
  ∀ (s s1 s2 : State) (a : Arrival) (f : Frame) (r : Req) (c rev : Nat) (w : Win), admitted s a f s1 r → inTransit s f = false → r.f.leg = false →
    (f.typ = tCtxOpen →
      s1.ctx.find? (fun e => (e.2.isOpen && boundTo e.2 r.a && decide (e.2.nonce = leAt r.f.payload 0 8) && decide (e.2.job = r.f.job)) &&
        e.2.closing.isNone) = none →
      ((jobEntry s1 r.f.job).any fun e => e.2.getLsbD (320 + r.a.link)) = true → r.f.payload.length = 64 → rev = leAt r.f.payload 8 1 % 16 →
      1 ≤ rev → rev < 3 → isService r.a.link = true → (List.range 4096).find? (fun c => !(ctxOf s1 c).isOpen) = some c →
      openWindow s1 r.f.job (leAt r.f.payload 16 8) (leAt r.f.payload 24 2) = (.window w, s2) →
      exec (.ctxOpen a f) s = .next (settle (sendResponse (writeWinHeader (onCtx (dropTables s2) fun t => tput {} t c
          {
            isOpen := true, job := r.f.job, link := r.a.link, ip := r.a.ip, port := r.a.port, nonce := leAt r.f.payload 0 8, rev := rev,
            fore := decide (rev = 1) || tbit (leAt r.f.payload 8 1) 4, coh := false, win := some w }) w 1 0)
        { r with f := { r.f with srcCtx := c } } (plain stOk)))) ∧
    (∀ x, f.typ = tCtxOpen →
      s1.ctx.find? (fun e => (e.2.isOpen && boundTo e.2 r.a && decide (e.2.nonce = leAt r.f.payload 0 8) && decide (e.2.job = r.f.job)) &&
        e.2.closing.isNone) = some (c, x) →
      exec (.ctxOpen a f) s = .next (settle (sendResponse s1 { r with f := { r.f with srcCtx := c } } (plain stOk)))) ∧
    (f.typ = tCtxClose → (ctxOf s1 r.f.srcCtx).isOpen = true → ctxStatus s1 r.a r.f = none →
      ((ctxOf s1 r.f.srcCtx).coh && s1.ctx.any fun e => decide (e.1 ≠ r.f.srcCtx) && e.2.isOpen && decide (e.2.link = (ctxOf s1 r.f.srcCtx).link)) = false →
      exec (.ctxClose a f) s = .next (settle (closeWindow (onCtxN s1 r.f.srcCtx fun x => { x with closing := some (some r) }) r.f.srcCtx 1))) ∧
    (f.typ = tCtxClose → (ctxOf s1 r.f.srcCtx).isOpen = false → exec (.ctxClose a f) s = .next (settle (turnAway s1 r stOk)))

/-- R198 to R203, R229, R248, R252: a damaged frame is discarded and counted, a PAUSE frame too; a request of a type that no table lists
is answered UNSUPPORTED; a frame for another module goes on by its route, and a request that finds none is answered BUSY. -/
def Obligations.OtherFramesComplete : Prop :=
  ∀ (s s1 s2 : State) (a : Arrival) (f : Frame), (linkOf s a.link).up = true →
    exec (.frameDamaged a.link .fcs) s = .next (countLink s a.link 2) ∧
    exec (.frameDamaged a.link .udpChecksum) s = .next (countDiscard s 2) ∧
    exec (.frameDamaged a.link .ipFragment) s = .next (countDiscard s 2) ∧
    exec (.frameDamaged a.link .dstMac) s = .next (countDiscard s 3) ∧
    exec (.frameDamaged a.link .length) s = .next (countDiscard s 4) ∧
    exec (.pauseFrame a.link) s = .next (countLink s a.link 11) ∧
    ((linkOf s a.link).hello.isSome = true → f.len = f.payload.length → f.len ≤ payloadLimit s a.link → f.hops < s.cfg.hopsMax →
      s1 = countLink s a.link 1 →
      (isResponse f = false → f.typ ∉ listedTypes → inTransit s f = false → headStatus s a.link f = none →
        exec (.unsupportedType a f) s = .next (turnAway s1 { a := a, f := f } stUnsupported)) ∧
      (inTransit s f = true → isService a.link = false → linkRole s a.link ≠ 3 → isResponse f = true →
        exec (.transitFrame a f) s = .next (route s1 f (some a.link)).1) ∧
      (inTransit s f = true → isService a.link = false → linkRole s a.link ≠ 3 → isResponse f = false → f.typ ≠ tCoh →
        police s1 a f = (s2, false) → (route s2 f (some a.link)).2 = .sent →
        exec (.transitFrame a f) s = .next (route s2 f (some a.link)).1) ∧
      (inTransit s f = true → isService a.link = false → linkRole s a.link ≠ 3 → isResponse f = false → f.typ ≠ tCoh →
        police s1 a f = (s2, false) → (route s2 f (some a.link)).2 = .noRoute →
        exec (.transitFrame a f) s = .next (turnAway (route s2 f (some a.link)).1 { a := a, f := f } stBusy)))

/-- R200, R216, R218, R221: a response ends the request that it answers, and a late one is discarded and counted; a request without answer
is sent again while tries are left, and ends TIMEOUT; an assembly not complete in 1,024 pt is dropped, and a request held for a later
epoch answered BUSY. -/
def Obligations.ResponsesAndTimersComplete : Prop :=
  ∀ (s : State) (a : Arrival) (f : Frame) (o : Out) (k : Nat),
    (isResponse f = true → f.typ ≠ tHello + 128 → (linkOf s a.link).up = true → f.leg = true → f.dstDev = selfDev s →
      (linkOf s a.link).hello.isSome = true → f.len = f.payload.length → f.len ≤ payloadLimit s a.link → f.hops < s.cfg.hopsMax →
      (∀ s1, s1 = countLink s a.link 1 → matchOut s1 f = some o → f.status ≠ stBusy → f.status ≠ stNoStage → f.fragsM1 = 0 →
        exec (.responseReceive a f) s = .next (settle (endOut (adoptEpoch s1 f) o (answerOf f f.payload)))) ∧
      (matchOut (countLink s a.link 1) f = none →
        exec (.responseReceive a f) s = .next (settle (countDiscard (countLink s a.link 1) 1)))) ∧
    (s.net.outs.find? (·.num = k) = some o → retxDue s o.sentPt = true → exec (.retransmitTimeout k) s = .next (settle (againOrEnd s o))) ∧
    (∀ b, nth none (s.net.asms.map some) k = some b → b.sincePt + 1024 ≤ s.clk.pilot →
      exec (.assemblyTimeout k) s = .next (onNet s fun n => { n with
        asms := dropFirst (· == b) n.asms, dropped := lastN 4096 (n.dropped.filter (· ≠ b.key) ++ [b.key]) })) ∧
    (∀ h, nth none (s.net.held.map some) k = some h → h.2 + 1024 ≤ s.clk.pilot →
      exec (.epochHoldTimeout k) s = .next (turnAway (onNet s fun n => { n with held := dropFirst (· == h) n.held }) h.1 stBusy))

/-- R156, R294, R297 to R300, R305, R306: a snoop of another module is delivered to the links it names; FWD_DATA goes on to the
requester's member; a snoop without answer is sent again and then counts as answered, its agent cut off for 1,048,576 pt; a snoop
answered with PEND goes out again; a row's lock is released. -/
def Obligations.SnoopCommandsComplete : Prop :=
  ∀ (s s1 : State) (a : Arrival) (f : Frame) (h line agent : Nat), s1 = countLink s a.link 1 →
    (∀ m c, (m, c) ∈ ([(0x20, .snpInv), (0x21, .snpDown), (0x22, .snpFwdS), (0x23, .snpFwdX), (0x24, .snpDev), (0x30, .fwdData)] :
        List (Nat × (Arrival → Frame → Instr))) →
      f.typ = tCoh → cohMsg f = m → f.leg = true → f.dstDev = selfDev s → (linkOf s a.link).up = true → isService a.link = false →
      linkRole s a.link ≠ 3 → (linkOf s a.link).hello.isSome = true → f.hops < s.cfg.hopsMax →
      exec (c a f) s = .next (deliverSnoop s1 { f with hops := f.hops + 1 })) ∧
    (∀ g dev, f.typ = tCoh → cohMsg f = 0x30 → f.leg = false → (linkOf s a.link).up = true → hasAgent s a.link = true →
      dev = posDev s (agentPos (f.opb.toNat % 2 ^ 13)) →
      g = { f with
        leg := true, tc := 7, dstDev := dev, srcDev := selfDev s, srcLink := a.link, cell := dev / 64,
                   epoch := epochOf s (dev / 64), srcCtx := 0, job := 0, hops := 0 } →
      exec (.fwdData a f) s = .next (if dev = selfDev s then deliverOn s1 g (f.opb.toNat % 2 ^ 13 % 128) else sendRouted s1 g)) ∧
    (∀ t x, txOf s line = some t → (t.snoops.find? fun x => decide (x.agent = agent) && !x.pend && retxDue s x.sentPt) = some x → lineHearth line = h →
      exec (.snoopTimeout h line agent) s = .next (settle (snoopLate s h line x))) ∧
    (∀ t x, txOf s line = some t → (t.snoops.find? fun x => x.pend && usPassed x.sentPt s.clk.pilot 1) = some x → lineHearth line = h →
      exec (.pendResend h line) s = .next (transmitSnoop (countCoh (onTx s line fun t => { t with
        snoops := updFirst (· == x) (fun _ => { x with pend := false, sentPt := s.clk.pilot }) t.snoops }) h 9) line
        { x with pend := false, sentPt := s.clk.pilot })) ∧
    (∀ t, tget none s.home.cutoff agent = some t → t ≤ s.clk.pilot → agentPos agent ≠ s.boot.pos →
      exec (.cutoffExpire agent) s = .next (onHome s fun y => { y with cutoff := tput none y.cutoff agent none })) ∧
    (∀ k, lockOf s line = some k → k.owner = none → lineHearth line = h →
      exec (.rowLockRelease h line) s = .next (settle (forAll k.waiters (fun s r => serveAny s r)
        (onSlice s h fun x => { x with locks := dropFirst (· == k) x.locks }))))

/-- R206, R207, R223, R233, R249, R250, R253, R254, R380, R418: a link trains and sends HELLO, sends it again every 1,024 pt, learns the
peer's and answers it; a service Flue comes up; a link goes down, is marked dozing, and may train again; a frame leaves, and the gates
and shapers open. -/
def Obligations.LinkCommandsComplete : Prop :=
  ∀ (s : State) (a : Arrival) (f : Frame) (link flue cls cause t cyc : Nat) (ls : List (Nat × Nat)) (o : OutFrame),
    (f.typ = tHello → f.leg = false → (linkOf s a.link).up = true → isService a.link = false → f.len = 64 → f.payload.length = 64 → f.rev = 2 →
      helloBad (helloOf f.payload) = false → 9 ≤ s.boot.phase → s.boot.phase ≠ 12 →
      exec (.hello a f) s = .next (sendOn (peerHello (countLink s a.link 1) a.link (helloOf f.payload)) a.link
        {
          f := { (mkResponse (peerHello (countLink s a.link 1) a.link (helloOf f.payload)) f
            { status := stOk, payload := helloBytes (ownHello (peerHello (countLink s a.link 1) a.link (helloOf f.payload)) a.link) }) with hops := 1 }
          ip := a.ip
          port := a.port
          vlan := a.vlan })) ∧
    (link < 96 → linkEnabled s link = true → (linkOf s link).up = false → 9 ≤ s.boot.phase → s.boot.phase ≠ 12 →
      exec (.linkTrained link true) s = .next (sendHello (onLink s link fun x => { x with
        up := true, dozing := false, hello := none, refused := false, helloSent := some s.clk.pilot, tx := none }) link)) ∧
    ((linkOf s link).helloSent = some t → (linkOf s link).up = true → (linkOf s link).hello = none → t + 1024 ≤ s.clk.pilot →
      exec (.helloRepeat link) s = .next (sendHello (onLink s link fun x => { x with helloSent := some (t + 1024) }) link)) ∧
    (isService link = true → (linkOf s link).up = false → 5 ≤ s.boot.phase → linkEnabled s link = true →
      exec (.serviceFlueLinkUp link) s = .next (onLink s link fun x => { x with up := true, dozing := false })) ∧
    ((linkOf s link).up = true →
      exec (.linkDown link cause) s = .next (settle (ashLimited (takeDown s link) 3 (0x10 + flueOf link) 0x0303
        [(0, natLe 1 link), (1, natLe 1 cause)]))) ∧
    ((linkOf s link).up = false → isService link = false → linkEnabled s link = true →
      exec (.dozeNotice link) s = .next (onLink s link fun x => { x with dozing := true })) ∧
    (s.boot.phase = 11 → exec .linkRetrainTimer s = .next (onLinks s fun x => { x with
        tab := tmapAll {} (fun l => if l.up then l else { l with refused := false }) x.tab })) ∧
    ((linkOf s link).tx = some (cls, o) →
      exec (.frameTxEnd link) s = .next (startNext (onLinks (countLink (onLink s link fun x => { x with tx := none }) link 0)
        fun x => { x with wire := x.wire ++ [(link, o)] }) link)) ∧
    (∀ g, tget {} s.chim.gates flue = g → g.list.isEmpty = false → g.curCyc + (nth (0, 0) g.list g.cur).2 ≤ s.clk.chimney1024 / 1024 →
      exec (.gclIntervalEnd flue) s = .next (forAll (flueLinks (onChim s fun c => { c with gates := tput {} c.gates flue { g with
            cur := (g.cur + 1) % g.list.length, curCyc := g.curCyc + (nth (0, 0) g.list g.cur).2 } }) (if flue < 24 then 4 * flue else flue + 72))
        startNext (onChim s fun c => { c with gates := tput {} c.gates flue { g with
            cur := (g.cur + 1) % g.list.length, curCyc := g.curCyc + (nth (0, 0) g.list g.cur).2 } }))) ∧
    ((tget {} s.chim.gates flue).next = some (cyc, ls) → cyc ≤ s.clk.chimney1024 / 1024 →
      exec (.gateListAt flue) s = .next (forAll (flueLinks (onChim s fun c => { c with
          gates := tput {} c.gates flue { list := ls, cur := 0, curCyc := cyc, next := none } }) (if flue < 24 then 4 * flue else flue + 72))
        startNext (onChim s fun c => { c with gates := tput {} c.gates flue { list := ls, cur := 0, curCyc := cyc, next := none } }))) ∧
    ((linkOf s link).tx = none → classReady s link cls = true → exec (.shaperEligible link cls) s = .next (startNext s link))

/-! ## Translation, extents and the cell (R265 to R273, R311 to R353) -/

/-- R265, R270 to R273: a read of a walk completes, a fault's record is written at the ring's next index once that reads FREE, a fault
answered RETRY walks again and one answered DECLINE fails its waiters, an access that waited its translation time-out ends TIMEOUT. -/
def Obligations.TranslationCommandsComplete : Prop :=
  ∀ (s s1 : State) (k id job : Nat) (e : Ecc) (w : Walk) (p : PFault),
    (walkOf s k = some w → exec (.walkReadComplete k e) s = .next (settle (goOn (walkRead s k e).1 (walkRead s k e).2))) ∧
    (∀ i j r a, unreported s job = some p → jobEntry s job = some (i, j) → ringNow s i j = .ready r →
      a = nth 0 r.lpas (r.next % jobRingSlots j) → prepWrite s (lineOf a) true = (s1, true) → isPoisoned s1 (lineOf a) = false →
      readNat s1 a 1 = 0 →
      exec (.faultRecordWrite job) s = .next (onTrn (devStore s1 a (faultRecord s1 p) false) fun t => { t with
        rings := tput none t.rings i (some { r with next := (r.next + 1) % jobRingSlots j })
        faults := updFirst (·.id = p.id) (fun x => { x with recLpa := some a }) t.faults })) ∧
    (answered s id true = some p → freeRecord s p = (s1, true) →
      exec (.faultRetry id) s = .next (settle (forAll p.waiters (fun s w => match jobEntry s w.job with
        | some (_, e) => needWalk s e w
        | none => failWaiter s stDenied w) (dropFault s1 id)))) ∧
    (answered s id false = some p → freeRecord s p = (s1, true) →
      exec (.faultDecline id) s = .next (settle (declineAll (dropFault s1 id) p.cause p.waiters))) ∧
    (∀ x, nth none ((allWaiting s).map some) k = some x → x.since + ttoPt s x.job ≤ s.clk.pilot →
      exec (.translationTimeout k) s = .next (settle (countTrn (failWaiter (unwait s x) stTimeout x) 6)))

/-- R311, R312, R316, R320, R327, R331: a lease whose end has come lapses, a revoked extent is ASSIGNED again once its drain is done, a
region's copy ends, and an extent that no version shares is zeroed. -/
def Obligations.ExtentCommandsComplete : Prop :=
  ∀ (s : State) (no h slot lpa job old : Nat),
    (∀ e, (s.ext.tab.find? fun e => decide (e.2.state = 3) && decide (e.2.leaseNo = no) && decide (e.2.leaseEnd ≤ s.clk.pilot)) = some e →
      exec (.leaseLapse no) s = .next (settle (countLse (endLease s e.1 1) 2))) ∧
    (∀ l, (s.ext.tab.find? fun e => decide (e.2.state = 3) && decide (e.2.leaseNo = no) && decide (e.2.leaseEnd ≤ s.clk.pilot)) = none →
      (s.ext.snaps.find? fun l => decide (l.no = no) && decide (l.endPt ≤ s.clk.pilot)) = some l →
      exec (.leaseLapse no) s = .next (settle (countLse (endSnap s l) 2))) ∧
    ((extN s (512 * h + slot)).state = 4 → (extN s (512 * h + slot)).admitted = 0 → drained s (512 * h + slot) = true →
      exec (.revokeDrainDone h slot) s = .next (settle (onExtN (ashExempt s 1 h 0x0403
          [(0, slotBytes (512 * h + slot)), (4, natLe 4 (extN s (512 * h + slot)).leaseNo)]) (512 * h + slot) fun x => { x with
        state := 2, leaseNo := 0, term := 0 }))) ∧
    (∀ r b, tget none s.ext.regions (regionOf lpa) = some r → r.copying = some b →
      exec (.cowCopyDone lpa) s = .next (settle (freeVersions (onRegion (countLse (copyRange s (regionOf lpa * 2 ^ 21) b (2 ^ 21)) 7)
        (regionOf lpa) fun x => { x with
          copying := none
          versions := x.versions.map fun v => if v.block.isNone && !v.lost then { v with block := some b } else v }) (regionOf lpa)))) ∧
    (∀ k s1, k = 512 * h + slot → tget none s.ext.zeroing k = some (job, old) → (extN s k).state = 5 →
      ((extentRegions s k).any fun r => r.2.copying.isSome || regionShared r.2) = false → (∀ p ∈ s.t0.pairs, p.valid = false) →
      s1 = ashLimited (countLse (zeroThrough s (k * 2 ^ 30) (2 ^ 30)) 4) 0 h 0x0401 [(0, slotBytes k), (4, natLe 4 old), (8, natLe 4 job)] →
      exec (.extentZeroingDone h slot) s = .next (settle (onExt (onExtN s1 k fun x => { x with
          state := if job = 0 then 1 else 2, job := job, gen := if job = old then x.gen else (x.gen + 1) % 2 ^ 32 })
        fun x => { x with zeroing := tput none x.zeroing k none })))

/-- R337, R341 to R345, R347, R350, R351: a CELL message of this cell does what its COP says: a probe is acknowledged, an acknowledgement
clears the misses, a proposal is accepted where none of a lower position is held, an accept counts, a commit is adopted, maps, journal
entries and lines are read, a copy's lines and journal entries kept. -/
def Obligations.CellMessagesComplete : Prop :=
  ∀ (s s1 : State) (a : Arrival) (f : Frame) (r : Req) (m : PMap), f.typ = tCell → inTransit s f = false → (linkOf s a.link).up = true →
    cellArrive s a f = (s1, some r) →
    (copOf f = 1 → exec (.probe a f) s = .next (settle (seenEpoch (sayCell s1 (cellMsg s1 r.f.srcDev 2 (subjOf r.f) [])) (epochIn r.f) r.f.srcDev))) ∧
    (copOf f = 2 → exec (.probeAck a f) s = .next (settle (seenEpoch (onNbr s1 (fromPosOf r.f) fun n => { n with
        misses := 0, outstanding := none, lastAck := s1.clk.pilot }) (epochIn r.f) r.f.srcDev))) ∧
    (copOf f = 3 → exec (.suspect a f) s = .next (settle (suspectReport s1 (fromPosOf r.f) (subjOf r.f)))) ∧
    (copOf f = 4 → mapFrom r.f.payload = some m → leads s1 = false → s1.cell.accepted = none → s1.boot.role ≠ 1 → m.cell = s1.boot.cell →
      m.epoch = s1.cell.map.epoch + 1 →
      exec (.propose a f) s = .next (settle (sayCell (onCell s1 fun c => { c with accepted := some (fromPosOf r.f, m) })
        (cellMsg (onCell s1 fun c => { c with accepted := some (fromPosOf r.f, m) }) r.f.srcDev 5 (subjOf r.f) [] (some m.epoch))))) ∧
    (∀ x, copOf f = 5 → s1.cell.prop = some x → x.map.epoch = epochIn r.f → (electors s1 x.map).contains (fromPosOf r.f) = true →
      exec (.accept a f) s = .next (settle (leaderStep (tryCommit (onCell s1 fun c => { c with
        prop := some { x with accepts := x.accepts.filter (· ≠ fromPosOf r.f) ++ [fromPosOf r.f] } }))))) ∧
    (copOf f = 6 → s1.cell.accepted = some (fromPosOf r.f, m) → m.epoch = epochIn r.f →
      exec (.commit a f) s = .next (settle (leaderStep (adoptMap s1 m)))) ∧
    (∀ p, copOf f = 7 → s1.cell.accepted = some (p, m) →
      exec (.collect a f) s = .next (settle (replyCell s1 r { payload := mapBytes m }))) ∧
    (copOf f = 8 → s1.cell.map.epoch ≠ 0 → exec (.mapRead a f) s = .next (settle (replyCell s1 r { payload := mapBytes s1.cell.map }))) ∧
    (copOf f = 9 → s1.boot.role = 1 → (r.f.srcDev = 0x3FFF ∨ (memberFrom (byteSlice r.f.payload 0 16)).mstate ≠ 0 ∧ fromPosOf r.f = subjOf r.f) →
      s1.cell.map.epoch ≠ 0 → exec (.join a f) s = .next (settle (replyCell s1 r { payload := mapBytes s1.cell.map }))) ∧
    (∀ x, copOf f = 9 → s1.boot.role ≠ 1 → s1.cell.map.epoch ≠ 0 → r.f.srcDev = 0x3FFF → x = memberFrom (byteSlice r.f.payload 0 16) →
      leads s1 = true → exec (.join a f) s = .next (settle (leaderStep (onCell (replyCell s1 r { payload := mapBytes s1.cell.map })
        fun c => { c with joins := tput 0 c.joins (if x.mstate = 0 then 64 else subjOf r.f) (joinKey x.serial x.mrev) })))) ∧
    (copOf f = 0x0A → exec (.mirrorWr a f) s = .next (settle (underUpd s1 r mirrorBody))) ∧
    (copOf f = 0x0B → exec (.parityXor a f) s = .next (settle (underUpd s1 r parityBody))) ∧
    (copOf f = 0x0C → exec (.journal a f) s = .next (settle (underUpd s1 r fun s r =>
      (onCell s fun c => { c with ward := tput [] c.ward (wardKey (fromPosOf r.f) r.f.jva.toNat) r.f.payload }, stOk)))) ∧
    (∀ es, copOf f = 0x0D → es = tslice s1.cell.ward (wardKey (subjOf r.f) 0) (wardKey (subjOf r.f + 1) 0) →
      exec (.journalRead a f) s = .next (settle (replyCell s1 r {
        payload := ((es.drop r.f.jva.toNat).take 8).flatMap journalRecord
        result := if es.length ≤ r.f.jva.toNat + 8 then BitVec.allOnes 64 else BitVec.ofNat 64 (r.f.jva.toNat + 8) }))) ∧
    (∀ g l, copOf f = 0x0E → groupOf s1 (mpaLpa r.f.mpa.toNat) = some g → l = lineOf (mpaLpa r.f.mpa.toNat) → isPoisoned s1 l = false →
      notRebuilt s1 l = false → siteDown s1 l = false → txOf s1 l = none →
      exec (.rebuildRead a f) s = .next (settle (replyCell (meterUn s1 1 64) r {
        payload := lineBytes s1 l, result := BitVec.ofNat 64 (tagCode s1 (l / 256)) })))

/-- R342, R343, R347 to R349, R351, R353: the timers of a cell: neighbours are probed, a third miss in a row is reported, a member that
half its neighbours do not hear fences itself, a proposal without quorum is sent again, a unit is counted as rebuilt, a spare serves
2,048 pt after the commit, an absent spare is noted, and a move's copy goes on. -/
def Obligations.CellTimersComplete : Prop :=
  ∀ (s s1 : State) (pos k : Nat) (wins : List LostWin) (x : Prop342) (v : Move),
    (liveMember s = true → exec .probeTimer s = .next (forAll (liveNbrs s) (fun s p =>
      onNbr (sayCell s (cellMsg s (posDev s p) 1 p [])) p fun n => { n with
        outstanding := if n.outstanding.isSome then n.outstanding else some s.clk.pilot }) s)) ∧
    (∀ t, (tget {} s.cell.nbrs pos).outstanding = some t → liveMember s = true → usPassed t s.clk.pilot 20 = true →
      s1 = onCell (onNbr s pos fun n => { n with misses := n.misses + 1, outstanding := none })
        (fun c => { c with ctr := tmod 0 c.ctr 0 (satInc 64) }) →
      ((tget {} s.cell.nbrs pos).misses + 1 < 3 → exec (.probeMiss pos) s = .next s1) ∧
      (∀ p, 3 ≤ (tget {} s.cell.nbrs pos).misses + 1 → leaderOf s.cell.map none = some p → p ≠ pos → p ≠ s.boot.pos →
        exec (.probeMiss pos) s = .next (sayCell s1 (cellMsg s1 (posDev s1 p) 3 pos [])))) ∧
    (liveMember s = true → (liveNbrs s).length < 2 * ((liveNbrs s).filter fun p => (tget {} s.cell.nbrs p).lastAck + 1024 ≤ s.clk.pilot).length →
      exec .selfFence s = .next (fenceSelf s 1)) ∧
    (s.cell.prop = some x → usPassed x.sentPt s.clk.pilot 200 = true →
      (x.tries < 4 → exec .proposalTimeout s = .next (tellElectors (onCell (markAbsent s x) fun c => { c with
        prop := some { x with tries := x.tries + 1, sentPt := s.clk.pilot } }) { x with tries := x.tries + 1, sentPt := s.clk.pilot } 4 (mapBytes x.map))) ∧
      (4 ≤ x.tries → exec .proposalTimeout s = .next (ashExempt (onCell (markAbsent s x) fun c => { c with
        prop := none, accepted := c.accepted.filter fun a => !(a.1 = s.boot.pos), ctr := tmod 0 c.ctr 2 (satInc 64) }) 4 0x33 0x0502
        [(0, natLe 4 x.map.epoch)]))) ∧
    (s.cell.units.head? = some k → (((List.range 1024).map (k * 1024 + ·)).filter (notRebuilt s)).isEmpty = true →
      exec (.rebuildUnitDone k) s = .next (onCell s fun c => { c with
        units := c.units.filter (· ≠ k), freshLines := c.freshLines.filter fun l => l / 1024 ≠ k || siteDown s l
        ctr := tmod 0 c.ctr 4 (satInc 64) })) ∧
    (∀ j t, s.cell.restored = some j → s.cell.commitPt = some t → notServing s = true → atReady s = true → s.pwr.state = 0 →
      s.home.devWait = [] → t + 2048 ≤ s.clk.pilot → s1 = losePlain (restoreForwards (restoreTables s j)) →
      exec (.spareServe wins) s = .next (settle (forAll wins takeWindow (onCell s1 fun c => { c with
        served := true, journalOk := true, journaled := j, units := unitsToDo s1, freshLines := [] })))) ∧
    (∀ t, s.cell.commitPt = some t → leads s = true → s.cell.map.serving = true → s.cell.spareGone = false → usPassed t s.clk.pilot 6000 = true →
      (linkOf s 16).up = false → exec .spareAbsentTimeout s = .next (settle (leaderStep (onCell s fun c => { c with spareGone := true })))) ∧
    (s.cell.map.moves[k]? = some v → v.stage = 1 → v.fromPos = s.boot.pos → atReady s = true →
      (v.toPos = v.fromPos → exec (.moveCopyDone k) s = .next (settle (askMove (copyRange s ((v.fromH * 512 + v.fromSlot) * 2 ^ 30)
        ((v.toH * 512 + v.toSlot) * 2 ^ 30) (2 ^ 30)) { v with stage := 2 }))) ∧
      (v.toPos ≠ v.fromPos → s.cell.sent.contains (v.fromH * 512 + v.fromSlot) = false →
        exec (.moveCopyDone k) s = .next (settle (sendMove s v))) ∧
      (v.toPos ≠ v.fromPos → s.cell.sent.contains (v.fromH * 512 + v.fromSlot) = true →
        outstanding s (· == .moveLine (v.fromH * 512 + v.fromSlot)) = false →
        exec (.moveCopyDone k) s = .next (settle (askMove s { v with stage := 2 }))))

/-! ## Change records and the management space (R223, R390 to R403, R438, R439) -/

/-- R35, R258, R260, R311, R315, R320, R397 to R399: the items of images, fuses, jobs, row groups, extents and leases take effect at their
order point; a fuse item blows its bits. -/
def Obligations.StateItemsApply : Prop :=
  ∀ (s s1 : State) (b : Nat) (i : Item390) (rest : List Item390), itemNext s b i rest s1 →
    (i.ityp = 0x01 → exec (.imageBegin b) s = .next (itemDone (onBuf (onBoot s1 fun x => { x with
        nvm := tdropRange x.nvm (slotBase (decide (i.target = 1))) (slotBase (decide (i.target = 1)) + 2 ^ 25) }) b fun x => { x with
      session := some { slot := decide (i.target = 1), len := leAt i.payload 0 4, hash := leAt i.payload 8 32 } }) b rest)) ∧
    (∀ n c, (n, c) ∈ ([(0x02, .rollbackTo), (0x03, .keyProgram), (0x04, .keyGrant), (0x05, .keyRevoke), (0x06, .lock)] :
        List (Nat × (Nat → Instr))) → i.ityp = n → exec (c b) s = .next (itemDone (blowFuses s1 (fuseBits i)) b rest)) ∧
    (∀ e, i.ityp = 0x10 → e = BitVec.ofNat 512 (leNat i.payload) → jobValid e = true → jobValid (tget 0 s1.trn.jobs i.target) = false →
      (jobRing (tget 0 s1.trn.jobs i.target) ≠ jobRing e ∨ jobRingSlots (tget 0 s1.trn.jobs i.target) ≠ jobRingSlots e) →
      exec (.jobSet b) s = .next (itemDone (checkRings (restartMeter (onTrn s1 fun t => { t with
        jobs := tput 0 t.jobs i.target e, rings := tput none t.rings i.target none }) i.target (jobId e))) b rest)) ∧
    (∀ e old ring, i.ityp = 0x10 → e = BitVec.ofNat 512 (leNat i.payload) → old = tget 0 s1.trn.jobs i.target →
      ring = (decide (jobRing old ≠ jobRing e) || decide (jobRingSlots old ≠ jobRingSlots e)) → jobValid e = true → jobValid old = true →
      (jobFld old 8 4 ≠ jobFld e 8 4 ∨ jobRoot old ≠ jobRoot e) →
      exec (.jobSet b) s = .next (itemDone (checkRings (forgetJob (restartMeter (onTrn s1 fun t => { t with
        jobs := tput 0 t.jobs i.target e, rings := if ring then tput none t.rings i.target none else t.rings }) i.target (jobId e)) (jobId old))) b rest)) ∧
    (i.ityp = 0x11 → jobValid (tget 0 s1.trn.jobs i.target) = true →
      exec (.jobDelete b) s = .next (itemDone (denyJob (forgetJob (onTrn s1 fun t => { t with
        jobs := tput 0 t.jobs i.target 0, rings := tput none t.rings i.target none }) (jobId (tget 0 s1.trn.jobs i.target)))
        (jobId (tget 0 s1.trn.jobs i.target))) b rest)) ∧
    (i.ityp = 0x18 → exec (.rowgroupMode b) s = .next (itemDone (onExt s1 fun x => { x with
      rowModes := tput 0 x.rowModes (48 * fld i.target 8 3 + fld i.target 0 6) (leNat i.payload % 3) }) b rest)) ∧
    (∀ e k x, i.ityp = 0x19 → e = extEntry i.payload → k = 512 * e.hearth + e.slot → slotRole s1.cell.map (decide (s1.boot.role = 1)) s1.boot.pos k = (0, false) →
      k ≠ s1.cfg.jslot → x = ({ dense := decide (modeNow s1 e.hearth e.rowgrp = 2), prot := 0, vpool := e.vpool, rowgrp := e.rowgrp, pos := e.pos, term := 0 } : Ext) →
      exec (.extentCreate b) s = .next (itemDone (beginZeroing (onExt s1 fun t => { t with tab := tput {} t.tab k x }) k 0) b rest)) ∧
    (i.ityp = 0x1A → exec (.extentRemove b) s = .next (itemDone (onExt s1 fun t => { t with tab := tput {} t.tab i.target {} }) b rest)) ∧
    (∀ e job, i.ityp = 0x20 → isClear i = false → e = extN s1 i.target → job = fld (leNat i.payload) 0 20 →
      (e.state = 1 → exec (.extentAssign b) s = .next (itemDone (onExtN s1 i.target fun x => { x with
        state := 2, job := job, gen := if job = x.job then x.gen else (x.gen + 1) % 2 ^ 32 }) b rest)) ∧
      (e.state = 2 → e.job ≠ job → exec (.extentAssign b) s = .next (itemDone (beginZeroing s1 i.target job) b rest))) ∧
    (isClear i = true → ((extN s1 i.target).state = 1 ∨ (extN s1 i.target).state = 2) →
      exec (.extentClear b) s = .next (itemDone (beginZeroing s1 i.target 0) b rest)) ∧
    (i.ityp = 0x21 → (extN s1 i.target).state = 3 → exec (.leaseRevoke b) s = .next (itemDone (endLease s1 i.target 3) b rest)) ∧
    (i.ityp = 0x22 → exec (.leaseBounds b) s = .next (itemDone (onExt s1 fun x => { x with
      min := leAt i.payload 0 4, dflt := leAt i.payload 4 4, max := leAt i.payload 8 4 }) b rest))

/-- R230, R250 to R252, R254, R400 to R402, R406, R412, R436, R444, R445: the items of functions, routes, policers, shapers, gates, sites,
tests, moves, power, module parameters, Flues and the reset take effect at their order point; a function's drain ends with its last
item, a site's test with its record, and the device resets 10 ms after RESET, its Ashpit flushed first (R358). -/
def Obligations.ModuleItemsApply : Prop :=
  (∀ (s s1 : State) (b : Nat) (i : Item390) (rest : List Item390), itemNext s b i rest s1 →
     (i.ityp = 0x28 → ((List.range 7).filter fun f => tbit s1.auth.funcs f && !tbit i.target f) = [] →
       exec (.funcSet b) s = .next (itemDone (onAuth s1 fun a => { a with funcs := i.target }) b rest)) ∧
     (∀ fs left, i.ityp = 0x28 → fs = ((List.range 7).filter fun f => tbit s1.auth.funcs f && !tbit i.target f) → fs.isEmpty = false →
       left = (s1.stv.items.filter fun it => match itemFunction it with | some f => fs.contains f | none => false).map (·.id) →
       exec (.funcSet b) s = .next (itemDone (onAuth s1 fun a => { a with
         funcs := i.target, drains := a.drains ++ [(b, (fs.map (2 ^ ·)).sum, left)] }) b rest)) ∧
     (i.ityp = 0x30 → i.target < 256 → exec (.route b) s = .next (itemDone (onChim s1 fun c => { c with
       cellTab := tput 0x7F7F7F7F c.cellTab i.target (BitVec.ofNat 32 (leAt i.payload 0 4)) }) b rest)) ∧
     (i.ityp = 0x30 → 256 ≤ i.target → exec (.route b) s = .next (itemDone (onChim s1 fun c => { c with
       posTab := tput 0x7F7F7F7F c.posTab (i.target - 256) (BitVec.ofNat 32 (leAt i.payload 0 4)) }) b rest)) ∧
     (i.ityp = 0x31 → tbit i.target 31 = true → exec (.policer b) s = .next (itemDone (onLinks s1 fun x => { x with
       polCtx := tput {} x.polCtx (fld i.target 0 12) (policerFrom s1 (leNat i.payload)) }) b rest)) ∧
     (i.ityp = 0x31 → tbit i.target 31 = false → exec (.policer b) s = .next (itemDone (onLink s1 (fld i.target 0 7) fun x => { x with
       pols := tput {} x.pols (fld i.target 8 3) (policerFrom s1 (leNat i.payload)) }) b rest)) ∧
     (i.ityp = 0x32 → exec (.overhead b) s = .next (itemDone (onCfg s1 fun c => { c with
       flues := tmod {} c.flues i.target fun x => { x with overhead := leAt i.payload 0 1 } }) b rest)) ∧
     (∀ l, i.ityp = 0x38 → l = fld i.target 0 7 → exec (.shaper b) s = .next (itemDone (startNext (onLink s1 l fun x => { x with
       shapers := tput none x.shapers (fld i.target 8 4) (some (shaperFrom s1 (leNat i.payload) (tbit (bufOf s1 b).flags 0))) }) l) b rest)) ∧
     (i.ityp = 0x40 → exec (.gateList b) s = .next (itemDone (onChim s1 fun c => { c with
       gates := tmod {} c.gates i.target fun g => { g with next := some (leAt i.payload 0 8, gateEntries (i.payload.drop 8)) } }) b rest)) ∧
     (i.ityp = 0x48 → leNat i.payload ≠ 0 → exec (.siteState b) s = .next (itemDone (onSite s1 i.target fun x => { x with inService := false }) b rest)) ∧
     (i.ityp = 0x48 → leNat i.payload = 0 → (siteAt s1 i.target).inService = false →
       exec (.siteState b) s = .next (itemDone (returnSite s1 i.target) b rest)) ∧
     (∀ code, i.ityp = 0x50 → code = leAt i.payload 0 1 → exec (.testRun b) s = .next (itemDone (onSite s1 i.target fun x => { x with
       test := some code, overwritten := x.overwritten || decide (code = 1) || decide (code = 3) }) b rest)) ∧
     (i.ityp = 0x58 → exec (.extentMove b) s = .next (itemDone (askMove s1 { moveFrom (i.payload ++ List.replicate 8 0) with stage := 1 }) b rest)) ∧
     (i.ityp = 0x60 → i.target = 1 → exec (.powerSetState b) s = .next (itemDone (beginEntry s1 (decide (leAt i.payload 0 1 = 2)) (leAt i.payload 4 4)) b rest)) ∧
     (i.ityp = 0x60 → i.target = 2 → exec (.powerSetSection b) s = .next (itemDone (applyPower s1 (leNat i.payload)) b rest)) ∧
     (i.ityp = 0x68 → exec (.ashpitSet b) s = .next (itemDone (onCfg s1 fun c => { c with ashpit := BitVec.ofNat 512 (leNat i.payload) }) b rest)) ∧
     (i.ityp = 0x70 → exec (.moduleParams b) s = .next (itemDone (onCfg s1 fun c => putModule c i.payload) b rest)) ∧
     (∀ ups, i.ityp = 0x78 → ups = (if i.target < 24 then (List.range 4).map (4 * i.target + ·) else [i.target + 72]).filter (fun l => (linkOf s1 l).up) →
       exec (.flueSet b) s = .next (itemDone (forAll ups (fun s l => ashLimited (takeDown s l) 3 (0x10 + i.target) 0x0303 [(0, natLe 1 l), (1, natLe 1 5)])
         (onCfg s1 fun c => { c with flues := tput {} c.flues i.target (flueFrom (leNat i.payload)) })) b rest)) ∧
     (i.ityp = 0x7E → exec (.reset b) s = .next (itemDone (onAuth s1 fun a => { a with resetAt := some (s1.clk.pilot + 10240) }) b rest))) ∧
  (∀ (s : State) (site errors code t : Nat) (d : Nat × Nat × List ItemId),
     (s.auth.drains.find? (fun d => decide (drainLeft s d = 0)) = some d →
       exec .funcDrainDone s = .next (ashExempt (onAuth s fun a => { a with drains := dropFirst (· == d) a.drains }) 1 0x34 0x0605
         [(0, natLe 1 d.2.1)])) ∧
     ((siteAt s site).test = some code → exec (.testComplete site errors) s = .next (ashExempt (forAll (List.range errors) (fun s _ => testFailure s site)
       (onSite s site fun x => { x with test := none })) (if errors = 0 then 0 else 3) 0x31 0x0802
       [(0, natLe 1 site), (1, natLe 1 code), (4, natLe 4 (min errors (2 ^ 32 - 1)))])) ∧
     (s.auth.resetAt = some t → t ≤ s.clk.pilot → exec .resetDelayExpire s = .next (resetDevice (flush s))))

/-- R223, R391, R392, R438, R439: a management read is answered with the bytes of the space, and a write takes effect and is answered. -/
def Obligations.ManagementFramesComplete : Prop :=
  ∀ (s s1 s2 : State) (a : Arrival) (f : Frame) (r : Req) (b : Nat), arriveMgmt s a f = (s1, some r) →
    (f.typ = tMgmtRead → spaceBlock (mgmtOff f) ≠ 4 → exec (.mgmtRead a f) s = .next (sendResponse
      (readSpace s1 (mgmtOff r.f) (mgmtLen r.f)).1 r { payload := (readSpace s1 (mgmtOff r.f) (mgmtLen r.f)).2 })) ∧
    (f.typ = tMgmtRead → spaceBlock (mgmtOff f) = 4 → exec (.ashWindowRead a f) s = .next (sendResponse
      (readSpace s1 (mgmtOff r.f) (mgmtLen r.f)).1 r { payload := (readSpace s1 (mgmtOff r.f) (mgmtLen r.f)).2 })) ∧
    (f.typ = tMgmtWrite → writeDenied s1 (requester r.a) (mgmtOff r.f) r.f.payload = false →
      s2 = forAll (List.range 8) (writeCursor (requester r.a) (mgmtOff r.f) r.f.payload) (writeImage (mgmtOff r.f) r.f.payload
        (forAll (List.range 4) (writeBuf (requester r.a) (mgmtOff r.f) r.f.payload) s1)) →
      (firstOp f = none → exec (.mgmtWrite a f) s = .next (settle (sendResponse s2 r (plain stOk)))) ∧
      (∀ n c, (n, c) ∈ ([(1, .claim), (2, .submit), (3, .bufferRelease), (4, .attest), (5, .imageEnd)] :
          List (Nat × (Arrival → Frame → Nat → Instr))) → firstOp f = some ⟨false, b, n⟩ →
        exec (c a f b) s = .next (settle (sendResponse s2 r (plain stOk)))) ∧
      (∀ n c, (n, c) ∈ ([(1, .cursorClaim), (2, .cursorSet), (3, .cursorRelease)] : List (Nat × (Arrival → Frame → Nat → Instr))) →
        firstOp f = some ⟨true, b, n⟩ → exec (c a f b) s = .next (settle (sendResponse s2 r (plain stOk)))))

/-- R392, R398, R403, R439: what the operations do: CLAIM takes a free buffer, SUBMIT puts its record in line, RELEASE frees it, ATTEST
writes the report, IMAGE_END ends the session; a cursor is claimed, set and released; both are freed when idle. -/
def Obligations.BufferAndCursorOperations : Prop :=
  ∀ (s : State) (who : Claimant) (b c : Nat) (new : List (Nat × Byte)),
    ((bufOf s b).state = 0 → bufOp s who b 1 = onBuf s b fun y => { y with state := 1, who := who, lastPt := s.clk.pilot }) ∧
    ((bufOf s b).state = 1 → bufOp s who b 2 = nextRecord 8 (onAuth (onBuf s b fun y => { y with state := 2 }) fun a => { a with
      waiting := a.waiting ++ [b] })) ∧
    ((bufOf s b).state = 1 ∨ (bufOf s b).state = 4 ∨ (bufOf s b).state = 5 → bufOp s who b 3 = freeBuf s b) ∧
    ((bufOf s b).state = 1 → bufOp s who b 4 = attestBuf s b) ∧
    (∀ x, (bufOf s b).session = some x → (bufOf s b).state = 6 → bufOp s who b 5 = endImage s b x) ∧
    ((cursorOf s c).held = false → cursorOp s who c 1 new = onCursor s c fun y => { withBases y new with
      held := true
      who := who
      lastPt := s.clk.pilot }) ∧
    ((cursorOf s c).held = true → cursorOp s who c 2 new = onCursor s c fun y => withBases y new) ∧
    cursorOp s who c 3 new = onCursor s c (fun _ => {}) ∧
    ((bufOf s b).state ≠ 0 → (bufOf s b).state ≠ 2 → (bufOf s b).state ≠ 3 → (bufOf s b).lastPt + idleLimit ≤ s.clk.pilot →
      exec (.bufferIdleTimeout b) s = .next (freeBuf s b)) ∧
    ((cursorOf s c).held = true → (cursorOf s c).lastPt + idleLimit ≤ s.clk.pilot →
      exec (.cursorIdleTimeout c) s = .next (onCursor s c fun _ => {}))

/-! ## Bring-up, power, pins and health (R41, R344, R357 to R386, R403 to R426, R433 to R479) -/

/-- R41, R344, R357 to R385: each step of bring-up begins the next: the auxiliary rail and the release of internal reset, fuses, image,
service Flues, sites, zeros, the quick shadow test, fabric Flues, the cell's join, Ready; a step past its time and a reset begin
again. -/
def Obligations.BringUpStepsComplete : Prop :=
  ∀ (s s1 : State) (straps : BitVec 12) (results : List SiteTrain) (eyes : List Eye) (up : List Nat),
    (s.pins.vaux = false → s.ash.blank = false → exec .auxRailUp s = .next (onBoot (onClk (onPins s fun p => { p with vaux := true }) fun c => { c with
        pcycles := satInc 32 c.pcycles }) fun b => { b with phase := 1 })) ∧
    (s.pins.vaux = true → exec .auxRailLoss s = .next (loseRail s)) ∧
    (s.pins.vaux = true → s.pwr.tripped = false → s.boot.phase = 1 → fld straps.toNat 1 2 ≠ 3 →
      s1 = onAsh (onClk (onPins s fun p => { p with modResetN := true, tap := .idcode }) fun c => { c with
        chimney1024 := 0, releasePt := c.pilot, readyMs := 0, step10Pt := none }) (fun a => { a with
        suppressedTotal := 0, flushes := 0, crcErrors := 0, nvmErrors := 0, nvmFail := false, sevMax := 0, sev3 := 0, tokens := [] }) →
      exec (.internalResetRelease straps) s = .next (onBoot s1 fun b => { b with
        phase := 3, straps := straps, role := fld straps.toNat 3 1, pos := if fld straps.toNat 3 1 = 0 then fld straps.toNat 4 6 else 0
        watchdog := b.tryOther, tryOther := false })) ∧
    (s.pins.vaux = true → s.pins.modResetN = true → s.pwr.tripped = false → s.boot.phase ≠ 1 →
      exec .modResetAssert s = .next (onPins (resetDevice s) fun p => { p with modResetN := false })) ∧
    (s.boot.phase = 3 → s.fuse.a = s.fuse.b → exec .firebrickRead s = .next (onPins (onBoot s fun b => { b with
      idn := s.fuse.a, phase := 4 }) fun p => { p with imgBusy := !p.powerFail })) ∧
    (s.boot.phase = 3 → s.fuse.a ≠ s.fuse.b → exec .firebrickRead s = .next (stopBoot (onBoot s fun b => { b with
      idn := s.fuse.a ||| BitVec.ofNat 2048 (2 ^ 1160 + 2 ^ 1161) }) 3 1)) ∧
    (∀ (pref first ok2 ok3 : Bool) (s2 s3 : State) (fb : State → State) (go : State → Bool → State), s.boot.phase = 4 → s.pins.powerFail = false →
      s.pins.vin54 = true → s.boot.watchdogs < 2 → pref = s.boot.straps.getLsbD 0 → first = (pref != s.boot.watchdog) →
      checkSlot s first = (s2, ok2) → checkSlot s2 (!first) = (s3, ok3) →
      fb = (fun x => onBoot x fun b => { b with fallback := decide ((if pref then x.boot.checkB else x.boot.checkA) ≠ 0) }) →
      go = (fun x slot => addBoot (onBoot (onPins (loadImage (fb x) slot) fun p => { p with imgBusy := false, refclkEn := true }) fun b => { b with
        phase := 5 })) →
      exec .imageVerify s = .next (if ok2 then go s2 first else if ok3 then go s3 (!first) else stopBoot (fb s3) 4 2)) ∧
    (s.boot.phase = 5 → s.pins.powerFail = false → linkEnabled s 96 = true → linkEnabled s 97 = true →
      exec (.serviceFlueTraining true true) s = .next (toPhase (onLink (onLink s 96 fun x => { x with up := true }) 97 fun x => { x with up := true }) 6)) ∧
    (s.boot.phase = 6 → s.cfg.siteOff = 0 → (∀ k, k < 32 → (results.filter (·.site = k)).length = 1) → (∀ r ∈ results, r.site < 32) →
      exec (.siteTraining results) s = .next (toPhase (makeExtents (forAll results trainSite s)) 7)) ∧
    (s.boot.phase = 7 → exec .zeroInitialisation s = .next (toPhase (onMem s fun _ => {}) 8)) ∧
    (s.boot.phase = 8 → (∀ k, k < 32 → (siteAt s k).trained = true → ∀ c, c / 8 = k → eyes.any (·.chan = c) = true) →
      (∀ e ∈ eyes, e.chan < 256 ∧ (siteAt s (e.chan / 8)).trained = true) →
      exec (.quickShadowTest eyes) s = .next (toPhase (onBoot (forAll eyes (fun s e => if eyeLow (eyeScan s e) e then recordEye (onBoot (eyeScan s e) fun b => { b with
          sitesLow := setFld b.sitesLow (e.chan / 8) 1 1 }) e else eyeScan s e) s) fun b => { b with
        device := if b.role = 0 then b.cell * 64 + b.pos else 0x3FFF }) 9)) ∧
    (s.boot.phase = 9 → exec (.fabricFlueTraining up) s = .next (toPhase (onClk (forAll ((up.eraseDups).filter fun l =>
        decide (l < 96) && linkEnabled s l && !(linkOf s l).up) (fun s l => sendHello (onLink s l fun x => { x with
      up := true, dozing := false, hello := none, refused := false, helloSent := some s.clk.pilot, tx := none }) l) s) fun c => { c with
      step10Pt := some c.pilot }) 10)) ∧
    (s.boot.phase = 10 → hasJoined s = false → exec .cellJoin s = .next (settle (leaderStep (forAll (cellLinks s) sendJoin s)))) ∧
    (∀ t, s.clk.step10Pt = some t → s.boot.phase = 10 → s.boot.joinRecorded = false → usPassed t s.clk.pilot 3900000 = true →
      exec .joinWaitRecord s = .next (ashLimited (onBoot s fun b => { b with joinRecorded := true }) 3 0x33 0x0504 [(0, natLe 8 (joinedBits s))])) ∧
    (s.boot.phase = 10 → hasJoined s = true → s1 = ashExempt (touchBoot (onClk (onBoot s fun b => { b with phase := 11, watchdogs := 0 }) fun c => { c with
        readyMs := elapsedMs s })) 0 0x31 0x0603 [(0, natLe 1 (b2n s.boot.slot)), (4, natLe 4 s.boot.imgVersion), (8, natLe 4 (elapsedMs s))] →
      idleSpare (onChim s1 fun c => { c with gates := tmapAll {} (fun g => { g with cur := 0, curCyc := s1.clk.chimney1024 / 1024 }) c.gates }) = false →
      exec .ready s = .next (settle (onChim s1 fun c => { c with
        gates := tmapAll {} (fun g => { g with cur := 0, curCyc := s1.clk.chimney1024 / 1024 }) c.gates }))) ∧
    (3 ≤ s.boot.phase → s.boot.phase ≤ 9 → s.clk.step10Pt = none → s.clk.releasePt + 18 * 1024000 ≤ s.clk.pilot →
      exec .watchdogExpire s = .next (onBoot (resetDevice s) fun b => { b with watchdogs := b.watchdogs + 1, tryOther := true }))

/-- R349, R405, R406, R411 to R417, R422, R423, R425, R426: entries and exits of the sleep states complete, wake events begin an exit,
timers begin an entry, domains are gated and return, the throttle changes a rate, and over-temperature trips and clears. -/
def Obligations.PowerCommandsComplete : Prop :=
  ∀ (s s1 : State) (us link k h d temp sensor t : Nat) (r : Sample) (temps : List Nat),
    (s.pwr.state = 1 → homesDrained s = true → s.pwr.pendingWake = none → exec .entryComplete s = .next (onPwr (sleepLinks s) fun p => { p with
      state := 2, domains := 0, smEntries := satInc 32 p.smEntries, pendingWake := none })) ∧
    (s.pwr.state = 3 → homesDrained s = true → s.pwr.pendingWake = none → exec .entryComplete s = .next (onPins (onPwr (sleepLinks s) fun p => { p with
      state := 4, domains := 0, emEntries := satInc 32 p.emEntries, pendingWake := none }) fun p => { p with refclkEn := false })) ∧
    (s.pwr.state = 5 → s.boot.phase = 11 → idleSpare s = false → s1 = onPwr s (fun p => { p with state := 0, lastExitUs := min us 65535, spareSince := none }) →
      idleSpare s1 = false → exec (.exitComplete us) s = .next (settle s1)) ∧
    (link < 96 → (flueEntry s link).en = true → s.pwr.state ≠ 0 → exec (.wakePattern link) s = .next (wakeEvent s 1 link)) ∧
    (link < 96 → (flueEntry s link).en = true → s.pwr.state = 0 → idleSpare s = true → atReady s = true → exec (.wakePattern link) s = .next (askMap s)) ∧
    (k < 2 → tbit s.cfg.power.toNat 89 = false → exec (.signalReturn k) s = .next (wakeEvent s 2 0)) ∧
    exec .modWake s = .next (wakeEvent s 3 0) ∧
    (s.pwr.wakeTimer = some t → t ≤ s.clk.pilot → exec .wakeTimer s = .next (wakeEvent (onPwr s fun p => { p with wakeTimer := none }) 4 0)) ∧
    (s.pwr.state = 2 → beyondMaximum (r.temps.take 16) = false → exec (.smoulderSample r) s = .next (forAll (crossings s r) (fun s c =>
        if c.2.2 = 0 then ashLimited s 3 0x30 0x0701 [(0, natLe 1 c.1), (4, natLe 4 c.2.1)]
        else wakeEvent (ashLimited s 3 0x30 0x0701 [(0, natLe 1 c.1), (4, natLe 4 c.2.1)]) c.2.2 0) (noteTemps (draw s).1 r.temps))) ∧
    (s.pwr.spareSince = some t → atReady s = true → s.pwr.state = 0 → idleSpare s = true → s.cell.map.serving = false → t + 65536 ≤ s.clk.pilot →
      exec .spareReentryTimer s = .next (enterSpareState (onPwr s fun p => { p with spareSince := some s.clk.pilot }))) ∧
    (s.pwr.phaseSince = some t → (s.boot.phase = 13 ∨ s.boot.phase = 14) → s.pwr.state = 0 → t + 1048576 ≤ s.clk.pilot →
      exec .phaseEmberTimer s = .next (beginEntry s true 0)) ∧
    (h < 8 → s.pwr.state = 0 → policyIn s.cfg.power.toNat h = 2 → domainOn s h = true → hearthBusy s h = false → tget 0 s.pwr.idleSince h ≠ 0 →
      tget 0 s.pwr.idleSince h - 1 + powerFld s 160 21 1024 ≤ s.clk.pilot → exec (.autoIdleExpire h) s = .next (gateDomain s h)) ∧
    (8 ≤ d → d < 30 → s.pwr.state = 0 → (tget none s.pwr.returning d).isSome = true →
      exec (.domainReturn d) s = .next (settle (freeWaits (setDomain s d true)))) ∧
    (h < 8 → s.pwr.state = 0 → 3 ≤ s.boot.phase → temp ≤ 125 →
      (throttleRate (tget 1 s.pwr.rate h) temp = tget 1 s.pwr.rate h → exec (.throttleChange h temp) s = .next (noteTemps s [temp])) ∧
      (∀ n, n = throttleRate (tget 1 s.pwr.rate h) temp → n ≠ tget 1 s.pwr.rate h →
        exec (.throttleChange h temp) s = .next (ashLimited (onPwr (noteTemps s [temp]) fun p => { p with
          rate := tput 1 p.rate h n, throttled := setFld p.throttled h 1 (b2n (n ≠ 1)), throttleEvents := satInc 32 p.throttleEvents }) 3 h 0x0702
          [(0, natLe 1 h), (1, natLe 1 n), (2, natLe 1 temp)]))) ∧
    (s.pins.vaux = true → s.pwr.tripped = false → sensor < 16 → 115 ≤ temp → temp ≤ 125 →
      exec (.overtempTrip sensor temp) s = .next (onPwr (onBoot (resetDevice (ashExempt (noteTemps s [temp]) 5 0x30 0x0703
        [(0, natLe 1 sensor), (1, natLe 1 temp)])) fun b => { b with phase := 1 }) fun p => { p with tripped := true })) ∧
    (s.pwr.tripped = true → temps.length = 16 → (temps.any fun t => decide (90 < t)) = false →
      exec (.overtempClear temps) s = .next (onPwr s fun p => { p with tripped := false }))

/-- R477: a junction reading above 125 °C is beyond the absolute maximum, where the spec gives no behaviour: each of the four commands
that carry such a reading, where it would otherwise take effect, ends in that fault. -/
def Obligations.BeyondMaximumFaults : Prop :=
  ∀ (s : State) (r : Sample) (temps : List Nat) (h sensor temp : Nat),
    (s.pwr.state = 2 → beyondMaximum (r.temps.take 16) = true → exec (.smoulderSample r) s = .fault .beyondAbsoluteMaximum) ∧
    (s.pins.vaux = true → temps.length ≤ 48 → beyondMaximum (temps.take 16) = true →
      exec (.operatingSecond temps) s = .fault .beyondAbsoluteMaximum) ∧
    (h < 8 → s.pwr.state = 0 → 3 ≤ s.boot.phase → 125 < temp → exec (.throttleChange h temp) s = .fault .beyondAbsoluteMaximum) ∧
    (s.pins.vaux = true → s.pwr.tripped = false → sensor < 16 → 125 < temp →
      exec (.overtempTrip sensor temp) s = .fault .beyondAbsoluteMaximum)

/-- R359, R421, R452, R458 to R474: the pins act: power failure and its end, the input monitor, module presence, the SMBus, the recorder's
hold, and the test access port. -/
def Obligations.PinCommandsComplete : Prop :=
  ∀ (s : State) (data : List Byte),
    (s.pins.powerFail = false → exec .powerFailAssert s = .next (if s.pins.vaux && s.pins.vin54
      then actPowerFail (onPins s fun p => { p with powerFail := true }) else onPins s fun p => { p with powerFail := true })) ∧
    (s.pins.vin54 = true → exec .vinMonitorTrip s = .next (if s.pins.vaux && !s.pins.powerFail
      then actPowerFail (onPins s fun p => { p with vin54 := false }) else onPins s fun p => { p with vin54 := false })) ∧
    (s.pins.present = true → exec .modPresentBreak s = .next (if s.pins.vaux && inputGood s
      then actPowerFail (onPins s fun p => { p with present := false, vin54 := false }) else onPins s fun p => { p with present := false, vin54 := false })) ∧
    (inputGood s = false → s.boot.phase ≠ 12 → exec .powerFailDeassert s = .next (onPins s fun p => { p with
      powerFail := false, vin54 := true, present := true, imgBusy := decide (s.boot.phase = 4) && s.pins.vaux })) ∧
    (smbAnswers s = true → data.length = 3 → leNat data % 4 = 0 → smbLeft s (leNat data) ≠ 0 →
      exec (.smbPointerSet data) s = .next (onPins s fun p => { p with smbPtr := leNat data, smbNack := false, smbOut := [] })) ∧
    (smbAnswers s = true → data.length = 3 → (leNat data % 4 ≠ 0 ∨ smbLeft s (leNat data) = 0) →
      exec (.smbPointerSet data) s = .next (onPins s fun p => { p with smbNack := true, smbOut := [] })) ∧
    (∀ o n, smbAnswers s = true → o = s.pins.smbPtr → n = min 32 (smbLeft s o) →
      exec .smbBlockRead s = .next (onPins (readSpace s o n).1 fun p => { p with
        smbOut := (readSpace s o n).2, smbNack := false, smbPtr := o + n
        smbAlert := p.smbAlert && !(decide (0x10400 ≤ o) && decide (o < 0x10440) && decide (n ≠ 0)) })) ∧
    (smbAnswers s = true → exec .smbQuickStatus s = .next (onPins s fun p => { p with smbOut := quickStatus s, smbNack := false })) ∧
    (smbAnswers s = true → s.pins.smbAlert = true → exec .smbAlertResponse s = .next (onPins s fun p => { p with
      smbOut := natLe 1 (smbAddr s), smbNack := false, smbAlert := false })) ∧
    (smbAnswers s = true → exec .smbClockTimeout s = .next (onPins s fun p => { p with smbOut := [], smbNack := false })) ∧
    exec .recHoldAssert s = .next (onPins s fun p => { p with recHoldN := false }) ∧
    exec .recHoldDeassert s = .next (if recHeld s && (s.ash.backlog.any fun r => decide (4 ≤ r.sev))
      then flush (onPins s fun p => { p with recHoldN := true }) else onPins s fun p => { p with recHoldN := true }) ∧
    (∀ i c, (i, c) ∈ ([(.idcode, .idcode), (.bypass, .bypass), (.extest, .extest), (.intest, .intest), (.clamp, .clamp),
        (.extestPulse, .extestPulse), (.extestTrain, .extestTrain)] : List (TapInstr × Instr)) →
      s.pins.vaux = true → exec c s = .next (loadTap s i)) ∧
    (s.pins.vaux = true → jtagLocked s = true → (loadTap s .extest).pins.tap = .bypass ∧ (loadTap s .idcode).pins.tap = .idcode) ∧
    exec .testLogicReset s = .next (onPins s fun p => { p with trstN := false, tap := .idcode })

/-- R273, R321, R328, R420, R433, R435, R442 to R449, R466: the health commands: tokens of the recorder's limiters, its writes to NVM, the
second's readings, droops, the shadow test's results, and the metering interval. -/
def Obligations.HealthCommandsComplete : Prop :=
  ∀ (s s1 : State) (temps : List Nat) (rail depth dur mj : Nat) (e : Eye) (rest : List Rec) (r : Rec),
    (s.pins.vaux = true → s.ash.waits203 = 0 → s.ash.waits404 = 0 → exec .rateLimitPeriod s = .next (onAsh s fun a => { a with
      tokens := tmapAll 16 (fun n => min 16 (n + 1)) a.tokens, waits203 := 0, waits404 := 0 })) ∧
    (s.pins.vaux = true → recHeld s = false → s.ash.backlog = r :: rest →
      exec (.ashNvmWrite true) s = .next (onAsh (nvmStore s r) fun a => { a with backlog := rest, tries := 0 }) ∧
      (s.ash.tries < 3 → exec (.ashNvmWrite false) s = .next (onAsh s fun a => { a with tries := a.tries + 1, nvmErrors := satInc 64 a.nvmErrors })) ∧
      (3 ≤ s.ash.tries → exec (.ashNvmWrite false) s = .next (ashExempt (onAsh s fun a => { a with
        backlog := rest, tries := 0, nvmFail := true }) 4 0x30 0x0801 [(0, natLe 1 2)]))) ∧
    (s.pins.vaux = true → temps.length ≤ 48 → beyondMaximum (temps.take 16) = false →
      exec (.operatingSecond temps) s = .next (meterSecond (onPwr (onHlth (onClk (noteTemps s temps) fun c => { c with opSec := satInc 64 c.opSec })
        fun h => { h with therm := forAll temps.zipIdx (fun t e => countBin t e.2 e.1) h.therm }) fun p => { p with
          smS := if p.state = 2 then satInc 32 p.smS else p.smS, emS := if p.state = 4 then satInc 32 p.emS else p.emS }))) ∧
    (s.pins.vaux = true → rail < 4 → 10 ≤ dur → ashpitFld s 32 8 50 ≤ depth →
      exec (.droopDetect rail depth dur) s = .next (ashLimited (onHlth s fun h => { h with droops := h.droops ++ [{
          opSec := s.clk.opSec % 2 ^ 32, rail := rail, depth := min 65535 depth, dur := min dur (2 ^ 32 - 1), pcycles := s.clk.pcycles }] }) 3 0x30 0x0705
        [(0, natLe 1 rail), (2, natLe 2 (min 65535 depth)), (4, natLe 4 (min dur (2 ^ 32 - 1)))])) ∧
    (atReady s = true → s.pwr.state = 0 → fld s.cfg.ashpit.toNat 28 4 ≠ 0xF → e.chan < 256 → shadowSite s (e.chan / 8) = true →
      (eyeLow s e = false → exec (.shadowTest (.dram e)) s = .next (eyeScan s e)) ∧
      (eyeLow s e = true → exec (.shadowTest (.dram e)) s = .next (recordEye (eyeScan s e) e))) ∧
    (∀ lane w h ber n cw, atReady s = true → s.pwr.state = 0 → fld s.cfg.ashpit.toNat 28 4 ≠ 0xF → lane < 104 → (linkOf s (laneLink s lane)).up = true →
      s1 = laneScan s lane {
        opSec := s.clk.opSec % 2 ^ 32, width := min 255 w, height := min 255 h, ber := ber, berExp := n, codewords := min cw (2 ^ 32 - 1) } →
      exec (.shadowTest (.lane lane w h ber n cw)) s = .next (if decide (h < ashpitFld s 16 8 15) || berHigh s ber then
        ashLimited s1 3 (0x10 + flueOf (laneLink s lane)) 0x0304 [(0, natLe 1 lane), (4, natLe 4 ber.toNat)] else s1)) ∧
    (∀ shares, s.pins.vaux = true → s.pins.vin54 = true → 5 ≤ s.boot.phase → shares = (energyEntries s).map (fun i => (i, energyShare s mj i)) →
      exec (.meteringInterval mj) s = .next (onMtr (addEnergy (forAll shares (fun s e => addEnergy s e.1 e.2) s) 16384
        (mj * 1000 - (shares.map Prod.snd).sum)) fun m => { m with act := [], unAct := 0, staticW := ashpitFld s 40 10 170 }))

/-! ## The whole block -/

/-- A step runs the command at the front of the queue on the state whose queue is the rest; on an empty queue the Pilot counts one tick,
the Chimney's clock with it, and nothing else changes (the model's choice: log 2). A word spells no command (log 1). -/
def Obligations.StepRunsFrontCommand : Prop :=
  (∀ (c : Instr) (s : State) (rest : List Instr), s.pending = c :: rest → step s = exec c { s with pending := rest }) ∧
  (∀ s : State, s.pending = [] → step s = .next (tick s) ∧ (tick s).clk.pilot = s.clk.pilot + 1 ∧ { tick s with clk := s.clk } = s) ∧
  (∀ (s : State) (nbits w : Nat), decodeTableWord nbits w = none ∧ s.withFetchWord nbits w = s)

/-- The memory, the tags and the marks of lines keep their one canonical form over every step, from every state that has it. -/
def Obligations.StepKeepsMemoryForm : Prop :=
  ∀ s t : State, Mem.wf s.mem = true → step s = .next t → Mem.wf t.mem = true

/-- No step makes a blown fuse whole again, in either copy (R387). -/
def Obligations.StepKeepsBlownFuses : Prop :=
  ∀ (s t : State) (i : Nat), step s = .next t →
    (s.fuse.a.getLsbD i = true → t.fuse.a.getLsbD i = true) ∧ (s.fuse.b.getLsbD i = true → t.fuse.b.getLsbD i = true)

/-- While the recorder's NVM is not one that is taken as new (R437), no step lowers the next record number (R430) or any key slot's
LAST_SEQ (R394). -/
def Obligations.StepKeepsRecordNumbers : Prop :=
  ∀ (s t : State) (k : Nat), s.ash.blank = false → tok 0 s.auth.lastSeq = true → step s = .next t →
    s.ash.nextRno ≤ t.ash.nextRno ∧ tok 0 t.auth.lastSeq = true ∧ tget 0 s.auth.lastSeq k ≤ tget 0 t.auth.lastSeq k

/-- Every command of every state is answered: by a next state that leaves the queue as it was and takes free values only in order, or by
the one fault of a reading beyond the absolute maximum (R477). No command is refused. -/
def Obligations.EveryCommandAnswered : Prop :=
  ∀ (c : Instr) (s : State), (∃ t, exec c s = .next t ∧ t.pending = s.pending ∧ s.draws ≤ t.draws) ∨
    exec c s = .fault .beyondAbsoluteMaximum

/-- What reset leaves: the queue is empty, memory lists nothing and reads 0 (the model's choice: log 6), PHASE reads 1 (R383), record
numbers begin at 0 (R430), no key has a LAST_SEQ, no link is up, no context is open, no extent exists and no item runs; both copies of
the fuses are one (the model's choice: log 3). -/
def Obligations.ResetState : Prop :=
  State.reset.pending = [] ∧ Mem.wf State.reset.mem = true ∧ (∀ a n, leNat (readBytes State.reset a n) = 0) ∧
    (∀ l, isPoisoned State.reset l = false) ∧ State.reset.boot.phase = 1 ∧ State.reset.ash.nextRno = 0 ∧
    (∀ l, (linkOf State.reset l).up = false) ∧ (∀ c, (ctxOf State.reset c).isOpen = false) ∧ (∀ k, (extN State.reset k).state = 0) ∧
    State.reset.fuse.a = State.reset.fuse.b ∧ State.reset.stv.items = [] ∧ State.reset.auth.lastSeq = []

/-- R41: zero-initialisation at bring-up, and zero on reuse of an extent, leave every byte 0, a format pair of 0x00 and correct check data
on every line, which reads as OK. -/
def Obligations.ZeroedMemoryReadsZero : Prop :=
  (∀ s : State, s.boot.phase = 7 → ∃ t, exec .zeroInitialisation s = .next t ∧ (∀ a, tget 0 t.mem.cells a = 0) ∧
    (∀ tile, tagOf t tile = .fmt 0) ∧ ∀ l, isPoisoned t l = false ∧ badLine t l .clean = false) ∧
  (∀ (s t : State) (k : Nat), zeroThrough s (k * 2 ^ 30) (2 ^ 30) = t → (∀ a, a / 2 ^ 30 = k → tget 0 t.mem.cells a = 0) ∧
    (∀ tile, tile / 2 ^ 16 = k → tagOf t tile = .fmt 0) ∧ ∀ l, l / 2 ^ 24 = k → isPoisoned t l = false ∧ badLine t l .clean = false)

/-- R21, R204, R295: a change to a line at its home changes that line's bytes and no other byte of memory, and no tile's tag. -/
def Obligations.WriteChangesOneLine : Prop :=
  ∀ (s : State) (l : Nat) (new : List Byte) (full seen : Bool), tok 0 s.mem.cells = true → new.length = 64 →
    readBytes (homeStore s l new full seen) (l * 64) 64 = new ∧
    (∀ a, lineOf a ≠ l → tget 0 (homeStore s l new full seen).mem.cells a = tget 0 s.mem.cells a) ∧
    (homeStore s l new full seen).mem.tags = s.mem.tags

/-- R206: the 64 bytes of a HELLO body say what the body holds: what is read of them is what was written, for every field at every value
that its width admits. -/
def Obligations.HelloBodyReadsBack : Prop :=
  ∀ h : Hello, h.maxrev < 2 ^ 4 → h.role < 2 ^ 2 → h.dev < 2 ^ 14 → h.cell < 2 ^ 12 → h.pos < 2 ^ 6 → h.flue < 2 ^ 5 → h.link < 2 ^ 2 →
    h.maxpay < 2 ^ 13 → h.features < 2 ^ 64 → h.serial < 2 ^ 64 → (helloBytes h).length = 64 ∧ helloOf (helloBytes h) = h

/-- R298: a snoop that names a link that is down, or one that has no coherence context, is answered ACK_I by the entry module on the
agent's behalf: to the device that sent it, for the same line and with the same SNOOP_ID (SRC_LINK is not stated: log 54); where home
and entry module are one module, the home has no snoop to send. -/
def Obligations.EntryModuleAnswersForAgent : Prop :=
  (∀ (s : State) (k : Nat), agentPos k = s.boot.pos → ((linkOf s (k % 128)).up = false ∨ cohCtx s (k % 128) = none) →
    selfAcked s k false = true) ∧
  ∀ (s s1 : State) (a : Arrival) (f : Frame) (m : Nat) (c : Arrival → Frame → Instr),
    (m, c) ∈ ([(0x20, .snpInv), (0x21, .snpDown), (0x22, .snpFwdS), (0x23, .snpFwdX), (0x24, .snpDev)] : List (Nat × (Arrival → Frame → Instr))) →
    f.typ = tCoh → cohMsg f = m → f.leg = true → f.dstDev = selfDev s → (linkOf s a.link).up = true → isService a.link = false →
    linkRole s a.link ≠ 3 → (linkOf s a.link).hello.isSome = true → f.hops < s.cfg.hopsMax → s1 = countLink s a.link 1 →
    snoopLink f ≠ 0x7F → ((linkOf s1 (snoopLink f)).up = false ∨ cohCtx s1 (snoopLink f) = none) →
    ∃ n, exec (c a f) s = .next (sendFabric s1 {
      typ := tCoh, leg := true, tc := 7, dstDev := f.srcDev, srcDev := selfDev s1, cell := f.srcDev / 64, epoch := epochOf s1 (f.srcDev / 64)
      srcLink := n, mpa := f.mpa, opa := BitVec.ofNat 64 (0x10 + (snoopIdOf f).toNat * 2 ^ 32) } .snoop)
end

