-- ==== Sys2Proof/Laws/Issue.lean ====
section
/-! SUPPORT. What issuing an instruction answers: its body where the guard holds, the pc's advance where it does not (R113), and
nothing where the thread may not issue it. -/

namespace Sys2Proof.Machine

/-- The guard holds: the body answers. -/
theorem issue_of_guard {s : State} {t : ThreadRef} {w : BitVec 64} {k o : Nat} {it : Item} {th : Thread} (b : Item → Thread → Ans)
    (h : canIssue s t w k o = some (it, th)) (g : guardHolds th w = true) : issue s t w k o b = b it th := by
  simp only [issue, h, g, if_true]

/-- The guard does not hold: the pc passes the instruction. -/
theorem issue_of_not_guard {s : State} {t : ThreadRef} {w : BitVec 64} {k o : Nat} {it : Item} {th : Thread} (b : Item → Thread → Ans)
    (h : canIssue s t w k o = some (it, th)) (g : guardHolds th w = false) : issue s t w k o b = .next (onThread s t nextPc) := by
  simp only [issue, h, g, Bool.false_eq_true, if_false]

/-- The thread may not issue it: nothing happens. -/
theorem issue_of_none {s : State} {t : ThreadRef} {w : BitVec 64} {k o : Nat} (b : Item → Thread → Ans)
    (h : canIssue s t w k o = none) : issue s t w k o b = .next s := by
  simp only [issue, h, notEnabled]

end Sys2Proof.Machine
end

