-- ==== Sys2Proof/Laws/Tab.lean ====
section
/-! SUPPORT. Tables keep their canonical form, and what is read after a write (Machine/Tab.lean). -/

namespace Sys2Proof.Machine

/-- A bound below every number may be lowered. -/
theorem tokFrom_weaken {α : Type} [DecidableEq α] {d : α} {lo lo' : Nat} {t : Tab α} (h : tokFrom d lo t = true) (hl : lo' ≤ lo) :
    tokFrom d lo' t = true := by
  cases t with
  | nil => rfl
  | cons e t => simp only [tokFrom, Bool.and_eq_true, decide_eq_true_eq] at h ⊢; exact ⟨⟨by omega, h.1.2⟩, h.2⟩

/-- Setting an entry at or above the bound keeps the form. -/
theorem tokFrom_tput {α : Type} [DecidableEq α] {d : α} {lo k : Nat} {t : Tab α} {v : α} (h : tokFrom d lo t = true) (hk : lo ≤ k) :
    tokFrom d lo (tput d t k v) = true := by
  induction t generalizing lo with
  | nil => unfold tput; split <;> simp_all [tokFrom]
  | cons e t ih =>
    obtain ⟨n, w⟩ := e
    simp only [tokFrom, Bool.and_eq_true, decide_eq_true_eq] at h
    unfold tput
    split
    · subst k
      split
      · exact tokFrom_weaken h.2 (by omega)
      · simp only [tokFrom, Bool.and_eq_true, decide_eq_true_eq]; exact ⟨⟨hk, by assumption⟩, h.2⟩
    · split
      · split
        · simp only [tokFrom, Bool.and_eq_true, decide_eq_true_eq]; exact h
        · simp only [tokFrom, Bool.and_eq_true, decide_eq_true_eq]; exact ⟨⟨hk, by assumption⟩, ⟨by omega, h.1.2⟩, h.2⟩
      · simp only [tokFrom, Bool.and_eq_true, decide_eq_true_eq]
        exact ⟨h.1, ih h.2 (by omega)⟩

/-- Setting an entry keeps the canonical form. -/
theorem tok_tput {α : Type} [DecidableEq α] {d : α} {k : Nat} {t : Tab α} {v : α} (h : tok d t = true) : tok d (tput d t k v) = true :=
  tokFrom_tput h (Nat.zero_le _)

/-- Changing an entry keeps the canonical form. -/
theorem tok_tmod {α : Type} [DecidableEq α] {d : α} {k : Nat} {t : Tab α} {f : α → α} (h : tok d t = true) : tok d (tmod d t k f) = true :=
  tok_tput h

/-- Leaving entries out keeps the form. -/
theorem tokFrom_filter {α : Type} [DecidableEq α] {d : α} {lo : Nat} {t : Tab α} {p : Nat × α → Bool} (h : tokFrom d lo t = true) :
    tokFrom d lo (t.filter p) = true := by
  induction t generalizing lo with
  | nil => rfl
  | cons e t ih =>
    obtain ⟨n, w⟩ := e
    simp only [tokFrom, Bool.and_eq_true, decide_eq_true_eq] at h
    rw [List.filter_cons]
    split
    · simp only [tokFrom, Bool.and_eq_true, decide_eq_true_eq]; exact ⟨h.1, ih h.2⟩
    · exact tokFrom_weaken (ih h.2) (by omega)

/-- Leaving entries out keeps the canonical form. -/
theorem tok_filter {α : Type} [DecidableEq α] {d : α} {t : Tab α} {p : Nat × α → Bool} (h : tok d t = true) : tok d (t.filter p) = true :=
  tokFrom_filter h

/-- Dropping a range keeps the canonical form. -/
theorem tok_tdropRange {α : Type} [DecidableEq α] {d : α} {t : Tab α} {lo hi : Nat} (h : tok d t = true) : tok d (tdropRange t lo hi) = true :=
  tok_filter h

/-- Below the first number the table reads as the default. -/
theorem tget_below {α : Type} [DecidableEq α] {d : α} {t : Tab α} {j m : Nat} (h : tokFrom d m t = true) (hj : j < m) : tget d t j = d := by
  cases t with
  | nil => rfl
  | cons e t =>
    obtain ⟨q, u⟩ := e
    simp only [tokFrom, Bool.and_eq_true, decide_eq_true_eq] at h
    unfold tget; rw [if_neg (by omega), if_pos (by omega)]

/-- An entry reads as it was set. -/
theorem tget_tput_same {α : Type} [DecidableEq α] {d : α} {t : Tab α} {k : Nat} {v : α} {lo : Nat} (h : tokFrom d lo t = true) : tget d (tput d t k v) k = v := by
  induction t generalizing lo with
  | nil => unfold tput; split <;> simp_all [tget]
  | cons e t ih =>
    obtain ⟨n, w⟩ := e
    simp only [tokFrom, Bool.and_eq_true, decide_eq_true_eq] at h
    unfold tput
    split
    · subst k; split
      · rename_i hv; subst hv
        cases t with
        | nil => rfl
        | cons e t => obtain ⟨m, u⟩ := e; simp only [tokFrom, Bool.and_eq_true, decide_eq_true_eq] at h; unfold tget; rw [if_neg (by omega), if_pos (by omega)]
      · simp [tget]
    · split
      · split
        · rename_i hv; subst hv; unfold tget; simp_all
        · simp [tget]
      · unfold tget; rw [if_neg (by assumption), if_neg (by assumption)]; exact ih h.2

/-- Setting one entry leaves every other one as it was. -/
theorem tget_tput_other {α : Type} [DecidableEq α] {d : α} {t : Tab α} {j k : Nat} {v : α} {lo : Nat} (h : tokFrom d lo t = true) (hj : j ≠ k) : tget d (tput d t k v) j = tget d t j := by
  induction t generalizing lo with
  | nil => unfold tput; split <;> simp_all [tget]
  | cons e t ih =>
    obtain ⟨n, w⟩ := e
    simp only [tokFrom, Bool.and_eq_true, decide_eq_true_eq] at h
    unfold tput
    split
    · subst k; split
      · conv => rhs; unfold tget
        rw [if_neg hj]
        split
        · exact tget_below h.2 (by omega)
        · rfl
      · unfold tget; simp [hj]
    · split
      · split
        · rfl
        · conv => lhs; unfold tget
          rw [if_neg hj]
          split
          · unfold tget; rw [if_neg (by omega), if_pos (by omega)]
          · rfl
      · unfold tget; rw [ih h.2]

end Sys2Proof.Machine
end

