-- ==== Sys2Proof/Laws/Memory.lean ====
section
/-! SUPPORT. Memory keeps its canonical form, and what is read after a write (Machine/Mem.lean). -/

namespace Sys2Proof.Machine

/-- A bound below every number of a rising list may be lowered. -/
theorem risingFrom_weaken {lo lo' : Nat} {xs : List Nat} (h : risingFrom lo xs = true) (hl : lo' ≤ lo) : risingFrom lo' xs = true := by
  cases xs with
  | nil => rfl
  | cons x xs => simp only [risingFrom, Bool.and_eq_true, decide_eq_true_eq] at h ⊢; exact ⟨by omega, h.2⟩

/-- Leaving numbers out of a rising list leaves it rising. -/
theorem risingFrom_filter {lo : Nat} {xs : List Nat} {p : Nat → Bool} (h : risingFrom lo xs = true) : risingFrom lo (xs.filter p) = true := by
  induction xs generalizing lo with
  | nil => rfl
  | cons x xs ih =>
    simp only [risingFrom, Bool.and_eq_true, decide_eq_true_eq] at h
    rw [List.filter_cons]
    split
    · simp only [risingFrom, Bool.and_eq_true, decide_eq_true_eq]; exact ⟨h.1, ih h.2⟩
    · exact risingFrom_weaken (ih h.2) (by omega)

/-- Leaving numbers out of a rising list leaves it rising. -/
theorem rising_filter {xs : List Nat} {p : Nat → Bool} (h : rising xs = true) : rising (xs.filter p) = true := risingFrom_filter h

/-- Inserting a number at or above the bound keeps the list rising. -/
theorem risingFrom_insertNat {lo x : Nat} {xs : List Nat} (h : risingFrom lo xs = true) (hx : lo ≤ x) : risingFrom lo (insertNat x xs) = true := by
  induction xs generalizing lo with
  | nil => simp [insertNat, risingFrom, hx]
  | cons y ys ih =>
    have h' := h
    simp only [risingFrom, Bool.and_eq_true, decide_eq_true_eq] at h
    unfold insertNat
    split
    · exact h'
    · split
      · simp only [risingFrom, Bool.and_eq_true, decide_eq_true_eq]; exact ⟨hx, by omega, h.2⟩
      · simp only [risingFrom, Bool.and_eq_true, decide_eq_true_eq]; exact ⟨h.1, ih h.2 (by omega)⟩

/-- Inserting a number keeps the list rising. -/
theorem rising_insertNat {x : Nat} {xs : List Nat} (h : rising xs = true) : rising (insertNat x xs) = true :=
  risingFrom_insertNat h (Nat.zero_le x)

/-- The canonical form of memory, part by part. -/
theorem Mem.wf_iff {m : Mem} : Mem.wf m = true ↔ (((((tok 0 m.cells = true ∧ tok (.fmt 0) m.tags = true) ∧ rising m.poison = true) ∧
    rising m.filled = true) ∧ rising m.unprot = true) ∧ rising m.lost = true) := by
  simp only [Mem.wf, Bool.and_eq_true]

/-- Writing bytes keeps the canonical form of the cells. -/
theorem tok_putBytes {c : Tab Byte} {a : Nat} {bs : List Byte} (h : tok 0 c = true) : tok 0 (putBytes c a bs) = true := by
  induction bs generalizing c a with
  | nil => exact h
  | cons b bs ih => exact ih (tok_tput h)

/-- A byte below the first one written reads as before. -/
theorem tget_putBytes_below {c : Tab Byte} {a j : Nat} {bs : List Byte} (h : tok 0 c = true) (hj : j < a) :
    tget 0 (putBytes c a bs) j = tget 0 c j := by
  induction bs generalizing c a with
  | nil => rfl
  | cons b bs ih => exact (ih (tok_tput h) (by omega)).trans (tget_tput_other h (by omega))

/-- A byte above the last one written reads as before. -/
theorem tget_putBytes_above {c : Tab Byte} {a j : Nat} {bs : List Byte} (h : tok 0 c = true) (hj : a + bs.length ≤ j) :
    tget 0 (putBytes c a bs) j = tget 0 c j := by
  induction bs generalizing c a with
  | nil => rfl
  | cons b bs ih =>
    simp only [List.length_cons] at hj
    exact (ih (tok_tput h) (by omega)).trans (tget_tput_other h (by omega))

/-- Every byte written reads as written. -/
theorem tget_putBytes_at {c : Tab Byte} {a i : Nat} {bs : List Byte} (h : tok 0 c = true) (hi : i < bs.length) :
    tget 0 (putBytes c a bs) (a + i) = bs[i] := by
  induction bs generalizing c a i with
  | nil => simp at hi
  | cons b bs ih =>
    cases i with
    | zero => exact (tget_putBytes_below (tok_tput h) (by omega)).trans (tget_tput_same h)
    | succ i =>
      have e := ih (c := tput 0 c a b) (a := a + 1) (i := i) (tok_tput h) (by simpa using hi)
      simpa [putBytes, Nat.add_assoc, Nat.add_comm 1 i] using e

end Sys2Proof.Machine
end

