-- ==== Sys2Proof/Laws/Keeps.lean ====
section
/-! SUPPORT. The law that every operation of the model keeps, and the lemmas that carry it through pairs, answers, choices and
folds. Laws/Keeps<File>.lean says it of each operation of Machine/<File>.lean. -/

namespace Sys2Proof.Machine

/-- No fuse that is blown is whole again (R387). -/
def FuseKept (f g : Fuse) : Prop := ∀ i : Nat, (f.a.getLsbD i = true → g.a.getLsbD i = true) ∧ (f.b.getLsbD i = true → g.b.getLsbD i = true)

/-- No key's LAST_SEQ falls (R394). -/
def SeqKept (t u : Tab Nat) : Prop := tok 0 t = true → tok 0 u = true ∧ ∀ k, tget 0 t k ≤ tget 0 u k

/-- What every operation leaves: the queue is untouched, free values are only used up, memory keeps its canonical form, no blown fuse
is whole again (R387), and on a recorder that is not taken as new (R437) neither the next record number (R430) nor any key's
LAST_SEQ falls (R394). -/
structure Keeps (s0 s : State) : Prop where
  pending : s.pending = s0.pending
  draws : s0.draws ≤ s.draws
  mem : Mem.wf s0.mem = true → Mem.wf s.mem = true
  fuse : FuseKept s0.fuse s.fuse
  rno : s0.ash.blank = false → s0.ash.nextRno ≤ s.ash.nextRno
  seq : s0.ash.blank = false → SeqKept s0.auth.lastSeq s.auth.lastSeq

/-- The law of the first of a pair. -/
def KeepsFst {α : Type} (s0 : State) (p : State × α) : Prop := Keeps s0 p.1

/-- The law of the second of a pair. -/
def KeepsSnd {α : Type} (s0 : State) (p : α × State) : Prop := Keeps s0 p.2

/-- The law of an answer: a next state that keeps it, or the one fault of Fault; never a refusal. -/
inductive KeepsAns (s0 : State) : Ans → Prop
  | next {s : State} (h : Keeps s0 s) : KeepsAns s0 (.next s)
  | fault : KeepsAns s0 (.fault .beyondAbsoluteMaximum)

/-! ## The parts of the law -/

theorem FuseKept.refl (f : Fuse) : FuseKept f f := fun _ => ⟨id, id⟩

theorem SeqKept.refl (t : Tab Nat) : SeqKept t t := fun h => ⟨h, fun _ => Nat.le_refl _⟩

theorem SeqKept.trans {t u v : Tab Nat} (h : SeqKept t u) (k : SeqKept u v) : SeqKept t v := fun w =>
  ⟨(k (h w).1).1, fun n => Nat.le_trans ((h w).2 n) ((k (h w).1).2 n)⟩

theorem SeqKept.put {t : Tab Nat} {k v : Nat} (h : tget 0 t k ≤ v) : SeqKept t (tput 0 t k v) := fun w =>
  ⟨tok_tput w, fun n => by
    by_cases e : n = k
    · subst e; rw [tget_tput_same w]; exact h
    · exact Nat.le_of_eq (tget_tput_other w e).symm⟩

theorem Keeps.refl (s : State) : Keeps s s := ⟨rfl, Nat.le_refl _, id, FuseKept.refl _, fun _ => Nat.le_refl _, fun _ => SeqKept.refl _⟩

/-! ## Pairs and answers -/

theorem Keeps.fst {α : Type} {s0 : State} {p : State × α} (h : KeepsFst s0 p) : Keeps s0 p.1 := h

theorem Keeps.snd {α : Type} {s0 : State} {p : α × State} (h : KeepsSnd s0 p) : Keeps s0 p.2 := h

theorem Keeps.ofFst {α : Type} {s0 s : State} {p : State × α} {y : α} (e : p = (s, y)) (h : KeepsFst s0 p) : Keeps s0 s := by
  subst e; exact h

theorem Keeps.ofSnd {α : Type} {s0 s : State} {p : α × State} {y : α} (e : p = (y, s)) (h : KeepsSnd s0 p) : Keeps s0 s := by
  subst e; exact h

theorem Keeps.ofAns {s0 s : State} {p : Ans} (e : p = .next s) (h : KeepsAns s0 p) : Keeps s0 s := by
  subst e; cases h; assumption

theorem KeepsFst.pair_iff {α : Type} {s0 s : State} {y : α} : KeepsFst s0 (s, y) ↔ Keeps s0 s := Iff.rfl

theorem KeepsSnd.pair_iff {α : Type} {s0 s : State} {y : α} : KeepsSnd s0 (y, s) ↔ Keeps s0 s := Iff.rfl

theorem Keeps.ofPair {α : Type} {s0 s : State} {y : α} (h : KeepsFst s0 (s, y)) : Keeps s0 s := h

theorem KeepsAns.notEnabled {s0 s : State} (h : Keeps s0 s) : KeepsAns s0 (notEnabled s) := .next h

/-! ## Folds -/

theorem forAll_keeps {α : Type} {s0 : State} {xs : List α} {f : State → α → State} {s : State}
    (h : Keeps s0 s) (hf : ∀ s x, Keeps s0 s → Keeps s0 (f s x)) : Keeps s0 (forAll xs f s) := by
  unfold forAll
  induction xs generalizing s with
  | nil => exact h
  | cons x xs ih => exact ih (hf s x h)

theorem tok_forAll {α β : Type} [DecidableEq β] {d : β} {xs : List α} {f : Tab β → α → Tab β} {t : Tab β}
    (h : tok d t = true) (hf : ∀ t x, tok d t = true → tok d (f t x) = true) : tok d (forAll xs f t) = true := by
  unfold forAll
  induction xs generalizing t with
  | nil => exact h
  | cons x xs ih => exact ih (hf t x h)

theorem rising_forAll {α : Type} {xs : List α} {f : List Nat → α → List Nat} {t : List Nat}
    (h : rising t = true) (hf : ∀ t x, rising t = true → rising (f t x) = true) : rising (forAll xs f t) = true := by
  unfold forAll
  induction xs generalizing t with
  | nil => exact h
  | cons x xs ih => exact ih (hf t x h)

theorem forAll_keepsFst {α β : Type} {s0 : State} {xs : List α} {f : State × β → α → State × β} {p : State × β}
    (h : KeepsFst s0 p) (hf : ∀ p x, KeepsFst s0 p → KeepsFst s0 (f p x)) : KeepsFst s0 (forAll xs f p) := by
  unfold forAll
  induction xs generalizing p with
  | nil => exact h
  | cons x xs ih => exact ih (hf p x h)

theorem foldl_keeps {α : Type} {s0 : State} {xs : List α} {f : State → α → State} {s : State}
    (h : Keeps s0 s) (hf : ∀ s x, Keeps s0 s → Keeps s0 (f s x)) : Keeps s0 (xs.foldl f s) := forAll_keeps h hf

theorem foldl_keepsFst {α β : Type} {s0 : State} {xs : List α} {f : State × β → α → State × β} {p : State × β}
    (h : KeepsFst s0 p) (hf : ∀ p x, KeepsFst s0 p → KeepsFst s0 (f p x)) : KeepsFst s0 (xs.foldl f p) := forAll_keepsFst h hf

/-! ## Choices -/

theorem Keeps.ite' {s0 : State} {c : Prop} [Decidable c] {a b : State} (ha : c → Keeps s0 a) (hb : ¬c → Keeps s0 b) :
    Keeps s0 (if c then a else b) := by
  split
  · exact ha ‹_›
  · exact hb ‹_›

theorem KeepsAns.ite {s0 : State} {c : Prop} [Decidable c] {a b : Ans} (ha : c → KeepsAns s0 a) (hb : ¬c → KeepsAns s0 b) :
    KeepsAns s0 (if c then a else b) := by
  split
  · exact ha ‹_›
  · exact hb ‹_›

theorem KeepsFst.ite {α : Type} {s0 : State} {c : Prop} [Decidable c] {a b : State × α} (ha : c → KeepsFst s0 a) (hb : ¬c → KeepsFst s0 b) :
    KeepsFst s0 (if c then a else b) := by
  split
  · exact ha ‹_›
  · exact hb ‹_›

theorem KeepsSnd.ite {α : Type} {s0 : State} {c : Prop} [Decidable c] {a b : α × State} (ha : c → KeepsSnd s0 a) (hb : ¬c → KeepsSnd s0 b) :
    KeepsSnd s0 (if c then a else b) := by
  split
  · exact ha ‹_›
  · exact hb ‹_›

end Sys2Proof.Machine
end

