-- ==== Sys2Proof/Laws/KeepsOps.lean ====
section
/-! SUPPORT. What every operation of Machine/Ops.lean leaves as the law Keeps says (Laws/Keeps.lean). -/

namespace Sys2Proof.Machine

theorem onAsh_keeps {s0 s : State} {g : Ash → Ash} (h : Keeps s0 s) (hg : s.ash.nextRno ≤ (g s.ash).nextRno) : Keeps s0 (onAsh s g) :=
  ⟨h.pending, h.draws, h.mem, h.fuse, fun b => Nat.le_trans (h.rno b) hg, h.seq⟩

theorem notEnabled_keeps {s0 : State} {x0 : State} (hx0 : Keeps s0 x0) :
    KeepsAns s0 (notEnabled x0) := by
  unfold notEnabled
  with_reducible repeat' first | assumption | apply KeepsAns.next

theorem onLinks_keeps {s0 s : State} {g} (h : Keeps s0 s) : Keeps s0 (onLinks s g) := ⟨h.pending, h.draws, h.mem, h.fuse, h.rno, h.seq⟩

theorem onHlth_keeps {s0 s : State} {g} (h : Keeps s0 s) : Keeps s0 (onHlth s g) := ⟨h.pending, h.draws, h.mem, h.fuse, h.rno, h.seq⟩

theorem onBoot_keeps {s0 s : State} {g} (h : Keeps s0 s) : Keeps s0 (onBoot s g) := ⟨h.pending, h.draws, h.mem, h.fuse, h.rno, h.seq⟩

theorem onClk_keeps {s0 s : State} {g} (h : Keeps s0 s) : Keeps s0 (onClk s g) := ⟨h.pending, h.draws, h.mem, h.fuse, h.rno, h.seq⟩

theorem onSites_keeps {s0 s : State} {g} (h : Keeps s0 s) : Keeps s0 (onSites s g) := ⟨h.pending, h.draws, h.mem, h.fuse, h.rno, h.seq⟩

theorem onPins_keeps {s0 s : State} {g} (h : Keeps s0 s) : Keeps s0 (onPins s g) := ⟨h.pending, h.draws, h.mem, h.fuse, h.rno, h.seq⟩

theorem onCtx_keeps {s0 s : State} {g} (h : Keeps s0 s) : Keeps s0 (onCtx s g) := ⟨h.pending, h.draws, h.mem, h.fuse, h.rno, h.seq⟩

theorem onSched_keeps {s0 s : State} {g} (h : Keeps s0 s) : Keeps s0 (onSched s g) := ⟨h.pending, h.draws, h.mem, h.fuse, h.rno, h.seq⟩

theorem onStv_keeps {s0 s : State} {g} (h : Keeps s0 s) : Keeps s0 (onStv s g) := ⟨h.pending, h.draws, h.mem, h.fuse, h.rno, h.seq⟩

theorem onHome_keeps {s0 s : State} {g} (h : Keeps s0 s) : Keeps s0 (onHome s g) := ⟨h.pending, h.draws, h.mem, h.fuse, h.rno, h.seq⟩

theorem onTrn_keeps {s0 s : State} {g} (h : Keeps s0 s) : Keeps s0 (onTrn s g) := ⟨h.pending, h.draws, h.mem, h.fuse, h.rno, h.seq⟩

theorem onMem_keeps {s0 s : State} {g : Mem → Mem} (h : Keeps s0 s) (hg : ∀ m, Mem.wf m = true → Mem.wf (g m) = true) :
    Keeps s0 (onMem s g) := ⟨h.pending, h.draws, fun w => hg _ (h.mem w), h.fuse, h.rno, h.seq⟩

theorem onNet_keeps {s0 s : State} {g} (h : Keeps s0 s) : Keeps s0 (onNet s g) := ⟨h.pending, h.draws, h.mem, h.fuse, h.rno, h.seq⟩

theorem onExt_keeps {s0 s : State} {g} (h : Keeps s0 s) : Keeps s0 (onExt s g) := ⟨h.pending, h.draws, h.mem, h.fuse, h.rno, h.seq⟩

theorem onCell_keeps {s0 s : State} {g} (h : Keeps s0 s) : Keeps s0 (onCell s g) := ⟨h.pending, h.draws, h.mem, h.fuse, h.rno, h.seq⟩

theorem onT0_keeps {s0 s : State} {g} (h : Keeps s0 s) : Keeps s0 (onT0 s g) := ⟨h.pending, h.draws, h.mem, h.fuse, h.rno, h.seq⟩

theorem onPwr_keeps {s0 s : State} {g} (h : Keeps s0 s) : Keeps s0 (onPwr s g) := ⟨h.pending, h.draws, h.mem, h.fuse, h.rno, h.seq⟩

theorem onMtr_keeps {s0 s : State} {g} (h : Keeps s0 s) : Keeps s0 (onMtr s g) := ⟨h.pending, h.draws, h.mem, h.fuse, h.rno, h.seq⟩

theorem onAuth_keeps {s0 s : State} {g : Auth → Auth} (h : Keeps s0 s) (hg : SeqKept s.auth.lastSeq (g s.auth).lastSeq) :
    Keeps s0 (onAuth s g) := ⟨h.pending, h.draws, h.mem, h.fuse, h.rno, fun b => (h.seq b).trans hg⟩

theorem onChim_keeps {s0 s : State} {g} (h : Keeps s0 s) : Keeps s0 (onChim s g) := ⟨h.pending, h.draws, h.mem, h.fuse, h.rno, h.seq⟩

theorem draw_keeps {s0 s : State} (h : Keeps s0 s) : KeepsFst s0 (draw s) := ⟨h.pending, Nat.le_succ_of_le h.draws, h.mem, h.fuse, h.rno, h.seq⟩

theorem draw_keeps1 {s0 s : State} (h : Keeps s0 s) : Keeps s0 (draw s).1 := draw_keeps h

theorem onCfg_keeps {s0 s : State} {g} (h : Keeps s0 s) : Keeps s0 (onCfg s g) := ⟨h.pending, h.draws, h.mem, h.fuse, h.rno, h.seq⟩

theorem onFuse_keeps {s0 s : State} {g : Fuse → Fuse} (h : Keeps s0 s) (hg : ∀ f, FuseKept f (g f)) : Keeps s0 (onFuse s g) :=
  ⟨h.pending, h.draws, h.mem, fun i => ⟨fun w => (hg _ i).1 ((h.fuse i).1 w), fun w => (hg _ i).2 ((h.fuse i).2 w)⟩, h.rno, h.seq⟩

end Sys2Proof.Machine
end

