-- ==== Sys2Proof/Laws/KeepsAsh.lean ====
section
/-! SUPPORT. What every operation of Machine/Ash.lean leaves as the law Keeps says (Laws/Keeps.lean). -/

namespace Sys2Proof.Machine

theorem touchBoot_keeps {s0 : State} {x0 : State} (hx0 : Keeps s0 x0) :
    Keeps s0 (touchBoot x0) := by
  unfold touchBoot
  with_reducible repeat' first | assumption | apply onHlth_keeps

theorem writeHeader_keeps {s0 : State} {x0 : State} (hx0 : Keeps s0 x0) :
    Keeps s0 (writeHeader x0) := by
  unfold writeHeader
  with_reducible repeat' first | assumption | ((refine onAsh_keeps ?_ ?hg); case hg => with_unfolding_all exact Nat.le_refl _)

theorem nvmStore_keeps {s0 : State} {x0 : State} {x1} (hx0 : Keeps s0 x0) :
    Keeps s0 (nvmStore x0 x1) := by
  unfold nvmStore
  with_reducible repeat' first | assumption | ((refine onAsh_keeps ?_ ?hg); case hg => with_unfolding_all exact Nat.le_refl _) | extract_lets | (apply Keeps.ite' <;> intro _)

theorem flush_keeps {s0 : State} {x0 : State} (hx0 : Keeps s0 x0) :
    Keeps s0 (flush x0) := by
  unfold flush
  with_reducible repeat' first | assumption | apply nvmStore_keeps | ((refine onAsh_keeps ?_ ?hg); case hg => with_unfolding_all exact Nat.le_refl _) | apply writeHeader_keeps | apply forAll_keeps | extract_lets | (apply Keeps.ite' <;> intro _)

theorem ashAppend_keeps {s0 : State} {x0 : State} {x1} {x2} {x3} {x4} (hx0 : Keeps s0 x0) :
    Keeps s0 (ashAppend x0 x1 x2 x3 x4) := by
  unfold ashAppend
  extract_lets a r s1 s2
  have h1 : Keeps s0 s1 := onAsh_keeps hx0 (Nat.le_succ _)
  have h2 : Keeps s0 s2 := Keeps.ite' (fun _ => writeHeader_keeps h1) fun _ => h1
  exact Keeps.ite' (fun _ => flush_keeps (onPins_keeps h2)) fun _ => h2

theorem ashExempt_keeps {s0 : State} {x0 : State} {x1} {x2} {x3} {x4} (hx0 : Keeps s0 x0) :
    Keeps s0 (ashExempt x0 x1 x2 x3 x4) := by
  unfold ashExempt
  with_reducible repeat' first | assumption | apply ashAppend_keeps

theorem ashLimited_keeps {s0 : State} {x0 : State} {x1} {x2} {x3} {x4} (hx0 : Keeps s0 x0) :
    Keeps s0 (ashLimited x0 x1 x2 x3 x4) := by
  unfold ashLimited
  with_reducible repeat' first | assumption | apply ashAppend_keeps | apply ashExempt_keeps | ((refine onAsh_keeps ?_ ?hg); case hg => with_unfolding_all exact Nat.le_refl _) | extract_lets | (apply Keeps.ite' <;> intro _)

theorem addRowErr_keeps {s0 : State} {x0 : State} {x1} {x2} (hx0 : Keeps s0 x0) :
    Keeps s0 (addRowErr x0 x1 x2) := by
  unfold addRowErr
  with_reducible repeat' first | assumption | apply onHlth_keeps | extract_lets | (apply Keeps.ite' <;> intro _)

theorem countWait404_keeps {s0 : State} {x0 : State} {x1} (hx0 : Keeps s0 x0) :
    Keeps s0 (countWait404 x0 x1) := by
  unfold countWait404
  with_reducible repeat' first | assumption | ((refine onAsh_keeps ?_ ?hg); case hg => with_unfolding_all exact Nat.le_refl _)

theorem modBankErr_keeps {s0 : State} {x0 : State} {x1} {x2} (hx0 : Keeps s0 x0) :
    Keeps s0 (modBankErr x0 x1 x2) := by
  unfold modBankErr
  with_reducible repeat' first | assumption | apply onHlth_keeps

theorem countWait203_keeps {s0 : State} {x0 : State} (hx0 : Keeps s0 x0) :
    Keeps s0 (countWait203 x0) := by
  unfold countWait203
  with_reducible repeat' first | assumption | ((refine onAsh_keeps ?_ ?hg); case hg => with_unfolding_all exact Nat.le_refl _)

end Sys2Proof.Machine
end

