-- ==== Sys2Proof/Laws/KeepsChan.lean ====
section
/-! SUPPORT. What every operation of Machine/Chan.lean leaves as the law Keeps says (Laws/Keeps.lean). -/

namespace Sys2Proof.Machine

theorem onBank_keeps {s0 : State} {x0 : State} {x1} {x2} {x3} (hx0 : Keeps s0 x0) :
    Keeps s0 (onBank x0 x1 x2 x3) := by
  unfold onBank
  with_reducible repeat' first | assumption | apply onSites_keeps

theorem easeBank_keeps {s0 : State} {x0 : State} {x1} {x2} (hx0 : Keeps s0 x0) :
    Keeps s0 (easeBank x0 x1 x2) := by
  unfold easeBank
  with_reducible repeat' first | assumption | apply onBank_keeps

theorem manageBank_keeps {s0 : State} {x0 : State} {x1} {x2} (hx0 : Keeps s0 x0) :
    Keeps s0 (manageBank x0 x1 x2) := by
  unfold manageBank
  with_reducible repeat' first | assumption | apply easeBank_keeps | apply onBank_keeps

theorem onChan_keeps {s0 : State} {x0 : State} {x1} {x2} (hx0 : Keeps s0 x0) :
    Keeps s0 (onChan x0 x1 x2) := by
  unfold onChan
  with_reducible repeat' first | assumption | apply onSites_keeps

theorem activate_keeps {s0 : State} {x0 : State} {x1} {x2} (hx0 : Keeps s0 x0) :
    Keeps s0 (activate x0 x1 x2) := by
  unfold activate
  with_reducible repeat' first | assumption | apply ashLimited_keeps | apply manageBank_keeps | apply modBankErr_keeps | apply onBank_keeps | apply onChan_keeps | extract_lets | (apply Keeps.ite' <;> intro _)

theorem issueOne_keeps {s0 : State} {x0 : State} {x1} (hx0 : Keeps s0 x0) :
    Keeps s0 (issueOne x0 x1) := by
  unfold issueOne
  with_reducible repeat' first | assumption | apply activate_keeps | apply manageBank_keeps | apply onChan_keeps | apply forAll_keeps | extract_lets | (apply Keeps.ite' <;> intro _) | split | intro _

theorem queueDram_keeps {s0 : State} {x0 : State} {x1} {x2} (hx0 : Keeps s0 x0) :
    Keeps s0 (queueDram x0 x1 x2) := by
  unfold queueDram
  with_reducible repeat' first | assumption | apply issueOne_keeps | apply onChan_keeps | extract_lets | (apply Keeps.ite' <;> intro _)

end Sys2Proof.Machine
end

