-- ==== Sys2Proof/Laws/KeepsFilter.lean ====
section
/-! SUPPORT. What every operation of Machine/Filter.lean leaves as the law Keeps says (Laws/Keeps.lean). -/

namespace Sys2Proof.Machine

theorem onSlice_keeps {s0 : State} {x0 : State} {x1} {x2} (hx0 : Keeps s0 x0) :
    Keeps s0 (onSlice x0 x1 x2) := by
  unfold onSlice
  with_reducible repeat' first | assumption | apply onHome_keeps

theorem setHome_keeps {s0 : State} {x0 : State} {x1} {x2} (hx0 : Keeps s0 x0) :
    Keeps s0 (setHome x0 x1 x2) := by
  unfold setHome
  with_reducible repeat' first | assumption | apply onSlice_keeps | extract_lets | (apply Keeps.ite' <;> intro _) | split

theorem removeHolder_keeps {s0 : State} {x0 : State} {x1} {x2} (hx0 : Keeps s0 x0) :
    Keeps s0 (removeHolder x0 x1 x2) := by
  unfold removeHolder
  with_reducible repeat' first | assumption | apply setHome_keeps | (apply Keeps.ite' <;> intro _) | split

theorem countCoh_keeps {s0 : State} {x0 : State} {x1} {x2} {x3} (hx0 : Keeps s0 x0) :
    Keeps s0 (countCoh x0 x1 x2 x3) := by
  unfold countCoh
  with_reducible repeat' first | assumption | apply onSlice_keeps

theorem onTx_keeps {s0 : State} {x0 : State} {x1} {x2} (hx0 : Keeps s0 x0) :
    Keeps s0 (onTx x0 x1 x2) := by
  unfold onTx
  with_reducible repeat' first | assumption | apply onSlice_keeps

end Sys2Proof.Machine
end

