-- ==== Sys2Proof/Laws/KeepsFlue.lean ====
section
/-! SUPPORT. What every operation of Machine/Flue.lean leaves as the law Keeps says (Laws/Keeps.lean). -/

namespace Sys2Proof.Machine

theorem onLink_keeps {s0 : State} {x0 : State} {x1} {x2} (hx0 : Keeps s0 x0) :
    Keeps s0 (onLink x0 x1 x2) := by
  unfold onLink
  with_reducible repeat' first | assumption | apply onLinks_keeps

theorem countLink_keeps {s0 : State} {x0 : State} {x1} {x2} (hx0 : Keeps s0 x0) :
    Keeps s0 (countLink x0 x1 x2) := by
  unfold countLink
  with_reducible repeat' first | assumption | apply onLink_keeps

theorem beginTx_keeps {s0 : State} {x0 : State} {x1} {x2} (hx0 : Keeps s0 x0) :
    Keeps s0 (beginTx x0 x1 x2) := by
  unfold beginTx
  with_reducible repeat' first | assumption | apply onLink_keeps | split

theorem startNext_keeps {s0 : State} {x0 : State} {x1} (hx0 : Keeps s0 x0) :
    Keeps s0 (startNext x0 x1) := by
  unfold startNext
  with_reducible repeat' first | assumption | apply beginTx_keeps | apply onLink_keeps | extract_lets | (apply Keeps.ite' <;> intro _) | split

theorem enqueue_keeps {s0 : State} {x0 : State} {x1} {x2} (hx0 : Keeps s0 x0) :
    Keeps s0 (enqueue x0 x1 x2) := by
  unfold enqueue
  with_reducible repeat' first | assumption | apply onLink_keeps | apply startNext_keeps

theorem sendOn_keeps {s0 : State} {x0 : State} {x1} {x2} (hx0 : Keeps s0 x0) :
    Keeps s0 (sendOn x0 x1 x2) := by
  unfold sendOn
  with_reducible repeat' first | assumption | apply countLink_keeps | apply enqueue_keeps | extract_lets | (apply Keeps.ite' <;> intro _)

theorem wakeLink_keeps {s0 : State} {x0 : State} {x1} (hx0 : Keeps s0 x0) :
    Keeps s0 (wakeLink x0 x1) := by
  unfold wakeLink
  with_reducible repeat' first | assumption | apply onLink_keeps | apply onLinks_keeps | extract_lets | (apply Keeps.ite' <;> intro _)

theorem noPath_keeps {s0 : State} {x0 : State} {x1} {x2} (hx0 : Keeps s0 x0) :
    Keeps s0 (noPath x0 x1 x2) := by
  unfold noPath
  with_reducible repeat' first | assumption | apply countLink_keeps | apply wakeLink_keeps | apply forAll_keeps | extract_lets | split

theorem route_keeps {s0 : State} {x0 : State} {x1} {x2} (hx0 : Keeps s0 x0) :
    KeepsFst s0 (route x0 x1 x2) := by
  unfold route
  with_reducible repeat' first | assumption | apply countLink_keeps | apply enqueue_keeps | apply noPath_keeps | extract_lets | (apply KeepsFst.ite <;> intro _) | split | simp only [KeepsFst.pair_iff]

theorem route_keeps1 {s0 : State} {x0 : State} {x1} {x2} (hx0 : Keeps s0 x0) :
    Keeps s0 (route x0 x1 x2).1 := route_keeps hx0

theorem sendRouted_keeps {s0 : State} {x0 : State} {x1} (hx0 : Keeps s0 x0) :
    Keeps s0 (sendRouted x0 x1) := by
  unfold sendRouted
  with_reducible repeat' first | assumption | apply route_keeps1

theorem sendResponse_keeps {s0 : State} {x0 : State} {x1} {x2} (hx0 : Keeps s0 x0) :
    Keeps s0 (sendResponse x0 x1 x2) := by
  unfold sendResponse
  with_reducible repeat' first | assumption | apply sendOn_keeps | apply sendRouted_keeps | apply forAll_keeps | extract_lets | (apply Keeps.ite' <;> intro _) | intro _

theorem countDiscard_keeps {s0 : State} {x0 : State} {x1} (hx0 : Keeps s0 x0) :
    Keeps s0 (countDiscard x0 x1) := by
  unfold countDiscard
  with_reducible repeat' first | assumption | apply onNet_keeps

end Sys2Proof.Machine
end

