-- ==== Sys2Proof/Laws/KeepsItems.lean ====
section
/-! SUPPORT. What every operation of Machine/Items.lean leaves as the law Keeps says (Laws/Keeps.lean). -/

namespace Sys2Proof.Machine

theorem onCtxN_keeps {s0 : State} {x0 : State} {x1} {x2} (hx0 : Keeps s0 x0) :
    Keeps s0 (onCtxN x0 x1 x2) := by
  unfold onCtxN
  with_reducible repeat' first | assumption | apply onCtx_keeps

theorem onWin_keeps {s0 : State} {x0 : State} {x1} {x2} (hx0 : Keeps s0 x0) :
    Keeps s0 (onWin x0 x1 x2) := by
  unfold onWin
  with_reducible repeat' first | assumption | apply onCtxN_keeps

theorem onSchedN_keeps {s0 : State} {x0 : State} {x1} {x2} (hx0 : Keeps s0 x0) :
    Keeps s0 (onSchedN x0 x1 x2) := by
  unfold onSchedN
  with_reducible repeat' first | assumption | apply onSched_keeps

theorem onItem_keeps {s0 : State} {x0 : State} {x1} {x2} (hx0 : Keeps s0 x0) :
    Keeps s0 (onItem x0 x1 x2) := by
  unfold onItem
  with_reducible repeat' first | assumption | apply onStv_keeps

theorem signalCancel_keeps {s0 : State} {x0 : State} {x1} {x2} {x3} {x4} (hx0 : Keeps s0 x0) :
    Keeps s0 (signalCancel x0 x1 x2 x3 x4) := by
  unfold signalCancel
  with_reducible repeat' first | assumption | apply onItem_keeps | apply onSchedN_keeps | apply onWin_keeps | extract_lets | (apply Keeps.ite' <;> intro _) | split

theorem onThread_keeps {s0 : State} {x0 : State} {x1} {x2} (hx0 : Keeps s0 x0) :
    Keeps s0 (onThread x0 x1 x2) := by
  unfold onThread
  with_reducible repeat' first | assumption | apply onItem_keeps

theorem detectPost_keeps {s0 : State} {x0 : State} {x1} {x2} {x3} (hx0 : Keeps s0 x0) :
    Keeps s0 (detectPost x0 x1 x2 x3) := by
  unfold detectPost
  with_reducible repeat' first | assumption | apply onPwr_keeps | apply onSchedN_keeps | extract_lets | (apply Keeps.ite' <;> intro _)

theorem examineFlag_keeps {s0 : State} {x0 : State} {x1} {x2} {x3} (hx0 : Keeps s0 x0) :
    Keeps s0 (examineFlag x0 x1 x2 x3) := by
  unfold examineFlag
  with_reducible repeat' first | assumption | apply ashLimited_keeps | apply detectPost_keeps | apply onWin_keeps | apply signalCancel_keeps | extract_lets | (apply Keeps.ite' <;> intro _) | split

theorem endFlagWait_keeps {s0 : State} {x0 : State} {x1} {x2} {x3} (hx0 : Keeps s0 x0) :
    Keeps s0 (endFlagWait x0 x1 x2 x3) := by
  unfold endFlagWait
  with_reducible repeat' first | assumption | apply onHome_keeps | apply onThread_keeps

theorem wakeWatchers_keeps {s0 : State} {x0 : State} {x1} (hx0 : Keeps s0 x0) :
    Keeps s0 (wakeWatchers x0 x1) := by
  unfold wakeWatchers
  with_reducible repeat' first | assumption | apply endFlagWait_keeps | apply forAll_keeps | extract_lets | split | intro _

end Sys2Proof.Machine
end

