-- ==== Sys2Proof/Laws/KeepsSeq.lean ====
section
/-! SUPPORT. What every operation of Machine/Seq.lean leaves as the law Keeps says (Laws/Keeps.lean). -/

namespace Sys2Proof.Machine

theorem transmit_keeps {s0 : State} {x0 : State} {x1} (hx0 : Keeps s0 x0) :
    Keeps s0 (transmit x0 x1) := by
  unfold transmit
  with_reducible repeat' first | assumption | apply route_keeps1 | apply forAll_keeps | extract_lets | intro _

theorem onLeg_keeps {s0 : State} {x0 : State} {x1} {x2} {x3} (hx0 : Keeps s0 x0) :
    Keeps s0 (onLeg x0 x1 x2 x3) := by
  unfold onLeg
  with_reducible repeat' first | assumption | apply onNet_keeps

theorem setSpace_keeps {s0 : State} {x0 : State} {x1} (hx0 : Keeps s0 x0) :
    Keeps s0 (setSpace x0 x1) := by
  unfold setSpace
  with_reducible repeat' first | assumption | apply onNet_keeps

theorem sendFabric_keeps {s0 : State} {x0 : State} {x1} {x2} (hx0 : Keeps s0 x0) :
    Keeps s0 (sendFabric x0 x1 x2) := by
  unfold sendFabric
  with_reducible repeat' first | assumption | apply onLeg_keeps | apply onNet_keeps | apply setSpace_keeps | apply transmit_keeps | extract_lets | (apply Keeps.ite' <;> intro _) | split | dsimp +zetaDelta only

theorem onFwin_keeps {s0 : State} {x0 : State} {x1} {x2} (hx0 : Keeps s0 x0) :
    Keeps s0 (onFwin x0 x1 x2) := by
  unfold onFwin
  with_reducible repeat' first | assumption | apply onNet_keeps

theorem endLeg_keeps {s0 : State} {x0 : State} {x1} {x2} (hx0 : Keeps s0 x0) :
    Keeps s0 (endLeg x0 x1 x2) := by
  unfold endLeg
  with_reducible repeat' first | assumption | apply onLeg_keeps | apply onNet_keeps | (apply Keeps.ite' <;> intro _)

theorem onPwin_keeps {s0 : State} {x0 : State} {x1} {x2} (hx0 : Keeps s0 x0) :
    Keeps s0 (onPwin x0 x1 x2) := by
  unfold onPwin
  with_reducible repeat' first | assumption | apply onNet_keeps

theorem legDest_keeps {s0 : State} {x0 : State} {x1} {x2} (hx0 : Keeps s0 x0) :
    Keeps s0 (legDest x0 x1 x2) := by
  unfold legDest
  with_reducible repeat' first | assumption | apply onLeg_keeps

theorem dropIdle_keeps {s0 : State} {x0 : State} (hx0 : Keeps s0 x0) :
    Keeps s0 (dropIdle x0) := by
  unfold dropIdle
  with_reducible repeat' first | assumption | apply onNet_keeps | split

theorem makeResultRoom_keeps {s0 : State} {x0 : State} {x1} (hx0 : Keeps s0 x0) :
    KeepsFst s0 (makeResultRoom x0 x1) := by
  unfold makeResultRoom
  with_reducible repeat' first | assumption | apply dropIdle_keeps | extract_lets | (apply KeepsFst.ite <;> intro _) | simp only [KeepsFst.pair_iff]

theorem makeResultRoom_keeps1 {s0 : State} {x0 : State} {x1} (hx0 : Keeps s0 x0) :
    Keeps s0 (makeResultRoom x0 x1).1 := makeResultRoom_keeps hx0

theorem makeWindowRoom_keeps {s0 : State} {x0 : State} (hx0 : Keeps s0 x0) :
    KeepsFst s0 (makeWindowRoom x0) := by
  unfold makeWindowRoom
  with_reducible repeat' first | assumption | apply dropIdle_keeps | extract_lets | (apply KeepsFst.ite <;> intro _) | simp only [KeepsFst.pair_iff]

theorem makeWindowRoom_keeps1 {s0 : State} {x0 : State} (hx0 : Keeps s0 x0) :
    Keeps s0 (makeWindowRoom x0).1 := makeWindowRoom_keeps hx0

theorem releaseHeld_keeps {s0 : State} {x0 : State} (hx0 : Keeps s0 x0) :
    Keeps s0 (releaseHeld x0) := by
  unfold releaseHeld
  with_reducible repeat' first | assumption | apply onNet_keeps | apply sendFabric_keeps | apply forAll_keeps | extract_lets | intro _

theorem addLeg_keeps {s0 : State} {x0 : State} {x1} (hx0 : Keeps s0 x0) :
    Keeps s0 (addLeg x0 x1) := by
  unfold addLeg
  with_reducible repeat' first | assumption | apply onNet_keeps

end Sys2Proof.Machine
end

