-- ==== Sys2Proof/Laws/KeepsJournal.lean ====
section
/-! SUPPORT. What every operation of Machine/Journal.lean leaves as the law Keeps says (Laws/Keeps.lean). -/

namespace Sys2Proof.Machine

theorem updFrame_keeps {s0 : State} {x0 : State} {x1} {x2} (hx0 : Keeps s0 x0) :
    KeepsSnd s0 (updFrame x0 x1 x2) := by
  unfold updFrame
  with_reducible repeat' first | assumption | apply onCell_keeps | extract_lets | simp only [KeepsSnd.pair_iff]

theorem updFrame_keeps1 {s0 : State} {x0 : State} {x1} {x2} (hx0 : Keeps s0 x0) :
    Keeps s0 (updFrame x0 x1 x2).2 := updFrame_keeps hx0

theorem syncJournal_keeps {s0 : State} {x0 : State} (hx0 : Keeps s0 x0) :
    Keeps s0 (syncJournal x0) := by
  unfold syncJournal
  with_reducible repeat' first | assumption | apply onCell_keeps | apply sendFabric_keeps | apply updFrame_keeps | apply forAll_keeps | (apply Keeps.ofSnd; assumption) | extract_lets | (apply Keeps.ite' <;> intro _) | split | intro _

theorem endAdmitted_keeps {s0 : State} {x0 : State} {x1} (hx0 : Keeps s0 x0) :
    Keeps s0 (endAdmitted x0 x1) := by
  unfold endAdmitted
  with_reducible repeat' first | assumption | apply onExt_keeps | (apply Keeps.ite' <;> intro _)

theorem answerNow_keeps {s0 : State} {x0 : State} {x1} {x2} (hx0 : Keeps s0 x0) :
    Keeps s0 (answerNow x0 x1 x2) := by
  unfold answerNow
  with_reducible repeat' first | assumption | apply endAdmitted_keeps | apply endLeg_keeps | apply onFwin_keeps | apply onPwin_keeps | apply sendResponse_keeps | extract_lets | (apply Keeps.ite' <;> intro _)

theorem answer_keeps {s0 : State} {x0 : State} {x1} {x2} (hx0 : Keeps s0 x0) :
    Keeps s0 (answer x0 x1 x2) := by
  unfold answer
  with_reducible repeat' first | assumption | apply answerNow_keeps | apply onCell_keeps | apply syncJournal_keeps | extract_lets | (apply Keeps.ite' <;> intro _)

theorem refuse_keeps {s0 : State} {x0 : State} {x1} {x2} (hx0 : Keeps s0 x0) :
    Keeps s0 (refuse x0 x1 x2) := by
  unfold refuse
  with_reducible repeat' first | assumption | apply answer_keeps

theorem turnAway_keeps {s0 : State} {x0 : State} {x1} {x2} (hx0 : Keeps s0 x0) :
    Keeps s0 (turnAway x0 x1 x2) := by
  unfold turnAway
  with_reducible repeat' first | assumption | apply sendResponse_keeps

end Sys2Proof.Machine
end

