-- ==== Sys2Proof/Laws/KeepsMem.lean ====
section
/-! SUPPORT. What every operation of Machine/Mem.lean leaves as the law Keeps says (Laws/Keeps.lean). -/

namespace Sys2Proof.Machine

theorem writeBytes_keeps {s0 s : State} {a} {bs} (h : Keeps s0 s) : Keeps s0 (writeBytes s a bs) :=
  onMem_keeps h fun m w => by
    obtain ⟨⟨⟨⟨⟨hc, ht⟩, hp⟩, hf⟩, hu⟩, hl⟩ := Mem.wf_iff.1 w
    exact Mem.wf_iff.2 ⟨⟨⟨⟨⟨tok_putBytes hc, ht⟩, hp⟩, hf⟩, hu⟩, hl⟩

theorem clearPoison_keeps {s0 s : State} {l} (h : Keeps s0 s) : Keeps s0 (clearPoison s l) :=
  onMem_keeps h fun m w => by
    obtain ⟨⟨⟨⟨⟨hc, ht⟩, hp⟩, hf⟩, hu⟩, hl⟩ := Mem.wf_iff.1 w
    refine Mem.wf_iff.2 ⟨⟨⟨⟨⟨hc, ht⟩, rising_filter hp⟩, ?_⟩, hu⟩, hl⟩
    split
    · exact rising_insertNat hf
    · exact hf

theorem correctedError_keeps {s0 : State} {x0 : State} {x1} {x2} {x3} {x4} (hx0 : Keeps s0 x0) :
    Keeps s0 (correctedError x0 x1 x2 x3 x4) := by
  unfold correctedError
  with_reducible repeat' first | assumption | apply addRowErr_keeps | apply ashLimited_keeps | apply modBankErr_keeps | apply onHlth_keeps | extract_lets | (apply Keeps.ite' <;> intro _)

theorem setPoison_keeps {s0 : State} {x0 : State} {x1} (hx0 : Keeps s0 x0) :
    Keeps s0 (setPoison x0 x1) := by
  unfold setPoison
  with_reducible repeat' first | assumption | ((refine onMem_keeps ?_ ?hg); case hg => with_unfolding_all exact fun m h => Mem.wf_iff.2 (by obtain ⟨⟨⟨⟨⟨_, _⟩, _⟩, _⟩, _⟩, _⟩ := Mem.wf_iff.1 h; refine ⟨⟨⟨⟨⟨?_, ?_⟩, ?_⟩, ?_⟩, ?_⟩, ?_⟩ <;> first | assumption | exact rfl | exact rising_insertNat ‹_› | exact rising_filter ‹_›))

theorem poisonLine_keeps {s0 : State} {x0 : State} {x1} (hx0 : Keeps s0 x0) :
    Keeps s0 (poisonLine x0 x1) := by
  unfold poisonLine
  with_reducible repeat' first | assumption | apply addRowErr_keeps | apply ashLimited_keeps | apply modBankErr_keeps | apply setPoison_keeps

theorem decodeRead_keeps {s0 : State} {x0 : State} {x1} {x2} (hx0 : Keeps s0 x0) :
    Keeps s0 (decodeRead x0 x1 x2) := by
  unfold decodeRead
  with_reducible repeat' first | assumption | apply correctedError_keeps | apply poisonLine_keeps | (apply Keeps.ite' <;> intro _) | split

theorem setTag_keeps {s0 s : State} {a f} (h : Keeps s0 s) : Keeps s0 (setTag s a f) :=
  onMem_keeps h fun m w => by
    obtain ⟨⟨⟨⟨⟨hc, ht⟩, hp⟩, hf⟩, hu⟩, hl⟩ := Mem.wf_iff.1 w
    exact Mem.wf_iff.2 ⟨⟨⟨⟨⟨hc, tok_tput ht⟩, hp⟩, hf⟩, hu⟩, hl⟩

theorem storeLine_keeps {s0 : State} {x0 : State} {x1} {x2} (hx0 : Keeps s0 x0) :
    Keeps s0 (storeLine x0 x1 x2) := by
  unfold storeLine
  with_reducible repeat' first | assumption | apply clearPoison_keeps | ((refine onMem_keeps ?_ ?hg); case hg => with_unfolding_all exact fun m h => Mem.wf_iff.2 (by obtain ⟨⟨⟨⟨⟨_, _⟩, _⟩, _⟩, _⟩, _⟩ := Mem.wf_iff.1 h; refine ⟨⟨⟨⟨⟨?_, ?_⟩, ?_⟩, ?_⟩, ?_⟩, ?_⟩ <;> first | assumption | exact rfl | exact rising_insertNat ‹_› | exact rising_filter ‹_›)) | apply writeBytes_keeps | extract_lets | (apply Keeps.ite' <;> intro _)

theorem zeroRange_keeps {s0 s : State} {a n} (h : Keeps s0 s) : Keeps s0 (zeroRange s a n) :=
  onMem_keeps h fun m w => by
    obtain ⟨⟨⟨⟨⟨hc, ht⟩, hp⟩, hf⟩, hu⟩, hl⟩ := Mem.wf_iff.1 w
    refine Mem.wf_iff.2 ⟨⟨⟨⟨⟨tok_tdropRange hc, ?_⟩, rising_filter hp⟩, ?_⟩, hu⟩, hl⟩
    · show tok (Tag.fmt 0) (if _ then _ else _) = true
      split
      · exact tok_tdropRange ht
      · exact ht
    · show rising (if _ then _ else _) = true
      split
      · exact rising_forAll (rising_filter hf) fun t x h => by
          split
          · exact rising_insertNat h
          · exact h
      · exact hf

end Sys2Proof.Machine
end

