-- ==== Sys2Proof/Laws/KeepsMeter.lean ====
section
/-! SUPPORT. What every operation of Machine/Meter.lean leaves as the law Keeps says (Laws/Keeps.lean). -/

namespace Sys2Proof.Machine

theorem meter_keeps {s0 : State} {x0 : State} {x1} {x2} {x3} (hx0 : Keeps s0 x0) :
    Keeps s0 (meter x0 x1 x2 x3) := by
  unfold meter
  with_reducible repeat' first | assumption | apply onMtr_keeps | split

theorem meterOps_keeps {s0 : State} {x0 : State} {x1} {x2} {x3} (hx0 : Keeps s0 x0) :
    Keeps s0 (meterOps x0 x1 x2 x3) := by
  unfold meterOps
  with_reducible repeat' first | assumption | apply onMtr_keeps | split

theorem meterUn_keeps {s0 : State} {x0 : State} {x1} {x2} (hx0 : Keeps s0 x0) :
    Keeps s0 (meterUn x0 x1 x2) := by
  unfold meterUn
  with_reducible repeat' first | assumption | apply onMtr_keeps

end Sys2Proof.Machine
end

