-- ==== Sys2Proof/Laws/KeepsSnap.lean ====
section
/-! SUPPORT. What every operation of Machine/Snap.lean leaves as the law Keeps says (Laws/Keeps.lean). -/

namespace Sys2Proof.Machine

theorem onRegion_keeps {s0 : State} {x0 : State} {x1} {x2} (hx0 : Keeps s0 x0) :
    Keeps s0 (onRegion x0 x1 x2) := by
  unfold onRegion
  with_reducible repeat' first | assumption | apply onExt_keeps

theorem startCopy_keeps {s0 : State} {x0 : State} {x1} {x2} (hx0 : Keeps s0 x0) :
    Keeps s0 (startCopy x0 x1 x2) := by
  unfold startCopy
  with_reducible repeat' first | assumption | apply answer_keeps | apply countWait404_keeps | apply onExt_keeps | apply onRegion_keeps | extract_lets | split

theorem freeVersions_keeps {s0 : State} {x0 : State} {x1} (hx0 : Keeps s0 x0) :
    Keeps s0 (freeVersions x0 x1) := by
  unfold freeVersions
  with_reducible repeat' first | assumption | apply onExt_keeps | apply onRegion_keeps | extract_lets | (apply Keeps.ite' <;> intro _) | split

end Sys2Proof.Machine
end

