-- ==== Sys2Proof/Laws/KeepsTier0.lean ====
section
/-! SUPPORT. What every operation of Machine/Tier0.lean leaves as the law Keeps says (Laws/Keeps.lean). -/

namespace Sys2Proof.Machine

theorem onT0Slice_keeps {s0 : State} {x0 : State} {x1} {x2} (hx0 : Keeps s0 x0) :
    Keeps s0 (onT0Slice x0 x1 x2) := by
  unfold onT0Slice
  with_reducible repeat' first | assumption | apply onT0_keeps

theorem onT0Tile_keeps {s0 : State} {x0 : State} {x1} {x2} (hx0 : Keeps s0 x0) :
    Keeps s0 (onT0Tile x0 x1 x2) := by
  unfold onT0Tile
  with_reducible repeat' first | assumption | apply onT0Slice_keeps

theorem touchT0_keeps {s0 : State} {x0 : State} {x1} (hx0 : Keeps s0 x0) :
    Keeps s0 (touchT0 x0 x1) := by
  unfold touchT0
  with_reducible repeat' first | assumption | apply onT0Tile_keeps | (apply Keeps.ite' <;> intro _)

theorem meterLine_keeps {s0 : State} {x0 : State} {x1} {x2} {x3} (hx0 : Keeps s0 x0) :
    Keeps s0 (meterLine x0 x1 x2 x3) := by
  unfold meterLine
  with_reducible repeat' first | assumption | apply meter_keeps | apply queueDram_keeps | apply touchT0_keeps | extract_lets | (apply Keeps.ite' <;> intro _)

theorem evictOne_keeps {s0 : State} {x0 : State} {x1} {x2} (hx0 : Keeps s0 x0) :
    KeepsFst s0 (evictOne x0 x1 x2) := by
  unfold evictOne
  with_reducible repeat' first | assumption | apply onT0Slice_keeps | apply setPoison_keeps | apply forAll_keeps | extract_lets | (apply Keeps.ite' <;> intro _) | split | simp only [KeepsFst.pair_iff]

theorem evictOne_keeps1 {s0 : State} {x0 : State} {x1} {x2} (hx0 : Keeps s0 x0) :
    Keeps s0 (evictOne x0 x1 x2).1 := evictOne_keeps hx0

theorem makeT0Room_keeps {s0 : State} {x0 : State} {x1} {x2} (hx0 : Keeps s0 x0) :
    KeepsFst s0 (makeT0Room x0 x1 x2) := by
  unfold makeT0Room
  with_reducible repeat' first | assumption | apply evictOne_keeps | extract_lets | (apply KeepsFst.ite <;> intro _) | simp only [KeepsFst.pair_iff]

theorem makeT0Room_keeps1 {s0 : State} {x0 : State} {x1} {x2} (hx0 : Keeps s0 x0) :
    Keeps s0 (makeT0Room x0 x1 x2).1 := makeT0Room_keeps hx0

theorem promote_keeps {s0 : State} {x0 : State} {x1} {x2} (hx0 : Keeps s0 x0) :
    Keeps s0 (promote x0 x1 x2) := by
  unfold promote
  with_reducible repeat' first | assumption | apply makeT0Room_keeps | apply onT0Slice_keeps | (apply Keeps.ofFst; assumption) | extract_lets | (apply Keeps.ite' <;> intro _) | split

theorem countHot_keeps {s0 : State} {x0 : State} {x1} {x2} {x3} (hx0 : Keeps s0 x0) :
    Keeps s0 (countHot x0 x1 x2 x3) := by
  unfold countHot
  with_reducible repeat' first | assumption | apply onT0Slice_keeps | apply promote_keeps | extract_lets | (apply Keeps.ite' <;> intro _)

theorem meterStore_keeps {s0 : State} {x0 : State} {x1} {x2} {x3} (hx0 : Keeps s0 x0) :
    Keeps s0 (meterStore x0 x1 x2 x3) := by
  unfold meterStore
  with_reducible repeat' first | assumption | apply meterLine_keeps | apply meter_keeps | apply touchT0_keeps | (apply Keeps.ite' <;> intro _)

theorem makeBorrowRoom_keeps {s0 : State} {x0 : State} {x1} {x2} (hx0 : Keeps s0 x0) :
    KeepsFst s0 (makeBorrowRoom x0 x1 x2) := by
  unfold makeBorrowRoom
  with_reducible repeat' first | assumption | apply makeT0Room_keeps | apply onT0Slice_keeps | extract_lets | (apply KeepsFst.ite <;> intro _) | split | simp only [KeepsFst.pair_iff]

theorem makeBorrowRoom_keeps1 {s0 : State} {x0 : State} {x1} {x2} (hx0 : Keeps s0 x0) :
    Keeps s0 (makeBorrowRoom x0 x1 x2).1 := makeBorrowRoom_keeps hx0

end Sys2Proof.Machine
end

