-- ==== Sys2Proof/Laws/KeepsTrn.lean ====
section
/-! SUPPORT. What every operation of Machine/Trn.lean leaves as the law Keeps says (Laws/Keeps.lean). -/

namespace Sys2Proof.Machine

theorem countTrn_keeps {s0 : State} {x0 : State} {x1} {x2} (hx0 : Keeps s0 x0) :
    Keeps s0 (countTrn x0 x1 x2) := by
  unfold countTrn
  with_reducible repeat' first | assumption | apply onTrn_keeps

theorem touchLeaf_keeps {s0 : State} {x0 : State} {x1} (hx0 : Keeps s0 x0) :
    Keeps s0 (touchLeaf x0 x1) := by
  unfold touchLeaf
  with_reducible repeat' first | assumption | apply onTrn_keeps

theorem fillNonLeaf_keeps {s0 : State} {x0 : State} {x1} (hx0 : Keeps s0 x0) :
    Keeps s0 (fillNonLeaf x0 x1) := by
  unfold fillNonLeaf
  with_reducible repeat' first | assumption | apply onTrn_keeps

theorem fillLeaf_keeps {s0 : State} {x0 : State} {x1} (hx0 : Keeps s0 x0) :
    Keeps s0 (fillLeaf x0 x1) := by
  unfold fillLeaf
  with_reducible repeat' first | assumption | apply onTrn_keeps

theorem xlate_keeps {s0 : State} {x0 : State} {x1} {x2} {x3} (hx0 : Keeps s0 x0) :
    KeepsSnd s0 (xlate x0 x1 x2 x3) := by
  unfold xlate
  with_reducible repeat' first | assumption | apply countTrn_keeps | apply fillLeaf_keeps | apply fillNonLeaf_keeps | apply touchLeaf_keeps | apply forAll_keeps | extract_lets | (apply KeepsSnd.ite <;> intro _) | split | simp only [KeepsSnd.pair_iff]

theorem xlate_keeps1 {s0 : State} {x0 : State} {x1} {x2} {x3} (hx0 : Keeps s0 x0) :
    Keeps s0 (xlate x0 x1 x2 x3).2 := xlate_keeps hx0

theorem invalRange_keeps {s0 : State} {x0 : State} {x1} {x2} {x3} (hx0 : Keeps s0 x0) :
    Keeps s0 (invalRange x0 x1 x2 x3) := by
  unfold invalRange
  with_reducible repeat' first | assumption | apply onTrn_keeps

end Sys2Proof.Machine
end

