-- ==== Sys2Proof/Laws/KeepsHome.lean ====
section
/-! SUPPORT. What every operation of Machine/Home.lean leaves as the law Keeps says (Laws/Keeps.lean). -/

namespace Sys2Proof.Machine

theorem dropOwn_keeps {s0 : State} {x0 : State} {x1} {x2} (hx0 : Keeps s0 x0) :
    Keeps s0 (dropOwn x0 x1 x2) := by
  unfold dropOwn
  with_reducible repeat' first | assumption | apply removeHolder_keeps | apply setHome_keeps | apply forAll_keeps | extract_lets | split | intro _

theorem forgetLost_keeps {s0 : State} {x0 : State} {x1} (hx0 : Keeps s0 x0) :
    Keeps s0 (forgetLost x0 x1) := by
  unfold forgetLost
  with_reducible repeat' first | assumption | ((refine onMem_keeps ?_ ?hg); case hg => with_unfolding_all exact fun m h => Mem.wf_iff.2 (by obtain ⟨⟨⟨⟨⟨_, _⟩, _⟩, _⟩, _⟩, _⟩ := Mem.wf_iff.1 h; refine ⟨⟨⟨⟨⟨?_, ?_⟩, ?_⟩, ?_⟩, ?_⟩, ?_⟩ <;> first | assumption | exact rfl | exact rising_insertNat ‹_› | exact rising_filter ‹_›))

theorem sendRebuildRead_keeps {s0 : State} {x0 : State} {x1} {x2} (hx0 : Keeps s0 x0) :
    Keeps s0 (sendRebuildRead x0 x1 x2) := by
  unfold sendRebuildRead
  with_reducible repeat' first | assumption | apply sendFabric_keeps

theorem startRepair_keeps {s0 : State} {x0 : State} {x1} {x2} {x3} (hx0 : Keeps s0 x0) :
    Keeps s0 (startRepair x0 x1 x2 x3) := by
  unfold startRepair
  with_reducible repeat' first | assumption | apply onSlice_keeps | apply sendRebuildRead_keeps | apply forAll_keeps | extract_lets | intro _

theorem deliverOn_keeps {s0 : State} {x0 : State} {x1} {x2} (hx0 : Keeps s0 x0) :
    Keeps s0 (deliverOn x0 x1 x2) := by
  unfold deliverOn
  with_reducible repeat' first | assumption | apply sendOn_keeps | split

theorem transmitSnoop_keeps {s0 : State} {x0 : State} {x1} {x2} (hx0 : Keeps s0 x0) :
    Keeps s0 (transmitSnoop x0 x1 x2) := by
  unfold transmitSnoop
  with_reducible repeat' first | assumption | apply deliverOn_keeps | apply sendRouted_keeps | extract_lets | (apply Keeps.ite' <;> intro _)

theorem sendSnoop_keeps {s0 : State} {x0 : State} {x1} {x2} {x3} {x4} (hx0 : Keeps s0 x0) :
    Keeps s0 (sendSnoop x0 x1 x2 x3 x4) := by
  unfold sendSnoop
  with_reducible repeat' first | assumption | apply countCoh_keeps | apply onSlice_keeps | apply onTx_keeps | apply removeHolder_keeps | apply transmitSnoop_keeps | extract_lets | (apply Keeps.ite' <;> intro _)

theorem openTx_keeps {s0 : State} {x0 : State} {x1} {x2} {x3} {x4} {x5} {x6} (hx0 : Keeps s0 x0) :
    Keeps s0 (openTx x0 x1 x2 x3 x4 x5 x6) := by
  unfold openTx
  with_reducible repeat' first | assumption | apply onSlice_keeps | apply sendSnoop_keeps | apply forAll_keeps | extract_lets | intro _

theorem dropTx_keeps {s0 : State} {x0 : State} {x1} (hx0 : Keeps s0 x0) :
    Keeps s0 (dropTx x0 x1) := by
  unfold dropTx
  with_reducible repeat' first | assumption | apply onSlice_keeps

theorem prepRead_keeps {s0 : State} {x0 : State} {x1} (hx0 : Keeps s0 x0) :
    KeepsFst s0 (prepRead x0 x1) := by
  unfold prepRead
  with_reducible repeat' first | assumption | apply dropTx_keeps | apply forgetLost_keeps | apply openTx_keeps | apply startRepair_keeps | extract_lets | (apply KeepsFst.ite <;> intro _) | split | simp only [KeepsFst.pair_iff]

theorem prepRead_keeps1 {s0 : State} {x0 : State} {x1} (hx0 : Keeps s0 x0) :
    Keeps s0 (prepRead x0 x1).1 := prepRead_keeps hx0

theorem prepWrite_keeps {s0 : State} {x0 : State} {x1} {x2} (hx0 : Keeps s0 x0) :
    KeepsFst s0 (prepWrite x0 x1 x2) := by
  unfold prepWrite
  with_reducible repeat' first | assumption | apply dropTx_keeps | apply openTx_keeps | apply setHome_keeps | apply startCopy_keeps | apply startRepair_keeps | extract_lets | (apply KeepsFst.ite <;> intro _) | split | simp only [KeepsFst.pair_iff]

theorem prepWrite_keeps1 {s0 : State} {x0 : State} {x1} {x2} (hx0 : Keeps s0 x0) :
    Keeps s0 (prepWrite x0 x1 x2).1 := prepWrite_keeps hx0

theorem clearPairings_keeps {s0 : State} {x0 : State} {x1} (hx0 : Keeps s0 x0) :
    Keeps s0 (clearPairings x0 x1) := by
  unfold clearPairings
  with_reducible repeat' first | assumption | apply ashLimited_keeps | apply onT0_keeps | apply forAll_keeps | extract_lets | intro _

theorem markUnprot_keeps {s0 : State} {x0 : State} {x1} (hx0 : Keeps s0 x0) :
    Keeps s0 (markUnprot x0 x1) := by
  unfold markUnprot
  with_reducible repeat' first | assumption | ((refine onMem_keeps ?_ ?hg); case hg => with_unfolding_all exact fun m h => Mem.wf_iff.2 (by obtain ⟨⟨⟨⟨⟨_, _⟩, _⟩, _⟩, _⟩, _⟩ := Mem.wf_iff.1 h; refine ⟨⟨⟨⟨⟨?_, ?_⟩, ?_⟩, ?_⟩, ?_⟩, ?_⟩ <;> first | assumption | exact rfl | exact rising_insertNat ‹_› | exact rising_filter ‹_›))

theorem sendCopy_keeps {s0 : State} {x0 : State} {x1} {x2} {x3} {x4} (hx0 : Keeps s0 x0) :
    Keeps s0 (sendCopy x0 x1 x2 x3 x4) := by
  unfold sendCopy
  with_reducible repeat' first | assumption | apply onSlice_keeps | apply onTx_keeps | apply sendFabric_keeps | apply updFrame_keeps1 | extract_lets | (apply Keeps.ite' <;> intro _) | split

theorem homeStore_keeps {s0 : State} {x0 : State} {x1} {x2} {x3} {x4} (hx0 : Keeps s0 x0) :
    Keeps s0 (homeStore x0 x1 x2 x3 x4) := by
  unfold homeStore
  with_reducible repeat' first | assumption | apply clearPairings_keeps | apply clearPoison_keeps | apply examineFlag_keeps | apply markUnprot_keeps | apply onCell_keeps | ((refine onMem_keeps ?_ ?hg); case hg => with_unfolding_all exact fun m h => Mem.wf_iff.2 (by obtain ⟨⟨⟨⟨⟨_, _⟩, _⟩, _⟩, _⟩, _⟩ := Mem.wf_iff.1 h; refine ⟨⟨⟨⟨⟨?_, ?_⟩, ?_⟩, ?_⟩, ?_⟩, ?_⟩ <;> first | assumption | exact rfl | exact rising_insertNat ‹_› | exact rising_filter ‹_›)) | apply onSites_keeps | apply onT0Tile_keeps | apply queueDram_keeps | apply sendCopy_keeps | apply wakeWatchers_keeps | apply writeBytes_keeps | extract_lets | (apply Keeps.ite' <;> intro _)

theorem markAnswer_keeps {s0 : State} {x0 : State} {x1} {x2} (hx0 : Keeps s0 x0) :
    Keeps s0 (markAnswer x0 x1 x2) := by
  unfold markAnswer
  with_reducible repeat' first | assumption | apply onTrn_keeps

theorem ringWrite_keeps {s0 : State} {x0 : State} {x1} {x2} {x3} (hx0 : Keeps s0 x0) :
    Keeps s0 (ringWrite x0 x1 x2 x3) := by
  unfold ringWrite
  with_reducible repeat' first | assumption | apply countTrn_keeps | apply homeStore_keeps | apply markAnswer_keeps | extract_lets | (apply Keeps.ite' <;> intro _)

theorem applyWrite_keeps {s0 : State} {x0 : State} {x1} {x2} {x3} (hx0 : Keeps s0 x0) :
    Keeps s0 (applyWrite x0 x1 x2 x3) := by
  unfold applyWrite
  with_reducible repeat' first | assumption | apply homeStore_keeps | apply ringWrite_keeps | (apply Keeps.ite' <;> intro _)

theorem applyAtomic_keeps {s0 : State} {x0 : State} {x1} {x2} {x3} {x4} {x5} {x6} (hx0 : Keeps s0 x0) :
    KeepsSnd s0 (applyAtomic x0 x1 x2 x3 x4 x5 x6) := by
  unfold applyAtomic
  with_reducible repeat' first | assumption | apply applyWrite_keeps | extract_lets | simp only [KeepsSnd.pair_iff]

theorem applyAtomic_keeps1 {s0 : State} {x0 : State} {x1} {x2} {x3} {x4} {x5} {x6} (hx0 : Keeps s0 x0) :
    Keeps s0 (applyAtomic x0 x1 x2 x3 x4 x5 x6).2 := applyAtomic_keeps hx0

theorem prepWrites_keeps {s0 s : State} {full ls} (h : Keeps s0 s) : KeepsFst s0 (prepWrites s full ls) := by
  induction ls generalizing s with
  | nil => exact h
  | cons l ls ih => exact ih (prepWrite_keeps1 h)

theorem prepWrites_keeps1 {s0 s : State} {full ls} (h : Keeps s0 s) : Keeps s0 (prepWrites s full ls).1 := prepWrites_keeps h

theorem prepReads_keeps {s0 s : State} {ls} (h : Keeps s0 s) : KeepsFst s0 (prepReads s ls) := by
  induction ls generalizing s with
  | nil => exact h
  | cons l ls ih => exact ih (prepRead_keeps1 h)

theorem prepReads_keeps1 {s0 s : State} {ls} (h : Keeps s0 s) : Keeps s0 (prepReads s ls).1 := prepReads_keeps h

theorem addWaiters_keeps {s0 : State} {x0 : State} {x1} {x2} (hx0 : Keeps s0 x0) :
    Keeps s0 (addWaiters x0 x1 x2) := by
  unfold addWaiters
  with_reducible repeat' first | assumption | apply onTx_keeps

theorem updPredictor_keeps {s0 : State} {x0 : State} {x1} {x2} (hx0 : Keeps s0 x0) :
    Keeps s0 (updPredictor x0 x1 x2) := by
  unfold updPredictor
  with_reducible repeat' first | assumption | apply onHome_keeps | extract_lets | (apply Keeps.ite' <;> intro _)

theorem orderReq_keeps {s0 : State} {x0 : State} {x1} {x2} (hx0 : Keeps s0 x0) :
    KeepsFst s0 (orderReq x0 x1 x2) := by
  unfold orderReq
  with_reducible repeat' first | assumption | apply countHot_keeps | apply decodeRead_keeps | apply onSlice_keeps | apply updPredictor_keeps | extract_lets | (apply Keeps.ite' <;> intro _) | (apply KeepsFst.ite <;> intro _) | split | simp only [KeepsFst.pair_iff] | dsimp +zetaDelta only

theorem orderReq_keeps1 {s0 : State} {x0 : State} {x1} {x2} (hx0 : Keeps s0 x0) :
    Keeps s0 (orderReq x0 x1 x2).1 := orderReq_keeps hx0

theorem grantTo_keeps {s0 : State} {x0 : State} {x1} {x2} {x3} (hx0 : Keeps s0 x0) :
    Keeps s0 (grantTo x0 x1 x2 x3) := by
  unfold grantTo
  with_reducible repeat' first | assumption | apply countCoh_keeps | apply setHome_keeps | extract_lets | (apply Keeps.ite' <;> intro _) | split

theorem applyReq_keeps {s0 : State} {x0 : State} {x1} {x2} {x3} {x4} (hx0 : Keeps s0 x0) :
    KeepsFst s0 (applyReq x0 x1 x2 x3 x4) := by
  unfold applyReq
  with_reducible repeat' first | assumption | apply applyAtomic_keeps | apply applyWrite_keeps | apply countCoh_keeps | apply dropOwn_keeps | apply grantTo_keeps | apply meterLine_keeps | apply meterStore_keeps | apply meter_keeps | apply removeHolder_keeps | apply setHome_keeps | (apply Keeps.ofSnd; assumption) | extract_lets | (apply Keeps.ite' <;> intro _) | (apply KeepsFst.ite <;> intro _) | split | simp only [KeepsFst.pair_iff] | dsimp +zetaDelta only

theorem applyReq_keeps1 {s0 : State} {x0 : State} {x1} {x2} {x3} {x4} (hx0 : Keeps s0 x0) :
    Keeps s0 (applyReq x0 x1 x2 x3 x4).1 := applyReq_keeps hx0

theorem conclude_keeps {s0 : State} {x0 : State} {x1} {x2} {x3} {x4} (hx0 : Keeps s0 x0) :
    Keeps s0 (conclude x0 x1 x2 x3 x4) := by
  unfold conclude
  with_reducible repeat' first | assumption | apply answer_keeps | apply onTx_keeps | split

theorem markFresh_keeps {s0 : State} {x0 : State} {x1} (hx0 : Keeps s0 x0) :
    Keeps s0 (markFresh x0 x1) := by
  unfold markFresh
  with_reducible repeat' first | assumption | apply onCell_keeps | (apply Keeps.ite' <;> intro _)

theorem setTagAt_keeps {s0 : State} {x0 : State} {x1} {x2} (hx0 : Keeps s0 x0) :
    Keeps s0 (setTagAt x0 x1 x2) := by
  unfold setTagAt
  with_reducible repeat' first | assumption | apply sendCopy_keeps | apply setTag_keeps | extract_lets | (apply Keeps.ite' <;> intro _)

theorem writeTag_keeps {s0 : State} {x0 : State} {x1} {x2} (hx0 : Keeps s0 x0) :
    Keeps s0 (writeTag x0 x1 x2) := by
  unfold writeTag
  with_reducible repeat' first | assumption | apply setTagAt_keeps | (apply Keeps.ite' <;> intro _)

theorem serveOne_keeps {s0 : State} {n : Nat} {s : State} {r : Req} {rest : List Req} (h : Keeps s0 s) :
    Keeps s0 (serveOne n s r rest) := by
  induction n generalizing s r rest with
  | zero => exact refuse_keeps h
  | succ n ih =>
    have h1 : Keeps s0 (orderReq s r (reqLine s r)).1 := orderReq_keeps h
    unfold serveOne
    dsimp only
    generalize reqLine s r = l at h1 ⊢
    generalize orderReq s r l = p at h1 ⊢
    obtain ⟨s, r⟩ := p
    have h1 : Keeps s0 s := h1
    try dsimp only
    split
    · split
      · split
        · exact ih (dropTx_keeps (openTx_keeps h1))
        · exact openTx_keeps h1
      · exact openTx_keeps h1
    · exact answer_keeps (countCoh_keeps (onTx_keeps (countCoh_keeps (openTx_keeps (grantTo_keeps (setHome_keeps h1))))))
    · exact startCopy_keeps h1
    · exact onT0Tile_keeps h1
    · exact onSites_keeps h1
    · exact startRepair_keeps h1
    · split
      · split
        · exact ih (setHome_keeps (dropTx_keeps (openTx_keeps (countCoh_keeps h1))))
        · exact openTx_keeps (countCoh_keeps h1)
      · exact openTx_keeps (countCoh_keeps h1)
    · exact addWaiters_keeps h1
    · have h2 : Keeps s0 (applyReq s r rest l (decide (r.stage = 2))).1 := applyReq_keeps h1
      generalize applyReq s r rest l (decide (r.stage = 2)) = q at h2 ⊢
      split
      · exact conclude_keeps (markFresh_keeps h2)
      · refine Keeps.ite' (fun _ => conclude_keeps (writeTag_keeps h2)) fun _ => ?_
        refine Keeps.ite' (fun _ => onTx_keeps h2) fun _ => ?_
        refine Keeps.ite' (fun _ => addWaiters_keeps h2) fun _ => ?_
        split
        · exact onSlice_keeps h2
        · exact ih h2

theorem serveHome_keeps {s0 : State} {x0 : State} {x1} (hx0 : Keeps s0 x0) :
    Keeps s0 (serveHome x0 x1) := by
  unfold serveHome
  with_reducible repeat' first | assumption | apply addWaiters_keeps | apply countLink_keeps | apply onSlice_keeps | apply onTx_keeps | apply refuse_keeps | apply serveOne_keeps | extract_lets | (apply Keeps.ite' <;> intro _) | split

theorem drainLine_keeps {s0 s : State} {l : Nat} {rs : List Req} (h : Keeps s0 s) : Keeps s0 (drainLine s l rs) := by
  induction rs generalizing s with
  | nil => exact h
  | cons r rs ih =>
    have h1 : Keeps s0 (serveOne serveFuel s r rs) := serveOne_keeps h
    unfold drainLine
    generalize serveOne serveFuel s r rs = s1 at h1 ⊢
    dsimp only
    split
    · exact ih (serveHome_keeps h)
    · split
      · split
        · split
          · exact addWaiters_keeps h1
          · exact h1
        · exact h1
      · exact ih h1

theorem progressTx_keeps {s0 : State} {x0 : State} {x1} (hx0 : Keeps s0 x0) :
    Keeps s0 (progressTx x0 x1) := by
  unfold progressTx
  with_reducible repeat' first | assumption | apply answer_keeps | apply drainLine_keeps | apply dropTx_keeps | apply setHome_keeps | extract_lets | (apply Keeps.ite' <;> intro _) | split

theorem devStore_keeps {s0 : State} {x0 : State} {x1} {x2} {x3} (hx0 : Keeps s0 x0) :
    Keeps s0 (devStore x0 x1 x2 x3) := by
  unfold devStore
  with_reducible repeat' first | assumption | apply homeStore_keeps

end Sys2Proof.Machine
end

