-- ==== Sys2Proof/Laws/KeepsWalks.lean ====
section
/-! SUPPORT. What every operation of Machine/Walks.lean leaves as the law Keeps says (Laws/Keeps.lean). -/

namespace Sys2Proof.Machine

theorem fetchNeed_keeps {s0 : State} {x0 : State} {x1} {x2} {x3} (hx0 : Keeps s0 x0) :
    Keeps s0 (fetchNeed x0 x1 x2 x3) := by
  unfold fetchNeed
  with_reducible repeat' first | assumption | apply prepRead_keeps1 | apply sendFabric_keeps | extract_lets | (apply Keeps.ite' <;> intro _) | split

theorem dropTables_keeps {s0 : State} {x0 : State} (hx0 : Keeps s0 x0) :
    Keeps s0 (dropTables x0) := by
  unfold dropTables
  with_reducible repeat' first | assumption | apply onTrn_keeps

theorem xlateTry_keeps {s0 : State} {x0 : State} {x1} {x2} {x3} {x4} (hx0 : Keeps s0 x0) :
    KeepsFst s0 (xlateTry x0 x1 x2 x3 x4) := by
  unfold xlateTry
  with_reducible repeat' first | assumption | apply dropTables_keeps | apply fetchNeed_keeps | apply xlate_keeps | (apply Keeps.ofSnd; assumption) | split | simp only [KeepsFst.pair_iff]

theorem xlateTry_keeps1 {s0 : State} {x0 : State} {x1} {x2} {x3} {x4} (hx0 : Keeps s0 x0) :
    Keeps s0 (xlateTry x0 x1 x2 x3 x4).1 := xlateTry_keeps hx0

theorem onWalk_keeps {s0 : State} {x0 : State} {x1} {x2} (hx0 : Keeps s0 x0) :
    Keeps s0 (onWalk x0 x1 x2) := by
  unfold onWalk
  with_reducible repeat' first | assumption | apply onTrn_keeps

theorem askTable_keeps {s0 : State} {x0 : State} {x1} (hx0 : Keeps s0 x0) :
    Keeps s0 (askTable x0 x1) := by
  unfold askTable
  with_reducible repeat' first | assumption | apply onWalk_keeps | apply sendFabric_keeps | extract_lets | split

theorem startWalk_keeps {s0 : State} {x0 : State} {x1} {x2} (hx0 : Keeps s0 x0) :
    Keeps s0 (startWalk x0 x1 x2) := by
  unfold startWalk
  with_reducible repeat' first | assumption | apply askTable_keeps | apply onTrn_keeps

theorem needWalk_keeps {s0 : State} {x0 : State} {x1} {x2} (hx0 : Keeps s0 x0) :
    Keeps s0 (needWalk x0 x1 x2) := by
  unfold needWalk
  with_reducible repeat' first | assumption | apply countTrn_keeps | apply onTrn_keeps | apply onWalk_keeps | apply startWalk_keeps | extract_lets | (apply Keeps.ite' <;> intro _) | split

theorem translate_keeps {s0 : State} {x0 : State} {x1} {x2} {x3} {x4} {x5} (hx0 : Keeps s0 x0) :
    KeepsFst s0 (translate x0 x1 x2 x3 x4 x5) := by
  unfold translate
  with_reducible repeat' first | assumption | apply countTrn_keeps | apply needWalk_keeps | apply touchLeaf_keeps | extract_lets | (apply KeepsFst.ite <;> intro _) | split | simp only [KeepsFst.pair_iff]

theorem translate_keeps1 {s0 : State} {x0 : State} {x1} {x2} {x3} {x4} {x5} (hx0 : Keeps s0 x0) :
    Keeps s0 (translate x0 x1 x2 x3 x4 x5).1 := translate_keeps hx0

theorem failWaiter_keeps {s0 : State} {x0 : State} {x1} {x2} (hx0 : Keeps s0 x0) :
    Keeps s0 (failWaiter x0 x1 x2) := by
  unfold failWaiter
  with_reducible repeat' first | assumption | apply onItem_keeps | apply refuse_keeps | split

theorem declineAll_keeps {s0 : State} {x0 : State} {x1} {x2} (hx0 : Keeps s0 x0) :
    Keeps s0 (declineAll x0 x1 x2) := by
  unfold declineAll
  with_reducible repeat' first | assumption | apply countTrn_keeps | apply failWaiter_keeps | apply forAll_keeps | extract_lets | intro _

theorem recordDecline_keeps {s0 : State} {x0 : State} {x1} {x2} (hx0 : Keeps s0 x0) :
    Keeps s0 (recordDecline x0 x1 x2) := by
  unfold recordDecline
  with_reducible repeat' first | assumption | apply ashLimited_keeps

theorem raiseFault_keeps {s0 : State} {x0 : State} {x1} {x2} {x3} {x4} (hx0 : Keeps s0 x0) :
    KeepsFst s0 (raiseFault x0 x1 x2 x3 x4) := by
  unfold raiseFault
  with_reducible repeat' first | assumption | apply countTrn_keeps | apply countWait203_keeps | apply declineAll_keeps | apply failWaiter_keeps | apply onTrn_keeps | apply onWalk_keeps | apply recordDecline_keeps | apply forAll_keeps | extract_lets | (apply KeepsFst.ite <;> intro _) | split | intro _ | simp only [KeepsFst.pair_iff] | dsimp +zetaDelta only

theorem raiseFault_keeps1 {s0 : State} {x0 : State} {x1} {x2} {x3} {x4} (hx0 : Keeps s0 x0) :
    Keeps s0 (raiseFault x0 x1 x2 x3 x4).1 := raiseFault_keeps hx0

theorem useWalker_keeps {s0 : State} {x0 : State} (hx0 : Keeps s0 x0) :
    Keeps s0 (useWalker x0) := by
  unfold useWalker
  with_reducible repeat' first | assumption | apply failWaiter_keeps | apply onTrn_keeps | apply startWalk_keeps | extract_lets | (apply Keeps.ite' <;> intro _) | split

theorem dropWalk_keeps {s0 : State} {x0 : State} {x1} (hx0 : Keeps s0 x0) :
    Keeps s0 (dropWalk x0 x1) := by
  unfold dropWalk
  with_reducible repeat' first | assumption | apply onTrn_keeps

theorem stopWalk_keeps {s0 : State} {x0 : State} {x1} {x2} {x3} {x4} (hx0 : Keeps s0 x0) :
    Keeps s0 (stopWalk x0 x1 x2 x3 x4) := by
  unfold stopWalk
  with_reducible repeat' first | assumption | apply dropWalk_keeps | apply raiseFault_keeps1 | apply useWalker_keeps | (apply Keeps.ite' <;> intro _)

theorem raiseHeld_keeps {s0 : State} {x0 : State} (hx0 : Keeps s0 x0) :
    Keeps s0 (raiseHeld x0) := by
  unfold raiseHeld
  with_reducible repeat' first | assumption | apply onWalk_keeps | apply stopWalk_keeps | extract_lets | (apply Keeps.ite' <;> intro _) | split

theorem dropFault_keeps {s0 : State} {x0 : State} {x1} (hx0 : Keeps s0 x0) :
    Keeps s0 (dropFault x0 x1) := by
  unfold dropFault
  with_reducible repeat' first | assumption | apply onTrn_keeps | apply raiseHeld_keeps

theorem declineJob_keeps {s0 : State} {x0 : State} {x1} {x2} (hx0 : Keeps s0 x0) :
    Keeps s0 (declineJob x0 x1 x2) := by
  unfold declineJob
  with_reducible repeat' first | assumption | apply declineAll_keeps | apply dropFault_keeps | apply recordDecline_keeps | apply forAll_keeps | extract_lets | (apply Keeps.ite' <;> intro _) | intro _

theorem checkRings_keeps {s0 : State} {x0 : State} (hx0 : Keeps s0 x0) :
    Keeps s0 (checkRings x0) := by
  unfold checkRings
  with_reducible repeat' first | assumption | apply declineJob_keeps | apply forAll_keeps | extract_lets | split | intro _

theorem abandonWalk_keeps {s0 : State} {x0 : State} {x1} {x2} (hx0 : Keeps s0 x0) :
    Keeps s0 (abandonWalk x0 x1 x2) := by
  unfold abandonWalk
  with_reducible repeat' first | assumption | apply dropWalk_keeps | apply failWaiter_keeps | apply useWalker_keeps | apply forAll_keeps | extract_lets | intro _

theorem restartWalk_keeps {s0 : State} {x0 : State} {x1} {x2} (hx0 : Keeps s0 x0) :
    Keeps s0 (restartWalk x0 x1 x2) := by
  unfold restartWalk
  with_reducible repeat' first | assumption | apply askTable_keeps | apply onWalk_keeps

theorem endWalk_keeps {s0 : State} {x0 : State} {x1} {x2} (hx0 : Keeps s0 x0) :
    KeepsFst s0 (endWalk x0 x1 x2) := by
  unfold endWalk
  with_reducible repeat' first | assumption | apply dropWalk_keeps | apply fillLeaf_keeps | apply useWalker_keeps | extract_lets | (apply Keeps.ite' <;> intro _) | split | simp only [KeepsFst.pair_iff] | dsimp +zetaDelta only

theorem endWalk_keeps1 {s0 : State} {x0 : State} {x1} {x2} (hx0 : Keeps s0 x0) :
    Keeps s0 (endWalk x0 x1 x2).1 := endWalk_keeps hx0

theorem denyJob_keeps {s0 : State} {x0 : State} {x1} (hx0 : Keeps s0 x0) :
    Keeps s0 (denyJob x0 x1) := by
  unfold denyJob
  with_reducible repeat' first | assumption | apply abandonWalk_keeps | apply dropFault_keeps | apply failWaiter_keeps | apply onTrn_keeps | apply forAll_keeps | extract_lets | intro _

theorem localUpdate_keeps {s0 : State} {x0 : State} {x1} {x2} {x3} (hx0 : Keeps s0 x0) :
    KeepsFst s0 (localUpdate x0 x1 x2 x3) := by
  unfold localUpdate
  with_reducible repeat' first | assumption | apply countTrn_keeps | apply devStore_keeps | apply endWalk_keeps | apply prepWrite_keeps1 | apply restartWalk_keeps | extract_lets | (apply KeepsFst.ite <;> intro _) | simp only [KeepsFst.pair_iff]

theorem localUpdate_keeps1 {s0 : State} {x0 : State} {x1} {x2} {x3} (hx0 : Keeps s0 x0) :
    Keeps s0 (localUpdate x0 x1 x2 x3).1 := localUpdate_keeps hx0

theorem leafReached_keeps {s0 : State} {x0 : State} {x1} {x2} {x3} {x4} {x5} {x6} (hx0 : Keeps s0 x0) :
    KeepsFst s0 (leafReached x0 x1 x2 x3 x4 x5 x6) := by
  unfold leafReached
  with_reducible repeat' first | assumption | apply abandonWalk_keeps | apply countTrn_keeps | apply endWalk_keeps | apply onWalk_keeps | apply sendFabric_keeps | apply stopWalk_keeps | extract_lets | (apply KeepsFst.ite <;> intro _) | split | simp only [KeepsFst.pair_iff]

theorem leafReached_keeps1 {s0 : State} {x0 : State} {x1} {x2} {x3} {x4} {x5} {x6} (hx0 : Keeps s0 x0) :
    Keeps s0 (leafReached x0 x1 x2 x3 x4 x5 x6).1 := leafReached_keeps hx0

theorem entryRead_keeps {s0 : State} {x0 : State} {x1} {x2} {x3} (hx0 : Keeps s0 x0) :
    KeepsFst s0 (entryRead x0 x1 x2 x3) := by
  unfold entryRead
  with_reducible repeat' first | assumption | apply askTable_keeps | apply countTrn_keeps | apply fillNonLeaf_keeps | apply leafReached_keeps | apply onWalk_keeps | apply stopWalk_keeps | extract_lets | (apply Keeps.ite' <;> intro _) | split | simp only [KeepsFst.pair_iff]

theorem entryRead_keeps1 {s0 : State} {x0 : State} {x1} {x2} {x3} (hx0 : Keeps s0 x0) :
    Keeps s0 (entryRead x0 x1 x2 x3).1 := entryRead_keeps hx0

theorem walkRead_keeps {s0 : State} {x0 : State} {x1} {x2} (hx0 : Keeps s0 x0) :
    KeepsFst s0 (walkRead x0 x1 x2) := by
  unfold walkRead
  with_reducible repeat' first | assumption | apply abandonWalk_keeps | apply countTrn_keeps | apply decodeRead_keeps | apply entryRead_keeps | apply localUpdate_keeps | apply prepRead_keeps1 | apply stopWalk_keeps | extract_lets | (apply Keeps.ite' <;> intro _) | (apply KeepsFst.ite <;> intro _) | split | simp only [KeepsFst.pair_iff]

theorem walkRead_keeps1 {s0 : State} {x0 : State} {x1} {x2} (hx0 : Keeps s0 x0) :
    Keeps s0 (walkRead x0 x1 x2).1 := walkRead_keeps hx0

end Sys2Proof.Machine
end

