-- ==== Sys2Proof/Laws/KeepsAccess.lean ====
section
/-! SUPPORT. What every operation of Machine/Access.lean leaves as the law Keeps says (Laws/Keeps.lean). -/

namespace Sys2Proof.Machine

theorem clearBad_keeps {s0 : State} {x0 : State} {x1} {x2} (hx0 : Keeps s0 x0) :
    Keeps s0 (clearBad x0 x1 x2) := by
  unfold clearBad
  with_reducible repeat' first | assumption | apply onItem_keeps

theorem stoveXlate_keeps {s0 : State} {x0 : State} {x1} {x2} {x3} (hx0 : Keeps s0 x0) :
    KeepsFst s0 (stoveXlate x0 x1 x2 x3) := by
  unfold stoveXlate
  with_reducible repeat' first | assumption | apply clearBad_keeps | apply translate_keeps | (apply Keeps.ofFst; assumption) | split | simp only [KeepsFst.pair_iff]

theorem stoveXlate_keeps1 {s0 : State} {x0 : State} {x1} {x2} {x3} (hx0 : Keeps s0 x0) :
    Keeps s0 (stoveXlate x0 x1 x2 x3).1 := stoveXlate_keeps hx0

theorem locate_keeps {s0 : State} {x0 : State} {x1} {x2} {x3} (hx0 : Keeps s0 x0) :
    KeepsFst s0 (locate x0 x1 x2 x3) := by
  unfold locate
  with_reducible repeat' first | assumption | apply stoveXlate_keeps | (apply Keeps.ofFst; assumption) | extract_lets | (apply KeepsFst.ite <;> intro _) | split | simp only [KeepsFst.pair_iff]

theorem locate_keeps1 {s0 : State} {x0 : State} {x1} {x2} {x3} (hx0 : Keeps s0 x0) :
    Keeps s0 (locate x0 x1 x2 x3).1 := locate_keeps hx0

theorem sendRead_keeps {s0 s : State} {f : Frame} {who : Issuer} (h : Keeps s0 s) : Keeps s0 (sendRead s f who) := by
  unfold sendRead joinLeader
  repeat' first | with_reducible assumption | with_reducible apply onNet_keeps | with_reducible apply countLink_keeps | with_reducible apply sendFabric_keeps | split | dsimp +zetaDelta only
  all_goals (rename_i heq; split at heq <;> try contradiction)
  all_goals (cases heq; apply onNet_keeps; split <;> first | exact h | exact countLink_keeps h)

theorem askFar_keeps {s0 : State} {x0 : State} {x1} {x2} {x3} {x4} {x5} {x6} (hx0 : Keeps s0 x0) :
    KeepsFst s0 (askFar x0 x1 x2 x3 x4 x5 x6) := by
  unfold askFar
  with_reducible repeat' first | assumption | apply clearBad_keeps | apply sendRead_keeps | extract_lets | (apply KeepsFst.ite <;> intro _) | split | simp only [KeepsFst.pair_iff]

theorem askFar_keeps1 {s0 : State} {x0 : State} {x1} {x2} {x3} {x4} {x5} {x6} (hx0 : Keeps s0 x0) :
    Keeps s0 (askFar x0 x1 x2 x3 x4 x5 x6).1 := askFar_keeps hx0

theorem tryLine_keeps {s0 : State} {x0 : State} {x1} {x2} {x3} {x4} (hx0 : Keeps s0 x0) :
    KeepsFst s0 (tryLine x0 x1 x2 x3 x4) := by
  unfold tryLine
  with_reducible repeat' first | assumption | apply askFar_keeps | apply locate_keeps | apply prepRead_keeps | (apply Keeps.ofFst; assumption) | split | simp only [KeepsFst.pair_iff]

theorem tryLine_keeps1 {s0 : State} {x0 : State} {x1} {x2} {x3} {x4} (hx0 : Keeps s0 x0) :
    Keeps s0 (tryLine x0 x1 x2 x3 x4).1 := tryLine_keeps hx0

theorem tryLines_keeps {s0 s : State} {i n acc ls} (h : Keeps s0 s) : KeepsFst s0 (tryLines s i n acc ls) := by
  induction ls generalizing s with
  | nil => exact h
  | cons l ls ih =>
    have h1 := tryLine_keeps1 (x1 := i) (x2 := n) (x3 := acc) (x4 := l) h
    unfold tryLines
    dsimp only
    split
    · exact h1
    · split
      · exact ih h1
      · exact ih h1
      · exact ih h1

theorem tryLines_keeps1 {s0 s : State} {i n acc ls} (h : Keeps s0 s) : Keeps s0 (tryLines s i n acc ls).1 := tryLines_keeps h

theorem readJva_keeps {s0 : State} {x0 : State} {x1} {x2} {x3} {x4} {x5} (hx0 : Keeps s0 x0) :
    KeepsFst s0 (readJva x0 x1 x2 x3 x4 x5) := by
  unfold readJva
  with_reducible repeat' first | assumption | apply tryLines_keeps | (apply Keeps.ofFst; assumption) | split | simp only [KeepsFst.pair_iff]

theorem readJva_keeps1 {s0 : State} {x0 : State} {x1} {x2} {x3} {x4} {x5} (hx0 : Keeps s0 x0) :
    Keeps s0 (readJva x0 x1 x2 x3 x4 x5).1 := readJva_keeps hx0

theorem chargeReads_keeps {s0 : State} {x0 : State} {x1} {x2} (hx0 : Keeps s0 x0) :
    Keeps s0 (chargeReads x0 x1 x2) := by
  unfold chargeReads
  with_reducible repeat' first | assumption | apply meterLine_keeps | apply onItem_keeps | apply forAll_keeps | extract_lets | split | intro _

theorem tryStore_keeps {s0 : State} {x0 : State} {x1} {x2} {x3} {x4} (hx0 : Keeps s0 x0) :
    KeepsFst s0 (tryStore x0 x1 x2 x3 x4) := by
  unfold tryStore
  with_reducible repeat' first | assumption | apply locate_keeps | apply prepWrite_keeps | (apply Keeps.ofFst; assumption) | split | simp only [KeepsFst.pair_iff]

theorem tryStore_keeps1 {s0 : State} {x0 : State} {x1} {x2} {x3} {x4} (hx0 : Keeps s0 x0) :
    Keeps s0 (tryStore x0 x1 x2 x3 x4).1 := tryStore_keeps hx0

theorem tryStores_keeps {s0 : State} {x0 : State} {x1} {x2} (hx0 : Keeps s0 x0) :
    KeepsFst s0 (tryStores x0 x1 x2) := by
  induction x2 generalizing x0 x1 with
  | nil => unfold tryStores; with_reducible repeat' first | assumption | apply tryStore_keeps | (apply Keeps.ofFst; assumption) | apply ih | split | simp only [KeepsFst.pair_iff]
  | cons z zs ih => unfold tryStores; with_reducible repeat' first | assumption | apply tryStore_keeps | (apply Keeps.ofFst; assumption) | apply ih | split | simp only [KeepsFst.pair_iff]

theorem tryStores_keeps1 {s0 : State} {x0 : State} {x1} {x2} (hx0 : Keeps s0 x0) :
    Keeps s0 (tryStores x0 x1 x2).1 := tryStores_keeps hx0

theorem dropBorrow_keeps {s0 : State} {x0 : State} {x1} {x2} (hx0 : Keeps s0 x0) :
    Keeps s0 (dropBorrow x0 x1 x2) := by
  unfold dropBorrow
  with_reducible repeat' first | assumption | apply onT0_keeps

theorem storePiece_keeps {s0 : State} {x0 : State} {x1} {x2} {x3} {x4} {x5} (hx0 : Keeps s0 x0) :
    Keeps s0 (storePiece x0 x1 x2 x3 x4 x5) := by
  unfold storePiece
  with_reducible repeat' first | assumption | apply applyWrite_keeps | apply dropBorrow_keeps | apply meterStore_keeps | apply sendFabric_keeps | extract_lets | (apply Keeps.ite' <;> intro _) | split

theorem storeJva_keeps {s0 : State} {x0 : State} {x1} {x2} {x3} {x4} {x5} (hx0 : Keeps s0 x0) :
    KeepsFst s0 (storeJva x0 x1 x2 x3 x4 x5) := by
  unfold storeJva
  with_reducible repeat' first | assumption | apply storePiece_keeps | apply tryStores_keeps | apply forAll_keeps | (apply Keeps.ofFst; assumption) | extract_lets | split | intro _ | simp only [KeepsFst.pair_iff]

theorem storeJva_keeps1 {s0 : State} {x0 : State} {x1} {x2} {x3} {x4} {x5} (hx0 : Keeps s0 x0) :
    Keeps s0 (storeJva x0 x1 x2 x3 x4 x5).1 := storeJva_keeps hx0

theorem tryPages_keeps {s0 : State} {x0 : State} {x1} {x2} {x3} (hx0 : Keeps s0 x0) :
    KeepsFst s0 (tryPages x0 x1 x2 x3) := by
  induction x3 generalizing x0 x1 x2 with
  | nil => unfold tryPages; with_reducible repeat' first | assumption | apply stoveXlate_keeps | (apply Keeps.ofFst; assumption) | apply ih | split | simp only [KeepsFst.pair_iff]
  | cons z zs ih => unfold tryPages; with_reducible repeat' first | assumption | apply stoveXlate_keeps | (apply Keeps.ofFst; assumption) | apply ih | split | simp only [KeepsFst.pair_iff]

theorem tryPages_keeps1 {s0 : State} {x0 : State} {x1} {x2} {x3} (hx0 : Keeps s0 x0) :
    Keeps s0 (tryPages x0 x1 x2 x3).1 := tryPages_keeps hx0

theorem storeTile_keeps {s0 : State} {x0 : State} {x1} {x2} {x3} {x4} {x5} {x6} (hx0 : Keeps s0 x0) :
    KeepsFst s0 (storeTile x0 x1 x2 x3 x4 x5 x6) := by
  unfold storeTile
  with_reducible repeat' first | assumption | apply dropBorrow_keeps | apply sendFabric_keeps | apply setTagAt_keeps | apply storeJva_keeps | apply tryPages_keeps | (apply Keeps.ofFst; assumption) | extract_lets | (apply KeepsFst.ite <;> intro _) | split | simp only [KeepsFst.pair_iff]

theorem storeTile_keeps1 {s0 : State} {x0 : State} {x1} {x2} {x3} {x4} {x5} {x6} (hx0 : Keeps s0 x0) :
    Keeps s0 (storeTile x0 x1 x2 x3 x4 x5 x6).1 := storeTile_keeps hx0

theorem readTile_keeps {s0 : State} {x0 : State} {x1} {x2} {x3} (hx0 : Keeps s0 x0) :
    KeepsFst s0 (readTile x0 x1 x2 x3) := by
  unfold readTile
  with_reducible repeat' first | assumption | apply askFar_keeps | apply countTrn_keeps | apply readJva_keeps | apply tryPages_keeps | (apply Keeps.ofFst; assumption) | extract_lets | (apply KeepsFst.ite <;> intro _) | split | simp only [KeepsFst.pair_iff]

theorem readTile_keeps1 {s0 : State} {x0 : State} {x1} {x2} {x3} (hx0 : Keeps s0 x0) :
    Keeps s0 (readTile x0 x1 x2 x3).1 := readTile_keeps hx0

end Sys2Proof.Machine
end

