-- ==== Sys2Proof/Laws/KeepsIssue.lean ====
section
/-! SUPPORT. What every operation of Machine/Issue.lean leaves as the law Keeps says (Laws/Keeps.lean). -/

namespace Sys2Proof.Machine

theorem issue_keeps {s0 : State} {x0 : State} {x1} {x2} {x3} {x4} {x5} (hx0 : Keeps s0 x0) (hx5 : ∀ y0 y1, KeepsAns s0 (x5 y0 y1)) :
    KeepsAns s0 (issue x0 x1 x2 x3 x4 x5) := by
  unfold issue
  with_reducible repeat' first | assumption | apply KeepsAns.next | apply notEnabled_keeps | apply onThread_keeps | apply hx5 | (apply KeepsAns.ite <;> intro _) | split

theorem fault_keeps {s0 : State} {x0 : State} {x1} {x2} {x3} (hx0 : Keeps s0 x0) :
    Keeps s0 (fault x0 x1 x2 x3) := by
  unfold fault
  with_reducible repeat' first | assumption | apply onItem_keeps

theorem regOp_keeps {s0 : State} {x0 : State} {x1} {x2} {x3} {x4} {x5} (hx0 : Keeps s0 x0) :
    KeepsAns s0 (regOp x0 x1 x2 x3 x4 x5) := by
  unfold regOp
  with_reducible repeat' first | assumption | apply KeepsAns.next | apply issue_keeps | apply onThread_keeps | extract_lets | intro _

theorem bump_keeps {s0 s : State} {n} (h : Keeps s0 s) : Keeps s0 (bump s n) := ⟨h.pending, Nat.le_add_right_of_le h.draws, h.mem, h.fuse, h.rno, h.seq⟩

theorem onGot_keeps {s0 : State} {α : Type} {x0 : State} {x1 x2} {x3 : Got α} {x4} (hx0 : Keeps s0 x0) (hx4 : ∀ y0, KeepsAns s0 (x4 y0)) :
    KeepsAns s0 (onGot x0 x1 x2 x3 x4) := by
  unfold onGot
  split
  · exact hx4 _
  · exact .next hx0
  · exact .next (fault_keeps hx0)

theorem stoveDecode_keeps {s0 : State} {x0 : State} {x1} {x2} (hx0 : Keeps s0 x0) :
    KeepsFst s0 (stoveDecode x0 x1 x2) := by
  unfold stoveDecode
  with_reducible repeat' first | assumption | apply decodeRead_keeps | apply startRepair_keeps | extract_lets | (apply KeepsFst.ite <;> intro _) | split | simp only [KeepsFst.pair_iff]

theorem stoveDecode_keeps1 {s0 : State} {x0 : State} {x1} {x2} (hx0 : Keeps s0 x0) :
    Keeps s0 (stoveDecode x0 x1 x2).1 := stoveDecode_keeps hx0

theorem readHandle_keeps {s0 : State} {x0 : State} {x1} {x2} {x3} {x4} (hx0 : Keeps s0 x0) :
    KeepsFst s0 (readHandle x0 x1 x2 x3 x4) := by
  unfold readHandle
  with_reducible repeat' first | assumption | apply meter_keeps | apply prepReads_keeps1 | extract_lets | (apply KeepsFst.ite <;> intro _) | split | simp only [KeepsFst.pair_iff]

theorem readHandle_keeps1 {s0 : State} {x0 : State} {x1} {x2} {x3} {x4} (hx0 : Keeps s0 x0) :
    Keeps s0 (readHandle x0 x1 x2 x3 x4).1 := readHandle_keeps hx0

theorem accumulate_keeps {s0 : State} {x0 : State} {x1} {x2} {x3} {x4} (hx0 : Keeps s0 x0) :
    KeepsAns s0 (accumulate x0 x1 x2 x3 x4) := by
  unfold accumulate
  with_reducible repeat' first | assumption | apply KeepsAns.next | apply fault_keeps | apply onThread_keeps | extract_lets | (apply KeepsAns.ite <;> intro _) | split

theorem meterVec_keeps {s0 : State} {x0 : State} {x1} {x2} (hx0 : Keeps s0 x0) :
    Keeps s0 (meterVec x0 x1 x2) := by
  unfold meterVec
  with_reducible repeat' first | assumption | apply meterOps_keeps

theorem wholeTile_keeps {s0 : State} {x0 : State} {x1} {x2} {x3} (hx0 : Keeps s0 x0) :
    KeepsFst s0 (wholeTile x0 x1 x2 x3) := by
  unfold wholeTile
  with_reducible repeat' first | assumption | apply readHandle_keeps | (apply Keeps.ofFst; assumption) | split | simp only [KeepsFst.pair_iff]

theorem wholeTile_keeps1 {s0 : State} {x0 : State} {x1} {x2} {x3} (hx0 : Keeps s0 x0) :
    Keeps s0 (wholeTile x0 x1 x2 x3).1 := wholeTile_keeps hx0

theorem convertTile_keeps {s0 : State} {x0 : State} {x1} {x2} {x3} {x4} (hx0 : Keeps s0 x0) :
    KeepsFst s0 (convertTile x0 x1 x2 x3 x4) := by
  unfold convertTile
  with_reducible repeat' first | assumption | apply bump_keeps | extract_lets | simp only [KeepsFst.pair_iff]

theorem convertTile_keeps1 {s0 : State} {x0 : State} {x1} {x2} {x3} {x4} (hx0 : Keeps s0 x0) :
    Keeps s0 (convertTile x0 x1 x2 x3 x4).1 := convertTile_keeps hx0

theorem vecOp_keeps {s0 : State} {x0 : State} {x1} {x2} {x3} {x4} (hx0 : Keeps s0 x0) :
    KeepsAns s0 (vecOp x0 x1 x2 x3 x4) := by
  unfold vecOp
  with_reducible repeat' first | assumption | apply KeepsAns.next | apply bump_keeps | apply issue_keeps | apply meterVec_keeps | apply onThread_keeps | extract_lets | intro _

end Sys2Proof.Machine
end

