-- ==== Sys2Proof/Laws/KeepsAddress.lean ====
section
/-! SUPPORT. What every operation of Machine/Address.lean leaves as the law Keeps says (Laws/Keeps.lean). -/

namespace Sys2Proof.Machine

theorem execLdv_keeps {s0 : State} {x0} {x1} {x2 : State} (hx2 : Keeps s0 x2) :
    KeepsAns s0 (execLdv x0 x1 x2) := by
  unfold execLdv
  with_reducible repeat' first | assumption | apply KeepsAns.next | apply chargeReads_keeps | apply fault_keeps | apply issue_keeps | apply onGot_keeps | apply onThread_keeps | apply readJva_keeps1 | extract_lets | (apply KeepsAns.ite <;> intro _) | intro _

theorem storeOp_keeps {s0 : State} {x0 : State} {x1} {x2} {x3} {x4} {x5} (hx0 : Keeps s0 x0) :
    KeepsAns s0 (storeOp x0 x1 x2 x3 x4 x5) := by
  unfold storeOp
  with_reducible repeat' first | assumption | apply KeepsAns.next | apply fault_keeps | apply issue_keeps | apply onGot_keeps | apply onThread_keeps | apply storeJva_keeps1 | extract_lets | (apply KeepsAns.ite <;> intro _) | intro _

theorem execStv_keeps {s0 : State} {x0} {x1} {x2 : State} (hx2 : Keeps s0 x2) :
    KeepsAns s0 (execStv x0 x1 x2) := by
  unfold execStv
  with_reducible repeat' first | assumption | apply storeOp_keeps

theorem loadOp_keeps {s0 : State} {x0 : State} {x1} {x2} {x3} {x4} {x5} (hx0 : Keeps s0 x0) :
    KeepsAns s0 (loadOp x0 x1 x2 x3 x4 x5) := by
  unfold loadOp
  with_reducible repeat' first | assumption | apply KeepsAns.next | apply chargeReads_keeps | apply fault_keeps | apply issue_keeps | apply onGot_keeps | apply onThread_keeps | apply readJva_keeps1 | apply stoveDecode_keeps1 | extract_lets | (apply KeepsAns.ite <;> intro _) | split | intro _

theorem execLd_keeps {s0 : State} {x0} {x1} {x2} {x3 : State} (hx3 : Keeps s0 x3) :
    KeepsAns s0 (execLd x0 x1 x2 x3) := by
  unfold execLd
  with_reducible repeat' first | assumption | apply loadOp_keeps

theorem execLdsx_keeps {s0 : State} {x0} {x1} {x2 : State} (hx2 : Keeps s0 x2) :
    KeepsAns s0 (execLdsx x0 x1 x2) := by
  unfold execLdsx
  with_reducible repeat' first | assumption | apply loadOp_keeps

theorem execSt_keeps {s0 : State} {x0} {x1} {x2 : State} (hx2 : Keeps s0 x2) :
    KeepsAns s0 (execSt x0 x1 x2) := by
  unfold execSt
  with_reducible repeat' first | assumption | apply storeOp_keeps

theorem execStvh_keeps {s0 : State} {x0} {x1} {x2 : State} (hx2 : Keeps s0 x2) :
    KeepsAns s0 (execStvh x0 x1 x2) := by
  unfold execStvh
  with_reducible repeat' first | assumption | apply storeOp_keeps

theorem execParam_keeps {s0 : State} {x0} {x1} {x2 : State} (hx2 : Keeps s0 x2) :
    KeepsAns s0 (execParam x0 x1 x2) := by
  unfold execParam
  with_reducible repeat' first | assumption | apply KeepsAns.next | apply issue_keeps | apply onThread_keeps | extract_lets | intro _

theorem execResw_keeps {s0 : State} {x0} {x1} {x2 : State} (hx2 : Keeps s0 x2) :
    KeepsAns s0 (execResw x0 x1 x2) := by
  unfold execResw
  with_reducible repeat' first | assumption | apply KeepsAns.next | apply issue_keeps | apply onItem_keeps | apply onThread_keeps | extract_lets | intro _

end Sys2Proof.Machine
end

