-- ==== Sys2Proof/Laws/KeepsCoh.lean ====
section
/-! SUPPORT. What every operation of Machine/Coh.lean leaves as the law Keeps says (Laws/Keeps.lean). -/

namespace Sys2Proof.Machine

theorem cohServe_keeps {s0 : State} {x0 : State} {x1} (hx0 : Keeps s0 x0) :
    Keeps s0 (cohServe x0 x1) := by
  unfold cohServe
  with_reducible repeat' first | assumption | apply refuse_keeps | apply serveHome_keeps | extract_lets | (apply Keeps.ite' <;> intro _) | split

theorem keepShared_keeps {s0 : State} {x0 : State} {x1} {x2} (hx0 : Keeps s0 x0) :
    Keeps s0 (keepShared x0 x1 x2) := by
  unfold keepShared
  with_reducible repeat' first | assumption | apply setHome_keeps | (apply Keeps.ite' <;> intro _) | split

theorem homeForwards_keeps {s0 : State} {x0 : State} {x1} {x2} (hx0 : Keeps s0 x0) :
    Keeps s0 (homeForwards x0 x1 x2) := by
  unfold homeForwards
  with_reducible repeat' first | assumption | apply deliverOn_keeps | apply sendRouted_keeps | extract_lets | (apply Keeps.ite' <;> intro _)

theorem snoopDone_keeps {s0 : State} {x0 : State} {x1} {x2} {x3} {x4} (hx0 : Keeps s0 x0) :
    Keeps s0 (snoopDone x0 x1 x2 x3 x4) := by
  unfold snoopDone
  with_reducible repeat' first | assumption | apply applyWrite_keeps | apply homeForwards_keeps | apply keepShared_keeps | apply onTx_keeps | apply removeHolder_keeps | extract_lets | (apply Keeps.ite' <;> intro _)

theorem snoopAnswer_keeps {s0 : State} {x0 : State} {x1} {x2} (hx0 : Keeps s0 x0) :
    Keeps s0 (snoopAnswer x0 x1 x2) := by
  unfold snoopAnswer
  with_reducible repeat' first | assumption | apply onHome_keeps | apply onTx_keeps | apply progressTx_keeps | apply refuse_keeps | apply snoopDone_keeps | extract_lets | (apply Keeps.ite' <;> intro _) | split

theorem cohMessage_keeps {s0 : State} {x0 : State} {x1} (hx0 : Keeps s0 x0) :
    Keeps s0 (cohMessage x0 x1) := by
  unfold cohMessage
  with_reducible repeat' first | assumption | apply answer_keeps | apply applyReq_keeps1 | apply applyWrite_keeps | apply onTx_keeps | apply refuse_keeps | apply serveHome_keeps | apply snoopAnswer_keeps | extract_lets | (apply Keeps.ite' <;> intro _) | split

theorem memberAck_keeps {s0 : State} {x0 : State} {x1} (hx0 : Keeps s0 x0) :
    Keeps s0 (memberAck x0 x1) := by
  unfold memberAck
  with_reducible repeat' first | assumption | apply sendFabric_keeps

theorem endDelivery_keeps {s0 : State} {x0 : State} {x1} (hx0 : Keeps s0 x0) :
    Keeps s0 (endDelivery x0 x1) := by
  unfold endDelivery
  with_reducible repeat' first | assumption | apply memberAck_keeps | apply onHome_keeps | extract_lets | (apply Keeps.ite' <;> intro _)

theorem devSnoop_keeps {s0 : State} {x0 : State} {x1} (hx0 : Keeps s0 x0) :
    Keeps s0 (devSnoop x0 x1) := by
  unfold devSnoop
  with_reducible repeat' first | assumption | apply sendRouted_keeps

theorem cohReplay_keeps {s0 : State} {x0 : State} {x1} {x2} (hx0 : Keeps s0 x0) :
    Keeps s0 (cohReplay x0 x1 x2) := by
  unfold cohReplay
  with_reducible repeat' first | assumption | apply sendResponse_keeps | extract_lets | (apply Keeps.ite' <;> intro _)

theorem deliverSnoop_keeps {s0 : State} {x0 : State} {x1} (hx0 : Keeps s0 x0) :
    Keeps s0 (deliverSnoop x0 x1) := by
  unfold deliverSnoop
  with_reducible repeat' first | assumption | apply deliverOn_keeps | apply memberAck_keeps | apply onHome_keeps | apply forAll_keeps | extract_lets | (apply Keeps.ite' <;> intro _) | intro _

theorem snoopArrives_keeps {s0 : State} {x0 : State} {x1} {x2} {x3} (hx0 : Keeps s0 x0) :
    KeepsAns s0 (snoopArrives x0 x1 x2 x3) := by
  unfold snoopArrives
  with_reducible repeat' first | assumption | apply KeepsAns.next | apply countDiscard_keeps | apply countLink_keeps | apply deliverSnoop_keeps | apply notEnabled_keeps | extract_lets | (apply KeepsAns.ite <;> intro _)

theorem execSnpFwdX_keeps {s0 : State} {x0} {x1} {x2 : State} (hx2 : Keeps s0 x2) :
    KeepsAns s0 (execSnpFwdX x0 x1 x2) := by
  unfold execSnpFwdX
  with_reducible repeat' first | assumption | apply snoopArrives_keeps

theorem recordSnoop_keeps {s0 : State} {x0 : State} {x1} {x2} {x3} (hx0 : Keeps s0 x0) :
    Keeps s0 (recordSnoop x0 x1 x2 x3) := by
  unfold recordSnoop
  with_reducible repeat' first | assumption | apply ashLimited_keeps

theorem snoopLate_keeps {s0 : State} {x0 : State} {x1} {x2} {x3} (hx0 : Keeps s0 x0) :
    Keeps s0 (snoopLate x0 x1 x2 x3) := by
  unfold snoopLate
  with_reducible repeat' first | assumption | apply countCoh_keeps | apply onHome_keeps | apply onTx_keeps | apply progressTx_keeps | apply recordSnoop_keeps | apply removeHolder_keeps | apply setHome_keeps | apply snoopDone_keeps | apply transmitSnoop_keeps | extract_lets | (apply Keeps.ite' <;> intro _) | split

theorem deliveryLate_keeps {s0 : State} {x0 : State} {x1} (hx0 : Keeps s0 x0) :
    Keeps s0 (deliveryLate x0 x1) := by
  unfold deliveryLate
  with_reducible repeat' first | assumption | apply deliverOn_keeps | apply endDelivery_keeps | apply onHome_keeps | apply recordSnoop_keeps | extract_lets | (apply Keeps.ite' <;> intro _)

theorem execSnpDown_keeps {s0 : State} {x0} {x1} {x2 : State} (hx2 : Keeps s0 x2) :
    KeepsAns s0 (execSnpDown x0 x1 x2) := by
  unfold execSnpDown
  with_reducible repeat' first | assumption | apply snoopArrives_keeps

theorem execPendResend_keeps {s0 : State} {x0} {x1} {x2 : State} (hx2 : Keeps s0 x2) :
    KeepsAns s0 (execPendResend x0 x1 x2) := by
  unfold execPendResend
  with_reducible repeat' first | assumption | apply KeepsAns.next | apply countCoh_keeps | apply notEnabled_keeps | apply onTx_keeps | apply transmitSnoop_keeps | extract_lets | (apply KeepsAns.ite <;> intro _) | split

theorem execSnpFwdS_keeps {s0 : State} {x0} {x1} {x2 : State} (hx2 : Keeps s0 x2) :
    KeepsAns s0 (execSnpFwdS x0 x1 x2) := by
  unfold execSnpFwdS
  with_reducible repeat' first | assumption | apply snoopArrives_keeps

theorem execSnpInv_keeps {s0 : State} {x0} {x1} {x2 : State} (hx2 : Keeps s0 x2) :
    KeepsAns s0 (execSnpInv x0 x1 x2) := by
  unfold execSnpInv
  with_reducible repeat' first | assumption | apply snoopArrives_keeps

theorem execSnpDev_keeps {s0 : State} {x0} {x1} {x2 : State} (hx2 : Keeps s0 x2) :
    KeepsAns s0 (execSnpDev x0 x1 x2) := by
  unfold execSnpDev
  with_reducible repeat' first | assumption | apply snoopArrives_keeps

theorem execFwdData_keeps {s0 : State} {x0} {x1} {x2 : State} (hx2 : Keeps s0 x2) :
    KeepsAns s0 (execFwdData x0 x1 x2) := by
  unfold execFwdData
  with_reducible repeat' first | assumption | apply KeepsAns.next | apply countLink_keeps | apply deliverOn_keeps | apply notEnabled_keeps | apply sendRouted_keeps | apply snoopArrives_keeps | extract_lets | (apply KeepsAns.ite <;> intro _)

theorem execCutoffExpire_keeps {s0 : State} {x0} {x1 : State} (hx1 : Keeps s0 x1) :
    KeepsAns s0 (execCutoffExpire x0 x1) := by
  unfold execCutoffExpire
  with_reducible repeat' first | assumption | apply KeepsAns.next | apply notEnabled_keeps | apply onHome_keeps | extract_lets | (apply KeepsAns.ite <;> intro _)

end Sys2Proof.Machine
end

