-- ==== Sys2Proof/Laws/KeepsComb.lean ====
section
/-! SUPPORT. What every operation of Machine/Comb.lean leaves as the law Keeps says (Laws/Keeps.lean). -/

namespace Sys2Proof.Machine

theorem groupLpa_keeps {s0 : State} {x0 : State} {x1} {x2} {x3} (hx0 : Keeps s0 x0) :
    KeepsFst s0 (groupLpa x0 x1 x2 x3) := by
  unfold groupLpa
  with_reducible repeat' first | assumption | apply xlateTry_keeps | (apply Keeps.ofFst; assumption) | split | simp only [KeepsFst.pair_iff]

theorem groupLpa_keeps1 {s0 : State} {x0 : State} {x1} {x2} {x3} (hx0 : Keeps s0 x0) :
    Keeps s0 (groupLpa x0 x1 x2 x3).1 := groupLpa_keeps hx0

theorem addRdy_keeps {s0 : State} {x0 : State} {x1} (hx0 : Keeps s0 x0) :
    KeepsFst s0 (addRdy x0 x1) := by
  unfold addRdy
  with_reducible repeat' first | assumption | apply applyAtomic_keeps1 | apply groupLpa_keeps | apply meter_keeps | apply prepWrite_keeps1 | (apply Keeps.ofFst; assumption) | extract_lets | (apply KeepsFst.ite <;> intro _) | split | simp only [KeepsFst.pair_iff]

theorem addRdy_keeps1 {s0 : State} {x0 : State} {x1} (hx0 : Keeps s0 x0) :
    Keeps s0 (addRdy x0 x1).1 := addRdy_keeps hx0

theorem sendDeliver_keeps {s0 : State} {x0 : State} {x1} {x2} {x3} {x4} {x5} (hx0 : Keeps s0 x0) :
    Keeps s0 (sendDeliver x0 x1 x2 x3 x4 x5) := by
  unfold sendDeliver
  with_reducible repeat' first | assumption | apply sendFabric_keeps | apply forAll_keeps | extract_lets | intro _

theorem onReg_keeps {s0 : State} {x0 : State} {x1} {x2} (hx0 : Keeps s0 x0) :
    Keeps s0 (onReg x0 x1 x2) := by
  unfold onReg
  with_reducible repeat' first | assumption | apply onChim_keeps

theorem closeRound_keeps {s0 : State} {x0 : State} {x1} {x2} (hx0 : Keeps s0 x0) :
    Keeps s0 (closeRound x0 x1 x2) := by
  unfold closeRound
  with_reducible repeat' first | assumption | apply onReg_keeps

theorem endReg_keeps {s0 : State} {x0 : State} {x1} (hx0 : Keeps s0 x0) :
    Keeps s0 (endReg x0 x1) := by
  unfold endReg
  with_reducible repeat' first | assumption | apply onChim_keeps | apply serveHome_keeps | split

theorem noteFail_keeps {s0 : State} {x0 : State} {x1} {x2} {x3} (hx0 : Keeps s0 x0) :
    Keeps s0 (noteFail x0 x1 x2 x3) := by
  unfold noteFail
  with_reducible repeat' first | assumption | apply ashLimited_keeps | apply closeRound_keeps | apply endReg_keeps | apply serveHome_keeps | extract_lets | (apply Keeps.ite' <;> intro _) | split

theorem failRound_keeps {s0 : State} {x0 : State} {x1} {x2} {x3} {x4} (hx0 : Keeps s0 x0) :
    Keeps s0 (failRound x0 x1 x2 x3 x4) := by
  unfold failRound
  with_reducible repeat' first | assumption | apply noteFail_keeps | apply sendDeliver_keeps | apply sendFabric_keeps | extract_lets | (apply Keeps.ite' <;> intro _) | split

theorem onRound_keeps {s0 : State} {x0 : State} {x1} {x2} {x3} (hx0 : Keeps s0 x0) :
    Keeps s0 (onRound x0 x1 x2 x3) := by
  unfold onRound
  with_reducible repeat' first | assumption | apply onReg_keeps

theorem absorb_keeps {s0 : State} {x0 : State} {x1} {x2} {x3} (hx0 : Keeps s0 x0) :
    KeepsFst s0 (absorb x0 x1 x2 x3) := by
  unfold absorb
  with_reducible repeat' first | assumption | apply onRound_keeps | extract_lets | (apply KeepsFst.ite <;> intro _) | split | simp only [KeepsFst.pair_iff]

theorem absorb_keeps1 {s0 : State} {x0 : State} {x1} {x2} {x3} (hx0 : Keeps s0 x0) :
    Keeps s0 (absorb x0 x1 x2 x3).1 := absorb_keeps hx0

theorem serveContrib_keeps {s0 : State} {x0 : State} {x1} (hx0 : Keeps s0 x0) :
    Keeps s0 (serveContrib x0 x1) := by
  unfold serveContrib
  with_reducible repeat' first | assumption | apply absorb_keeps | apply answer_keeps | apply countDiscard_keeps | apply failRound_keeps | apply refuse_keeps | (apply Keeps.ofFst; assumption) | extract_lets | (apply Keeps.ite' <;> intro _) | split

theorem writeSlot_keeps {s0 : State} {x0 : State} {x1} {x2} {x3} {x4} {x5} (hx0 : Keeps s0 x0) :
    KeepsFst s0 (writeSlot x0 x1 x2 x3 x4 x5) := by
  unfold writeSlot
  with_reducible repeat' first | assumption | (apply Keeps.ofPair; assumption) | apply applyWrite_keeps | apply groupLpa_keeps | apply meterStore_keeps | apply prepWrites_keeps1 | apply forAll_keeps | apply foldl_keepsFst | (apply Keeps.ofFst; assumption) | extract_lets | (apply KeepsFst.ite <;> intro _) | split | intro _ | simp only [KeepsFst.pair_iff] | dsimp +zetaDelta only

theorem writeSlot_keeps1 {s0 : State} {x0 : State} {x1} {x2} {x3} {x4} {x5} (hx0 : Keeps s0 x0) :
    Keeps s0 (writeSlot x0 x1 x2 x3 x4 x5).1 := writeSlot_keeps hx0

theorem serveDeliver_keeps {s0 : State} {x0 : State} {x1} (hx0 : Keeps s0 x0) :
    KeepsFst s0 (serveDeliver x0 x1) := by
  unfold serveDeliver
  with_reducible repeat' first | assumption | apply addRdy_keeps | apply answer_keeps | apply closeRound_keeps | apply countDiscard_keeps | apply failRound_keeps | apply onRound_keeps | apply refuse_keeps | apply sendDeliver_keeps | apply writeSlot_keeps | (apply Keeps.ofFst; assumption) | extract_lets | (apply Keeps.ite' <;> intro _) | (apply KeepsFst.ite <;> intro _) | split | simp only [KeepsFst.pair_iff] | dsimp +zetaDelta only

theorem serveDeliver_keeps1 {s0 : State} {x0 : State} {x1} (hx0 : Keeps s0 x0) :
    Keeps s0 (serveDeliver x0 x1).1 := serveDeliver_keeps hx0

theorem regRoom_keeps {s0 : State} {x0 : State} (hx0 : Keeps s0 x0) :
    KeepsFst s0 (regRoom x0) := by
  unfold regRoom
  with_reducible repeat' first | assumption | apply endReg_keeps | extract_lets | (apply KeepsFst.ite <;> intro _) | split | simp only [KeepsFst.pair_iff]

theorem regRoom_keeps1 {s0 : State} {x0 : State} (hx0 : Keeps s0 x0) :
    Keeps s0 (regRoom x0).1 := regRoom_keeps hx0

theorem register_keeps {s0 : State} {x0 : State} {x1} {x2} {x3} (hx0 : Keeps s0 x0) :
    KeepsFst s0 (register x0 x1 x2 x3) := by
  unfold register
  with_reducible repeat' first | assumption | apply groupLpa_keeps | apply locate_keeps | apply onChim_keeps | apply readJva_keeps | apply regRoom_keeps | (apply Keeps.ofFst; assumption) | extract_lets | (apply KeepsFst.ite <;> intro _) | split | simp only [KeepsFst.pair_iff]

theorem register_keeps1 {s0 : State} {x0 : State} {x1} {x2} {x3} (hx0 : Keeps s0 x0) :
    Keeps s0 (register x0 x1 x2 x3).1 := register_keeps hx0

theorem contribute_keeps {s0 : State} {x0 : State} {x1} {x2} {x3} {x4} (hx0 : Keeps s0 x0) :
    KeepsFst s0 (contribute x0 x1 x2 x3 x4) := by
  unfold contribute
  with_reducible repeat' first | assumption | apply absorb_keeps | apply countDiscard_keeps | apply onReg_keeps | apply register_keeps | (apply Keeps.ofFst; assumption) | extract_lets | (apply Keeps.ite' <;> intro _) | (apply KeepsFst.ite <;> intro _) | split | simp only [KeepsFst.pair_iff]

theorem contribute_keeps1 {s0 : State} {x0 : State} {x1} {x2} {x3} {x4} (hx0 : Keeps s0 x0) :
    Keeps s0 (contribute x0 x1 x2 x3 x4).1 := contribute_keeps hx0

theorem execRoundComplete_keeps {s0 : State} {x0} {x1} {x2 : State} (hx2 : Keeps s0 x2) :
    KeepsAns s0 (execRoundComplete x0 x1 x2) := by
  unfold execRoundComplete
  with_reducible repeat' first | assumption | (apply Keeps.ofPair; assumption) | apply KeepsAns.next | apply addRdy_keeps | apply bump_keeps | apply closeRound_keeps | apply failRound_keeps | apply notEnabled_keeps | apply onRound_keeps | apply sendDeliver_keeps | apply sendFabric_keeps | apply writeSlot_keeps | apply forAll_keeps | apply foldl_keepsFst | (apply Keeps.ofFst; assumption) | extract_lets | (apply KeepsAns.ite <;> intro _) | split | intro _ | simp only [KeepsFst.pair_iff] | dsimp +zetaDelta only

theorem execAcomb_keeps {s0 : State} {x0} {x1} {x2 : State} (hx2 : Keeps s0 x2) :
    KeepsAns s0 (execAcomb x0 x1 x2) := by
  unfold execAcomb
  with_reducible repeat' first | assumption | apply KeepsAns.next | apply contribute_keeps1 | apply issue_keeps | apply onGot_keeps | apply onThread_keeps | extract_lets | split | intro _

theorem execRoundLimitExpire_keeps {s0 : State} {x0} {x1} {x2 : State} (hx2 : Keeps s0 x2) :
    KeepsAns s0 (execRoundLimitExpire x0 x1 x2) := by
  unfold execRoundLimitExpire
  with_reducible repeat' first | assumption | apply KeepsAns.next | apply failRound_keeps | apply notEnabled_keeps | extract_lets | (apply KeepsAns.ite <;> intro _) | split

end Sys2Proof.Machine
end

