-- ==== Sys2Proof/Laws/KeepsEntry.lean ====
section
/-! SUPPORT. What every operation of Machine/Entry.lean leaves as the law Keeps says (Laws/Keeps.lean). -/

namespace Sys2Proof.Machine

theorem answerStatus_keeps {s0 : State} {x0 : State} {x1} {x2} (hx0 : Keeps s0 x0) :
    Keeps s0 (answerStatus x0 x1 x2) := by
  unfold answerStatus
  with_reducible repeat' first | assumption | apply answer_keeps | (apply Keeps.ite' <;> intro _)

theorem forward_keeps {s0 : State} {x0 : State} {x1} {x2} {x3} (hx0 : Keeps s0 x0) :
    Keeps s0 (forward x0 x1 x2 x3) := by
  unfold forward
  with_reducible repeat' first | assumption | apply onFwin_keeps | apply sendRouted_keeps | apply forAll_keeps

theorem beginAdmitted_keeps {s0 : State} {x0 : State} {x1} (hx0 : Keeps s0 x0) :
    KeepsFst s0 (beginAdmitted x0 x1) := by
  unfold beginAdmitted
  with_reducible repeat' first | assumption | apply onExt_keeps | extract_lets | (apply KeepsFst.ite <;> intro _) | simp only [KeepsFst.pair_iff]

theorem beginAdmitted_keeps1 {s0 : State} {x0 : State} {x1} (hx0 : Keeps s0 x0) :
    Keeps s0 (beginAdmitted x0 x1).1 := beginAdmitted_keeps hx0

theorem confirm_keeps {s0 : State} {x0 : State} {x1} (hx0 : Keeps s0 x0) :
    KeepsSnd s0 (confirm x0 x1) := by
  unfold confirm
  with_reducible repeat' first | assumption | apply countTrn_keeps | apply xlate_keeps | (apply Keeps.ofSnd; assumption) | extract_lets | (apply KeepsSnd.ite <;> intro _) | split | simp only [KeepsSnd.pair_iff] | dsimp +zetaDelta only

theorem confirm_keeps1 {s0 : State} {x0 : State} {x1} (hx0 : Keeps s0 x0) :
    Keeps s0 (confirm x0 x1).2 := confirm_keeps hx0

theorem enterWindow_keeps {s0 : State} {x0 : State} {x1} (hx0 : Keeps s0 x0) :
    KeepsFst s0 (enterWindow x0 x1) := by
  unfold enterWindow
  with_reducible repeat' first | assumption | apply makeResultRoom_keeps1 | apply makeWindowRoom_keeps1 | apply onFwin_keeps | apply onNet_keeps | extract_lets | (apply KeepsFst.ite <;> intro _) | simp only [KeepsFst.pair_iff]

theorem enterWindow_keeps1 {s0 : State} {x0 : State} {x1} (hx0 : Keeps s0 x0) :
    Keeps s0 (enterWindow x0 x1).1 := enterWindow_keeps hx0

theorem police_keeps {s0 : State} {x0 : State} {x1} {x2} (hx0 : Keeps s0 x0) :
    KeepsFst s0 (police x0 x1 x2) := by
  unfold police
  with_reducible repeat' first | assumption | apply countLink_keeps | apply onLink_keeps | apply onLinks_keeps | extract_lets | (apply Keeps.ite' <;> intro _) | (apply KeepsFst.ite <;> intro _) | split | simp only [KeepsFst.pair_iff]

theorem police_keeps1 {s0 : State} {x0 : State} {x1} {x2} (hx0 : Keeps s0 x0) :
    Keeps s0 (police x0 x1 x2).1 := police_keeps hx0

theorem arrive_keeps {s0 : State} {x0 : State} {x1} {x2} (hx0 : Keeps s0 x0) :
    KeepsFst s0 (arrive x0 x1 x2) := by
  unfold arrive
  with_reducible repeat' first | assumption | apply countDiscard_keeps | apply countLink_keeps | apply police_keeps | apply turnAway_keeps | (apply Keeps.ofFst; assumption) | extract_lets | (apply KeepsFst.ite <;> intro _) | split | simp only [KeepsFst.pair_iff]

theorem arrive_keeps1 {s0 : State} {x0 : State} {x1} {x2} (hx0 : Keeps s0 x0) :
    Keeps s0 (arrive x0 x1 x2).1 := arrive_keeps hx0

theorem assemble_keeps {s0 : State} {x0 : State} {x1} (hx0 : Keeps s0 x0) :
    KeepsFst s0 (assemble x0 x1) := by
  unfold assemble
  with_reducible repeat' first | assumption | apply onNet_keeps | apply turnAway_keeps | extract_lets | (apply KeepsFst.ite <;> intro _) | split | simp only [KeepsFst.pair_iff]

theorem assemble_keeps1 {s0 : State} {x0 : State} {x1} (hx0 : Keeps s0 x0) :
    Keeps s0 (assemble x0 x1).1 := assemble_keeps hx0

end Sys2Proof.Machine
end

