-- ==== Sys2Proof/Laws/KeepsWindows.lean ====
section
/-! SUPPORT. What every operation of Machine/Windows.lean leaves as the law Keeps says (Laws/Keeps.lean). -/

namespace Sys2Proof.Machine

theorem writeWinHeader_keeps {s0 : State} {x0 : State} {x1} {x2} {x3} (hx0 : Keeps s0 x0) :
    Keeps s0 (writeWinHeader x0 x1 x2 x3) := by
  unfold writeWinHeader
  with_reducible repeat' first | assumption | apply serveHome_keeps

theorem dropWindow_keeps {s0 : State} {x0 : State} {x1} {x2} (hx0 : Keeps s0 x0) :
    Keeps s0 (dropWindow x0 x1 x2) := by
  unfold dropWindow
  with_reducible repeat' first | assumption | apply onCtxN_keeps | apply onSchedN_keeps | apply onStv_keeps | apply writeWinHeader_keeps | split

theorem dropWindowsIn_keeps {s0 : State} {x0 : State} {x1} {x2} (hx0 : Keeps s0 x0) :
    Keeps s0 (dropWindowsIn x0 x1 x2) := by
  unfold dropWindowsIn
  with_reducible repeat' first | assumption | apply dropWindow_keeps | apply forAll_keeps | extract_lets | split | intro _

theorem winPages_keeps {s0 : State} {x0 : State} {x1} {x2} {x3} {x4} (hx0 : Keeps s0 x0) :
    KeepsSnd s0 (winPages x0 x1 x2 x3 x4) := by
  induction x2 generalizing x0 x3 x4 with
  | zero => exact hx0
  | succ n ih =>
    unfold winPages
    have h := xlate_keeps1 (x1 := x1) (x2 := x3) (x3 := 1) hx0
    dsimp only
    split
    · exact h
    · exact h
    · exact h
    · split
      · exact ih h
      · exact h

theorem winPages_keeps1 {s0 : State} {x0 : State} {x1} {x2} {x3} {x4} (hx0 : Keeps s0 x0) :
    Keeps s0 (winPages x0 x1 x2 x3 x4).2 := winPages_keeps hx0

theorem openWindow_keeps {s0 : State} {x0 : State} {x1} {x2} {x3} (hx0 : Keeps s0 x0) :
    KeepsSnd s0 (openWindow x0 x1 x2 x3) := by
  unfold openWindow
  with_reducible repeat' first | assumption | apply winPages_keeps | (apply Keeps.ofSnd; assumption) | extract_lets | (apply KeepsSnd.ite <;> intro _) | split | simp only [KeepsSnd.pair_iff]

theorem openWindow_keeps1 {s0 : State} {x0 : State} {x1} {x2} {x3} (hx0 : Keeps s0 x0) :
    Keeps s0 (openWindow x0 x1 x2 x3).2 := openWindow_keeps hx0

theorem finishWindow_keeps {s0 : State} {x0 : State} {x1} (hx0 : Keeps s0 x0) :
    Keeps s0 (finishWindow x0 x1) := by
  unfold finishWindow
  with_reducible repeat' first | assumption | apply onCtxN_keeps | apply writeWinHeader_keeps | (apply Keeps.ite' <;> intro _) | split

theorem flagReady_keeps {s0 : State} {x0 : State} {x1} {x2} (hx0 : Keeps s0 x0) :
    KeepsFst s0 (flagReady x0 x1 x2) := by
  unfold flagReady
  with_reducible repeat' first | assumption | apply prepRead_keeps1 | apply prepWrite_keeps | extract_lets | (apply KeepsFst.ite <;> intro _) | simp only [KeepsFst.pair_iff]

theorem flagReady_keeps1 {s0 : State} {x0 : State} {x1} {x2} (hx0 : Keeps s0 x0) :
    Keeps s0 (flagReady x0 x1 x2).1 := flagReady_keeps hx0

theorem finishFlag_keeps {s0 : State} {x0 : State} {x1} {x2} {x3} {x4} {x5} {x6} (hx0 : Keeps s0 x0) :
    Keeps s0 (finishFlag x0 x1 x2 x3 x4 x5 x6) := by
  unfold finishFlag
  with_reducible repeat' first | assumption | apply homeStore_keeps | extract_lets | (apply Keeps.ite' <;> intro _)

theorem finishSlot_keeps {s0 : State} {x0 : State} {x1} {x2} (hx0 : Keeps s0 x0) :
    Keeps s0 (finishSlot x0 x1 x2) := by
  unfold finishSlot
  with_reducible repeat' first | assumption | apply finishFlag_keeps | apply flagReady_keeps1 | apply onWin_keeps | extract_lets | (apply Keeps.ite' <;> intro _) | split

theorem finishSlots_keeps {s0 : State} {x0 : State} (hx0 : Keeps s0 x0) :
    Keeps s0 (finishSlots x0) := by
  unfold finishSlots
  with_reducible repeat' first | assumption | apply finishSlot_keeps | apply forAll_keeps | extract_lets | split | intro _

theorem closeWindow_keeps {s0 : State} {x0 : State} {x1} {x2} (hx0 : Keeps s0 x0) :
    Keeps s0 (closeWindow x0 x1 x2) := by
  unfold closeWindow
  with_reducible repeat' first | assumption | apply finishSlots_keeps | apply finishWindow_keeps | apply onSchedN_keeps | apply onWin_keeps | apply writeWinHeader_keeps | extract_lets | (apply Keeps.ite' <;> intro _) | split

end Sys2Proof.Machine
end

