-- ==== Sys2Proof/Laws/KeepsLease.lean ====
section
/-! SUPPORT. What every operation of Machine/Lease.lean leaves as the law Keeps says (Laws/Keeps.lean). -/

namespace Sys2Proof.Machine

theorem countLse_keeps {s0 : State} {x0 : State} {x1} (hx0 : Keeps s0 x0) :
    Keeps s0 (countLse x0 x1) := by
  unfold countLse
  with_reducible repeat' first | assumption | apply onExt_keeps

theorem publishNow_keeps {s0 : State} {x0 : State} {x1} {x2} {x3} (hx0 : Keeps s0 x0) :
    KeepsFst s0 (publishNow x0 x1 x2 x3) := by
  unfold publishNow
  with_reducible repeat' first | assumption | apply countLse_keeps | apply freeVersions_keeps | apply onRegion_keeps | apply prepReads_keeps1 | extract_lets | (apply KeepsFst.ite <;> intro _) | split | simp only [KeepsFst.pair_iff]

theorem publishNow_keeps1 {s0 : State} {x0 : State} {x1} {x2} {x3} (hx0 : Keeps s0 x0) :
    Keeps s0 (publishNow x0 x1 x2 x3).1 := publishNow_keeps hx0

theorem servePublish_keeps {s0 : State} {x0 : State} {x1} (hx0 : Keeps s0 x0) :
    Keeps s0 (servePublish x0 x1) := by
  unfold servePublish
  with_reducible repeat' first | assumption | apply answer_keeps | apply onRegion_keeps | apply publishNow_keeps | (apply Keeps.ofFst; assumption) | extract_lets | split

theorem takeLease_keeps {s0 : State} {x0 : State} (hx0 : Keeps s0 x0) :
    KeepsFst s0 (takeLease x0) := by
  unfold takeLease
  with_reducible repeat' first | assumption | apply onExt_keeps | extract_lets | simp only [KeepsFst.pair_iff]

theorem takeLease_keeps1 {s0 : State} {x0 : State} (hx0 : Keeps s0 x0) :
    Keeps s0 (takeLease x0).1 := takeLease_keeps hx0

theorem onExtN_keeps {s0 : State} {x0 : State} {x1} {x2} (hx0 : Keeps s0 x0) :
    Keeps s0 (onExtN x0 x1 x2) := by
  unfold onExtN
  with_reducible repeat' first | assumption | apply onExt_keeps

theorem leaseTake_keeps {s0 : State} {x0 : State} {x1} (hx0 : Keeps s0 x0) :
    Keeps s0 (leaseTake x0 x1) := by
  unfold leaseTake
  with_reducible repeat' first | assumption | apply answer_keeps | apply countLse_keeps | apply onExtN_keeps | apply refuse_keeps | apply takeLease_keeps1 | extract_lets | (apply Keeps.ite' <;> intro _)

theorem leaseAgain_keeps {s0 : State} {x0 : State} {x1} (hx0 : Keeps s0 x0) :
    Keeps s0 (leaseAgain x0 x1) := by
  unfold leaseAgain
  with_reducible repeat' first | assumption | apply answer_keeps | apply countLse_keeps | apply onExtN_keeps | apply onExt_keeps | apply refuse_keeps | extract_lets | split

theorem invalidateLine_keeps {s0 : State} {x0 : State} {x1} (hx0 : Keeps s0 x0) :
    Keeps s0 (invalidateLine x0 x1) := by
  unfold invalidateLine
  with_reducible repeat' first | assumption | apply dropTx_keeps | apply openTx_keeps | apply setHome_keeps | extract_lets | (apply Keeps.ite' <;> intro _) | split

theorem releasePins_keeps {s0 : State} {x0 : State} {x1} (hx0 : Keeps s0 x0) :
    Keeps s0 (releasePins x0 x1) := by
  unfold releasePins
  with_reducible repeat' first | assumption | apply onT0Slice_keeps

theorem endLease_keeps {s0 : State} {x0 : State} {x1} {x2} (hx0 : Keeps s0 x0) :
    Keeps s0 (endLease x0 x1 x2) := by
  unfold endLease
  with_reducible repeat' first | assumption | apply ashExempt_keeps | apply checkRings_keeps | apply dropWindowsIn_keeps | apply invalidateLine_keeps | apply onExtN_keeps | apply releasePins_keeps | apply forAll_keeps

theorem endSnap_keeps {s0 : State} {x0 : State} {x1} (hx0 : Keeps s0 x0) :
    Keeps s0 (endSnap x0 x1) := by
  unfold endSnap
  with_reducible repeat' first | assumption | apply freeVersions_keeps | apply onExt_keeps

theorem leaseGive_keeps {s0 : State} {x0 : State} {x1} (hx0 : Keeps s0 x0) :
    Keeps s0 (leaseGive x0 x1) := by
  unfold leaseGive
  with_reducible repeat' first | assumption | apply answer_keeps | apply endLease_keeps | apply endSnap_keeps | apply refuse_keeps | split

theorem leaseAsk_keeps {s0 : State} {x0 : State} {x1} (hx0 : Keeps s0 x0) :
    Keeps s0 (leaseAsk x0 x1) := by
  unfold leaseAsk
  with_reducible repeat' first | assumption | apply answer_keeps | apply refuse_keeps | split

theorem serveLease_keeps {s0 : State} {x0 : State} {x1} (hx0 : Keeps s0 x0) :
    Keeps s0 (serveLease x0 x1) := by
  unfold serveLease
  with_reducible repeat' first | assumption | apply leaseAgain_keeps | apply leaseAsk_keeps | apply leaseGive_keeps | apply leaseTake_keeps | apply refuse_keeps | split

theorem regionMake_keeps {s0 : State} {x0 : State} {x1} (hx0 : Keeps s0 x0) :
    Keeps s0 (regionMake x0 x1) := by
  unfold regionMake
  with_reducible repeat' first | assumption | apply answer_keeps | apply onExt_keeps | apply refuse_keeps | extract_lets | (apply Keeps.ite' <;> intro _) | split

theorem regionOpen_keeps {s0 : State} {x0 : State} {x1} (hx0 : Keeps s0 x0) :
    Keeps s0 (regionOpen x0 x1) := by
  unfold regionOpen
  with_reducible repeat' first | assumption | apply answer_keeps | apply countLse_keeps | apply freeVersions_keeps | apply onExt_keeps | apply refuse_keeps | apply takeLease_keeps1 | extract_lets | (apply Keeps.ite' <;> intro _) | split | dsimp +zetaDelta only

theorem regionClose_keeps {s0 : State} {x0 : State} {x1} (hx0 : Keeps s0 x0) :
    Keeps s0 (regionClose x0 x1) := by
  unfold regionClose
  with_reducible repeat' first | assumption | apply answer_keeps | apply endSnap_keeps | apply refuse_keeps | extract_lets | split

theorem regionAsk_keeps {s0 : State} {x0 : State} {x1} (hx0 : Keeps s0 x0) :
    Keeps s0 (regionAsk x0 x1) := by
  unfold regionAsk
  with_reducible repeat' first | assumption | apply answer_keeps | apply refuse_keeps | (apply Keeps.ite' <;> intro _) | split

theorem destroyRegion_keeps {s0 : State} {x0 : State} {x1} (hx0 : Keeps s0 x0) :
    Keeps s0 (destroyRegion x0 x1) := by
  unfold destroyRegion
  with_reducible repeat' first | assumption | apply freeVersions_keeps | apply onRegion_keeps | apply startCopy_keeps | extract_lets | (apply Keeps.ite' <;> intro _) | split

theorem regionDestroy_keeps {s0 : State} {x0 : State} {x1} (hx0 : Keeps s0 x0) :
    Keeps s0 (regionDestroy x0 x1) := by
  unfold regionDestroy
  with_reducible repeat' first | assumption | apply answer_keeps | apply destroyRegion_keeps | apply refuse_keeps | extract_lets | (apply Keeps.ite' <;> intro _) | split

theorem serveSnap_keeps {s0 : State} {x0 : State} {x1} (hx0 : Keeps s0 x0) :
    Keeps s0 (serveSnap x0 x1) := by
  unfold serveSnap
  with_reducible repeat' first | assumption | apply refuse_keeps | apply regionAsk_keeps | apply regionClose_keeps | apply regionDestroy_keeps | apply regionMake_keeps | apply regionOpen_keeps | split

end Sys2Proof.Machine
end

