-- ==== Sys2Proof/Laws/KeepsRows.lean ====
section
/-! SUPPORT. What every operation of Machine/Rows.lean leaves as the law Keeps says (Laws/Keeps.lean). -/

namespace Sys2Proof.Machine

theorem park_keeps {s0 : State} {x0 : State} {x1} {x2} (hx0 : Keeps s0 x0) :
    Keeps s0 (park x0 x1 x2) := by
  unfold park
  with_reducible repeat' first | assumption | apply onTrn_keeps

theorem updateRow_keeps {s0 : State} {x0 : State} {x1} {x2} {x3} {x4} {x5} (hx0 : Keeps s0 x0) :
    Keeps s0 (updateRow x0 x1 x2 x3 x4 x5) := by
  unfold updateRow
  with_reducible repeat' first | assumption | apply applyWrite_keeps | apply bump_keeps | apply meterLine_keeps | apply onSlice_keeps | apply forAll_keeps | extract_lets | split | intro _

theorem serveScatter_keeps {s0 : State} {x0 : State} {x1} (hx0 : Keeps s0 x0) :
    Keeps s0 (serveScatter x0 x1) := by
  unfold serveScatter
  with_reducible repeat' first | assumption | apply answer_keeps | apply park_keeps | apply prepWrites_keeps1 | apply refuse_keeps | apply updateRow_keeps | extract_lets | (apply Keeps.ite' <;> intro _) | split

end Sys2Proof.Machine
end

