-- ==== Sys2Proof/Laws/KeepsServe.lean ====
section
/-! SUPPORT. What every operation of Machine/Serve.lean leaves as the law Keeps says (Laws/Keeps.lean). -/

namespace Sys2Proof.Machine

theorem serveAny_keeps {s0 : State} {x0 : State} {x1} (hx0 : Keeps s0 x0) :
    Keeps s0 (serveAny x0 x1) := by
  unfold serveAny
  with_reducible repeat' first | assumption | apply cohMessage_keeps | apply cohServe_keeps | apply onTrn_keeps | apply serveHome_keeps | apply serveLease_keeps | apply servePublish_keeps | apply serveScatter_keeps | apply serveSnap_keeps | extract_lets | (apply Keeps.ite' <;> intro _)

theorem serveAdmitted_keeps {s0 : State} {x0 : State} {x1} (hx0 : Keeps s0 x0) :
    Keeps s0 (serveAdmitted x0 x1) := by
  unfold serveAdmitted
  with_reducible repeat' first | assumption | apply beginAdmitted_keeps1 | apply serveAny_keeps | (apply Keeps.ite' <;> intro _)

theorem ownerServe_keeps {s0 : State} {x0 : State} {x1} (hx0 : Keeps s0 x0) :
    Keeps s0 (ownerServe x0 x1) := by
  unfold ownerServe
  with_reducible repeat' first | assumption | apply answerStatus_keeps | apply answer_keeps | apply cohMessage_keeps | apply confirm_keeps | apply dropTables_keeps | apply fetchNeed_keeps | apply forward_keeps | apply park_keeps | apply refuse_keeps | apply serveAdmitted_keeps | apply serveContrib_keeps | apply serveDeliver_keeps | (apply Keeps.ofFst; assumption) | (apply Keeps.ofSnd; assumption) | extract_lets | (apply Keeps.ite' <;> intro _) | split

theorem openCtx_keeps {s0 : State} {x0 : State} {x1} (hx0 : Keeps s0 x0) :
    Keeps s0 (openCtx x0 x1) := by
  unfold openCtx
  with_reducible repeat' first | assumption | apply dropTables_keeps | apply fetchNeed_keeps | apply onCtx_keeps | apply openWindow_keeps | apply park_keeps | apply sendResponse_keeps | apply turnAway_keeps | apply writeWinHeader_keeps | (apply Keeps.ofSnd; assumption) | extract_lets | (apply Keeps.ite' <;> intro _) | split

theorem endPartnerFence_keeps {s0 : State} {x0 : State} {x1} (hx0 : Keeps s0 x0) :
    Keeps s0 (endPartnerFence x0 x1) := by
  unfold endPartnerFence
  with_reducible repeat' first | assumption | apply answer_keeps | apply onNet_keeps

theorem beginFence_keeps {s0 : State} {x0 : State} {x1} (hx0 : Keeps s0 x0) :
    Keeps s0 (beginFence x0 x1) := by
  unfold beginFence
  with_reducible repeat' first | assumption | apply endPartnerFence_keeps | apply onNet_keeps | extract_lets | (apply Keeps.ite' <;> intro _)

theorem beginInval_keeps {s0 : State} {x0 : State} {x1} (hx0 : Keeps s0 x0) :
    Keeps s0 (beginInval x0 x1) := by
  unfold beginInval
  with_reducible repeat' first | assumption | apply closeWindow_keeps | apply invalRange_keeps | apply onTrn_keeps | apply forAll_keeps | extract_lets | split | intro _

theorem toOwner_keeps {s0 : State} {x0 : State} {x1} {x2} (hx0 : Keeps s0 x0) :
    Keeps s0 (toOwner x0 x1 x2) := by
  unfold toOwner
  with_reducible repeat' first | assumption | apply legDest_keeps | apply sendFabric_keeps | apply sendRead_keeps | extract_lets | (apply Keeps.ite' <;> intro _)

theorem agentMessage_keeps {s0 : State} {x0 : State} {x1} (hx0 : Keeps s0 x0) :
    Keeps s0 (agentMessage x0 x1) := by
  unfold agentMessage
  with_reducible repeat' first | assumption | apply cohMessage_keeps | apply endDelivery_keeps | apply legDest_keeps | apply refuse_keeps | apply toOwner_keeps | extract_lets | (apply Keeps.ite' <;> intro _) | split | dsimp +zetaDelta only

theorem tileLeaves_keeps {s0 : State} {x0 : State} {x1} {x2} {x3} (hx0 : Keeps s0 x0) :
    KeepsFst s0 (tileLeaves x0 x1 x2 x3) := by
  induction x3 generalizing x0 x1 x2 with
  | nil => unfold tileLeaves; with_reducible repeat' first | assumption | apply refuse_keeps | apply translate_keeps | (apply Keeps.ofFst; assumption) | apply ih | split | simp only [KeepsFst.pair_iff]
  | cons z zs ih => unfold tileLeaves; with_reducible repeat' first | assumption | apply refuse_keeps | apply translate_keeps | (apply Keeps.ofFst; assumption) | apply ih | split | simp only [KeepsFst.pair_iff]

theorem tileLeaves_keeps1 {s0 : State} {x0 : State} {x1} {x2} {x3} (hx0 : Keeps s0 x0) :
    Keeps s0 (tileLeaves x0 x1 x2 x3).1 := tileLeaves_keeps hx0

theorem localServe_keeps {s0 : State} {x0 : State} {x1} {x2} {x3} (hx0 : Keeps s0 x0) :
    Keeps s0 (localServe x0 x1 x2 x3) := by
  unfold localServe
  with_reducible repeat' first | assumption | apply answerStatus_keeps | apply legDest_keeps | apply refuse_keeps | apply serveAdmitted_keeps | apply toOwner_keeps | extract_lets | split

theorem routeReq_keeps {s0 : State} {x0 : State} {x1} {x2} {x3} (hx0 : Keeps s0 x0) :
    Keeps s0 (routeReq x0 x1 x2 x3) := by
  unfold routeReq
  with_reducible repeat' first | assumption | apply localServe_keeps | apply toOwner_keeps | (apply Keeps.ite' <;> intro _)

theorem askLine_keeps {s0 : State} {x0 : State} {x1} {x2} {x3} (hx0 : Keeps s0 x0) :
    Keeps s0 (askLine x0 x1 x2 x3) := by
  unfold askLine
  with_reducible repeat' first | assumption | apply sendRead_keeps | extract_lets | (apply Keeps.ite' <;> intro _)

theorem gatherTile_keeps {s0 : State} {x0} {x1 : State} {x2} {x3} (hx1 : Keeps s0 x1) :
    Keeps s0 (gatherTile x0 x1 x2 x3) := by
  induction x0 generalizing x1 x2 with
  | zero => exact answer_keeps hx1
  | succ n ih =>
    unfold gatherTile
    dsimp only
    refine Keeps.ite' (fun _ => ?_) (fun _ => ?_)
    · refine Keeps.ite' (fun _ => refuse_keeps hx1) (fun _ => ?_)
      split
      · exact refuse_keeps hx1
      · split
        · rename_i e
          exact park_keeps (Keeps.ofFst e (prepRead_keeps hx1))
        · rename_i e
          have h := Keeps.ofFst e (prepRead_keeps hx1)
          exact Keeps.ite' (fun _ => refuse_keeps h) (fun _ => ih (meterLine_keeps h))
    · split
      · exact Keeps.ite' (fun _ => refuse_keeps (onTrn_keeps hx1)) (fun _ => ih (onTrn_keeps hx1))
      · exact park_keeps (askLine_keeps hx1)

theorem tileBody_keeps {s0 : State} {x0 : State} {x1} (hx0 : Keeps s0 x0) :
    Keeps s0 (tileBody x0 x1) := by
  unfold tileBody
  with_reducible repeat' first | assumption | apply countTrn_keeps | apply gatherTile_keeps | apply legDest_keeps | apply refuse_keeps | apply routeReq_keeps | apply tileLeaves_keeps | (apply Keeps.ofFst; assumption) | extract_lets | (apply Keeps.ite' <;> intro _) | split

theorem partnerBody_keeps {s0 : State} {x0 : State} {x1} (hx0 : Keeps s0 x0) :
    Keeps s0 (partnerBody x0 x1) := by
  unfold partnerBody
  with_reducible repeat' first | assumption | apply agentMessage_keeps | apply beginFence_keeps | apply beginInval_keeps | apply openCtx_keeps | apply refuse_keeps | apply routeReq_keeps | apply tileBody_keeps | apply translate_keeps | (apply Keeps.ofFst; assumption) | extract_lets | (apply Keeps.ite' <;> intro _) | split

theorem resume_keeps {s0 : State} {x0 : State} {x1} (hx0 : Keeps s0 x0) :
    Keeps s0 (resume x0 x1) := by
  unfold resume
  with_reducible repeat' first | assumption | apply ownerServe_keeps | apply partnerBody_keeps | (apply Keeps.ite' <;> intro _)

theorem goOn_keeps {s0 : State} {x0 : State} {x1} (hx0 : Keeps s0 x0) :
    Keeps s0 (goOn x0 x1) := by
  unfold goOn
  with_reducible repeat' first | assumption | apply resume_keeps | apply forAll_keeps | extract_lets | split | intro _

theorem fabricWindow_keeps {s0 : State} {x0 : State} {x1} (hx0 : Keeps s0 x0) :
    Keeps s0 (fabricWindow x0 x1) := by
  unfold fabricWindow
  with_reducible repeat' first | assumption | apply cohReplay_keeps | apply countDiscard_keeps | apply enterWindow_keeps | apply forward_keeps | apply ownerServe_keeps | apply sendResponse_keeps | apply turnAway_keeps | (apply Keeps.ofFst; assumption) | extract_lets | (apply Keeps.ite' <;> intro _) | split

theorem enterFabric_keeps {s0 : State} {x0 : State} {x1} (hx0 : Keeps s0 x0) :
    Keeps s0 (enterFabric x0 x1) := by
  unfold enterFabric
  with_reducible repeat' first | assumption | apply fabricWindow_keeps | apply onNet_keeps | apply sendResponse_keeps | apply turnAway_keeps | extract_lets | (apply Keeps.ite' <;> intro _) | split

theorem closeCtx_keeps {s0 : State} {x0 : State} {x1} (hx0 : Keeps s0 x0) :
    Keeps s0 (closeCtx x0 x1) := by
  unfold closeCtx
  with_reducible repeat' first | assumption | apply closeWindow_keeps | apply onCtxN_keeps | apply turnAway_keeps | extract_lets | (apply Keeps.ite' <;> intro _) | split

theorem partnerReplay_keeps {s0 : State} {x0 : State} {x1} {x2} (hx0 : Keeps s0 x0) :
    Keeps s0 (partnerReplay x0 x1 x2) := by
  unfold partnerReplay
  with_reducible repeat' first | assumption | apply cohReplay_keeps | apply onNet_keeps | apply sendResponse_keeps | apply transmit_keeps | extract_lets | (apply Keeps.ite' <;> intro _) | split

theorem enterPartner_keeps {s0 : State} {x0 : State} {x1} (hx0 : Keeps s0 x0) :
    Keeps s0 (enterPartner x0 x1) := by
  unfold enterPartner
  with_reducible repeat' first | assumption | apply addLeg_keeps | apply countDiscard_keeps | apply enterWindow_keeps | apply partnerBody_keeps | apply partnerReplay_keeps | apply turnAway_keeps | (apply Keeps.ofFst; assumption) | extract_lets | (apply Keeps.ite' <;> intro _) | split

theorem enter_keeps {s0 : State} {x0 : State} {x1} {x2} (hx0 : Keeps s0 x0) :
    Keeps s0 (enter x0 x1 x2) := by
  unfold enter
  with_reducible repeat' first | assumption | apply arrive_keeps | apply assemble_keeps | apply closeCtx_keeps | apply enterFabric_keeps | apply enterPartner_keeps | apply openCtx_keeps | apply turnAway_keeps | (apply Keeps.ofFst; assumption) | extract_lets | (apply Keeps.ite' <;> intro _) | split

theorem closeSilent_keeps {s0 : State} {x0 : State} {x1} (hx0 : Keeps s0 x0) :
    Keeps s0 (closeSilent x0 x1) := by
  unfold closeSilent
  with_reducible repeat' first | assumption | apply closeWindow_keeps | apply onCtxN_keeps | (apply Keeps.ite' <;> intro _)

end Sys2Proof.Machine
end

