-- ==== Sys2Proof/Laws/KeepsAdopt.lean ====
section
/-! SUPPORT. What every operation of Machine/Adopt.lean leaves as the law Keeps says (Laws/Keeps.lean). -/

namespace Sys2Proof.Machine

theorem journalRead_keeps {s0 : State} {x0 : State} {x1} (hx0 : Keeps s0 x0) :
    Keeps s0 (journalRead x0 x1) := by
  unfold journalRead
  with_reducible repeat' first | assumption | apply devSnoop_keeps | apply onCell_keeps | apply onHome_keeps | apply forAll_keeps

theorem journalCame_keeps {s0 : State} {x0 : State} {x1} (hx0 : Keeps s0 x0) :
    Keeps s0 (journalCame x0 x1) := by
  unfold journalCame
  with_reducible repeat' first | assumption | apply journalRead_keeps | apply onCell_keeps | apply sendFabric_keeps | extract_lets | (apply Keeps.ite' <;> intro _)

theorem beginTakeover_keeps {s0 : State} {x0 : State} {x1} (hx0 : Keeps s0 x0) :
    Keeps s0 (beginTakeover x0 x1) := by
  unfold beginTakeover
  with_reducible repeat' first | assumption | apply onBoot_keeps | apply onCell_keeps | apply sendFabric_keeps | extract_lets | (apply Keeps.ite' <;> intro _)

theorem releaseEpoch_keeps {s0 : State} {x0 : State} (hx0 : Keeps s0 x0) :
    Keeps s0 (releaseEpoch x0) := by
  unfold releaseEpoch
  with_reducible repeat' first | assumption | apply fabricWindow_keeps | apply onNet_keeps | apply forAll_keeps | extract_lets | intro _

theorem moveDone_keeps {s0 : State} {x0 : State} {x1} (hx0 : Keeps s0 x0) :
    Keeps s0 (moveDone x0 x1) := by
  unfold moveDone
  with_reducible repeat' first | assumption | apply onExt_keeps | extract_lets | (apply Keeps.ite' <;> intro _)

theorem fenceSelf_keeps {s0 : State} {x0 : State} {x1} (hx0 : Keeps s0 x0) :
    Keeps s0 (fenceSelf x0 x1) := by
  unfold fenceSelf
  dsimp only
  have h := @onCell_keeps s0 _ (fun c => { c with
    journalWait := [], prop := none, accepted := none, acting := false, collecting := [], collect := [] })
    (onT0_keeps (g := fun t => { t with slices := tmapAll {} (fun x => { x with borrowed := [] }) t.slices })
    (onSites_keeps (g := fun x => { x with waits := [] }) (onChim_keeps (g := fun c => { c with regs := [] })
    (onHome_keeps (g := fun h => { slices := tmapAll {} (fun x => { ctr := x.ctr }) h.slices, pred := h.pred })
    (onNet_keeps (g := fun n => { epochs := n.epochs, discards := n.discards, nextOut := n.nextOut })
    (onTrn_keeps (g := fun t => { jobs := t.jobs, ctr := t.ctr })
    (onExt_keeps (g := fun x => { x with
      tab := tmapAll {} (fun e => if e.state = 3 || e.state = 4 then
        { e with state := 2, leaseNo := 0, leaseEnd := 0, holderDev := 0, holderCtx := 0, term := 0, admitted := 0 } else { e with admitted := 0 }) x.tab
      snaps := [], regions := [], zeroing := [] })
    (onBoot_keeps (g := fun b => { b with phase := 13, failCode := 8 })
    (ashExempt_keeps (x1 := 5) (x2 := 0x33) (x3 := 0x0505) (x4 := [(0, natLe 1 x1)]) hx0)))))))))
  exact ⟨h.pending, h.draws, h.mem, h.fuse, h.rno, h.seq⟩

theorem refuseJoin_keeps {s0 : State} {x0 : State} {x1} (hx0 : Keeps s0 x0) :
    Keeps s0 (refuseJoin x0 x1) := by
  unfold refuseJoin
  with_reducible repeat' first | assumption | apply ashExempt_keeps | apply onBoot_keeps | apply onPwr_keeps | apply touchBoot_keeps

theorem adoptMap_keeps {s0 : State} {x0 : State} {x1} (hx0 : Keeps s0 x0) :
    Keeps s0 (adoptMap x0 x1) := by
  unfold adoptMap
  with_reducible repeat' first | assumption | apply ashExempt_keeps | apply beginTakeover_keeps | apply fenceSelf_keeps | apply moveDone_keeps | apply onCell_keeps | apply onChim_keeps | apply onLinks_keeps | ((refine onMem_keeps ?_ ?hg); case hg => with_unfolding_all exact fun m h => Mem.wf_iff.2 (by obtain ⟨⟨⟨⟨⟨_, _⟩, _⟩, _⟩, _⟩, _⟩ := Mem.wf_iff.1 h; refine ⟨⟨⟨⟨⟨?_, ?_⟩, ?_⟩, ?_⟩, ?_⟩, ?_⟩ <;> first | assumption | exact rfl | exact rising_insertNat ‹_› | exact rising_filter ‹_›)) | apply refuseJoin_keeps | apply releaseEpoch_keeps | apply forAll_keeps | extract_lets | (apply Keeps.ite' <;> intro _)

theorem sayCell_keeps {s0 : State} {x0 : State} {x1} (hx0 : Keeps s0 x0) :
    Keeps s0 (sayCell x0 x1) := by
  unfold sayCell
  with_reducible repeat' first | assumption | apply onNet_keeps | apply sendRouted_keeps | apply forAll_keeps

theorem tellElectors_keeps {s0 : State} {x0 : State} {x1} {x2} {x3} (hx0 : Keeps s0 x0) :
    Keeps s0 (tellElectors x0 x1 x2 x3) := by
  unfold tellElectors
  with_reducible repeat' first | assumption | apply sayCell_keeps | apply forAll_keeps | extract_lets | intro _

theorem tryCommit_keeps {s0 : State} {x0 : State} (hx0 : Keeps s0 x0) :
    Keeps s0 (tryCommit x0) := by
  unfold tryCommit
  with_reducible repeat' first | assumption | apply adoptMap_keeps | apply tellElectors_keeps | (apply Keeps.ite' <;> intro _) | split

theorem proposeMap_keeps {s0 : State} {x0 : State} {x1} (hx0 : Keeps s0 x0) :
    Keeps s0 (proposeMap x0 x1) := by
  unfold proposeMap
  with_reducible repeat' first | assumption | apply onCell_keeps | apply tellElectors_keeps | apply tryCommit_keeps

theorem leaderStep_keeps {s0 : State} {x0 : State} (hx0 : Keeps s0 x0) :
    Keeps s0 (leaderStep x0) := by
  unfold leaderStep
  with_reducible repeat' first | assumption | apply onCell_keeps | apply proposeMap_keeps | extract_lets | (apply Keeps.ite' <;> intro _) | split

theorem mapCame_keeps {s0 : State} {x0 : State} {x1} (hx0 : Keeps s0 x0) :
    Keeps s0 (mapCame x0 x1) := by
  unfold mapCame
  with_reducible repeat' first | assumption | apply adoptMap_keeps | apply leaderStep_keeps | split

theorem collectCame_keeps {s0 : State} {x0 : State} {x1} {x2} (hx0 : Keeps s0 x0) :
    Keeps s0 (collectCame x0 x1 x2) := by
  unfold collectCame
  with_reducible repeat' first | assumption | apply leaderStep_keeps | apply onCell_keeps | extract_lets | (apply Keeps.ite' <;> intro _)

theorem actAsLeader_keeps {s0 : State} {x0 : State} (hx0 : Keeps s0 x0) :
    Keeps s0 (actAsLeader x0) := by
  unfold actAsLeader
  with_reducible repeat' first | assumption | apply onCell_keeps | apply sendFabric_keeps | apply forAll_keeps | extract_lets | (apply Keeps.ite' <;> intro _) | intro _

theorem suspectReport_keeps {s0 : State} {x0 : State} {x1} {x2} (hx0 : Keeps s0 x0) :
    Keeps s0 (suspectReport x0 x1 x2) := by
  unfold suspectReport
  with_reducible repeat' first | assumption | apply actAsLeader_keeps | apply leaderStep_keeps | apply onCell_keeps | extract_lets | (apply Keeps.ite' <;> intro _)

theorem replyCell_keeps {s0 : State} {x0 : State} {x1} {x2} (hx0 : Keeps s0 x0) :
    Keeps s0 (replyCell x0 x1 x2) := by
  unfold replyCell
  with_reducible repeat' first | assumption | apply sendOn_keeps | apply sendResponse_keeps | apply forAll_keeps | extract_lets | (apply Keeps.ite' <;> intro _) | intro _

theorem requestMap_keeps {s0 : State} {x0 : State} {x1} (hx0 : Keeps s0 x0) :
    Keeps s0 (requestMap x0 x1) := by
  unfold requestMap
  with_reducible repeat' first | assumption | apply sendFabric_keeps | (apply Keeps.ite' <;> intro _)

theorem askMove_keeps {s0 : State} {x0 : State} {x1} (hx0 : Keeps s0 x0) :
    Keeps s0 (askMove x0 x1) := by
  unfold askMove
  with_reducible repeat' first | assumption | apply leaderStep_keeps | apply onCell_keeps | apply sayCell_keeps | extract_lets | (apply Keeps.ite' <;> intro _) | split

theorem seenEpoch_keeps {s0 : State} {x0 : State} {x1} {x2} (hx0 : Keeps s0 x0) :
    Keeps s0 (seenEpoch x0 x1 x2) := by
  unfold seenEpoch
  with_reducible repeat' first | assumption | apply requestMap_keeps | extract_lets | (apply Keeps.ite' <;> intro _) | split

theorem sayOn_keeps {s0 : State} {x0 : State} {x1} {x2} (hx0 : Keeps s0 x0) :
    Keeps s0 (sayOn x0 x1 x2) := by
  unfold sayOn
  with_reducible repeat' first | assumption | apply onNet_keeps | apply sendOn_keeps

end Sys2Proof.Machine
end

