-- ==== Sys2Proof/Laws/KeepsAtomicOps.lean ====
section
/-! SUPPORT. What every operation of Machine/AtomicOps.lean leaves as the law Keeps says (Laws/Keeps.lean). -/

namespace Sys2Proof.Machine

theorem atomicAt_keeps {s0 : State} {x0 : State} {x1} {x2} {x3} {x4} {x5} {x6} {x7} {x8} {x9} (hx0 : Keeps s0 x0) :
    KeepsAns s0 (atomicAt x0 x1 x2 x3 x4 x5 x6 x7 x8 x9) := by
  unfold atomicAt
  with_reducible repeat' first | assumption | apply KeepsAns.next | apply applyAtomic_keeps1 | apply fault_keeps | apply meterLine_keeps | apply meter_keeps | apply onGot_keeps | apply onThread_keeps | apply sendFabric_keeps | apply tryStore_keeps1 | extract_lets | (apply KeepsAns.ite <;> intro _) | split | intro _

theorem atomicOp_keeps {s0 : State} {x0 : State} {x1} {x2} {x3} (hx0 : Keeps s0 x0) :
    KeepsAns s0 (atomicOp x0 x1 x2 x3) := by
  unfold atomicOp
  with_reducible repeat' first | assumption | apply KeepsAns.next | apply atomicAt_keeps | apply fault_keeps | apply issue_keeps | extract_lets | (apply KeepsAns.ite <;> intro _) | split | intro _

theorem execAmminu_keeps {s0 : State} {x0} {x1} {x2 : State} (hx2 : Keeps s0 x2) :
    KeepsAns s0 (execAmminu x0 x1 x2) := by
  unfold execAmminu
  with_reducible repeat' first | assumption | apply atomicOp_keeps

theorem execAmor_keeps {s0 : State} {x0} {x1} {x2 : State} (hx2 : Keeps s0 x2) :
    KeepsAns s0 (execAmor x0 x1 x2) := by
  unfold execAmor
  with_reducible repeat' first | assumption | apply atomicOp_keeps

theorem execAmand_keeps {s0 : State} {x0} {x1} {x2 : State} (hx2 : Keeps s0 x2) :
    KeepsAns s0 (execAmand x0 x1 x2) := by
  unfold execAmand
  with_reducible repeat' first | assumption | apply atomicOp_keeps

theorem execAmcas_keeps {s0 : State} {x0} {x1} {x2 : State} (hx2 : Keeps s0 x2) :
    KeepsAns s0 (execAmcas x0 x1 x2) := by
  unfold execAmcas
  with_reducible repeat' first | assumption | apply atomicOp_keeps

theorem execAmfadd_keeps {s0 : State} {x0} {x1} {x2 : State} (hx2 : Keeps s0 x2) :
    KeepsAns s0 (execAmfadd x0 x1 x2) := by
  unfold execAmfadd
  with_reducible repeat' first | assumption | apply atomicOp_keeps

theorem execAmmaxu_keeps {s0 : State} {x0} {x1} {x2 : State} (hx2 : Keeps s0 x2) :
    KeepsAns s0 (execAmmaxu x0 x1 x2) := by
  unfold execAmmaxu
  with_reducible repeat' first | assumption | apply atomicOp_keeps

theorem execFlagcas_keeps {s0 : State} {x0} {x1} {x2 : State} (hx2 : Keeps s0 x2) :
    KeepsAns s0 (execFlagcas x0 x1 x2) := by
  unfold execFlagcas
  with_reducible repeat' first | assumption | apply atomicAt_keeps | apply issue_keeps | extract_lets | intro _

theorem execAmadd_keeps {s0 : State} {x0} {x1} {x2 : State} (hx2 : Keeps s0 x2) :
    KeepsAns s0 (execAmadd x0 x1 x2) := by
  unfold execAmadd
  with_reducible repeat' first | assumption | apply atomicOp_keeps

theorem execAmxor_keeps {s0 : State} {x0} {x1} {x2 : State} (hx2 : Keeps s0 x2) :
    KeepsAns s0 (execAmxor x0 x1 x2) := by
  unfold execAmxor
  with_reducible repeat' first | assumption | apply atomicOp_keeps

theorem execAmmin_keeps {s0 : State} {x0} {x1} {x2 : State} (hx2 : Keeps s0 x2) :
    KeepsAns s0 (execAmmin x0 x1 x2) := by
  unfold execAmmin
  with_reducible repeat' first | assumption | apply atomicOp_keeps

theorem execAmmax_keeps {s0 : State} {x0} {x1} {x2 : State} (hx2 : Keeps s0 x2) :
    KeepsAns s0 (execAmmax x0 x1 x2) := by
  unfold execAmmax
  with_reducible repeat' first | assumption | apply atomicOp_keeps

theorem execAmswp_keeps {s0 : State} {x0} {x1} {x2 : State} (hx2 : Keeps s0 x2) :
    KeepsAns s0 (execAmswp x0 x1 x2) := by
  unfold execAmswp
  with_reducible repeat' first | assumption | apply atomicOp_keeps

end Sys2Proof.Machine
end

