-- ==== Sys2Proof/Laws/KeepsOperator.lean ====
section
/-! SUPPORT. What every operation of Machine/Operator.lean leaves as the law Keeps says (Laws/Keeps.lean). -/

namespace Sys2Proof.Machine

theorem itemRead_keeps {s0 : State} {x0 : State} {x1} {x2} {x3} (hx0 : Keeps s0 x0) :
    KeepsFst s0 (itemRead x0 x1 x2 x3) := by
  unfold itemRead
  with_reducible repeat' first | assumption | apply chargeReads_keeps | apply readJva_keeps | (apply Keeps.ofFst; assumption) | split | simp only [KeepsFst.pair_iff]

theorem itemRead_keeps1 {s0 : State} {x0 : State} {x1} {x2} {x3} (hx0 : Keeps s0 x0) :
    Keeps s0 (itemRead x0 x1 x2 x3).1 := itemRead_keeps hx0

theorem endItem_keeps {s0 : State} {x0 : State} {x1} {x2} (hx0 : Keeps s0 x0) :
    Keeps s0 (endItem x0 x1 x2) := by
  unfold endItem
  with_reducible repeat' first | assumption | apply onItem_keeps

theorem opRun_keeps {s0 : State} {x0 : State} {x1} {x2} {x3} (hx0 : Keeps s0 x0) (hx3 : ∀ y0, KeepsAns s0 (x3 y0)) :
    KeepsAns s0 (opRun x0 x1 x2 x3) := by
  unfold opRun
  with_reducible repeat' first | assumption | apply notEnabled_keeps | apply hx3 | (apply KeepsAns.ite <;> intro _) | split

theorem onGotI_keeps {s0 : State} {α : Type} {x0 : State} {x1 x2 x3} {x4 : Got α} {x5} (hx0 : Keeps s0 x0) (hx5 : ∀ y0, KeepsAns s0 (x5 y0)) :
    KeepsAns s0 (onGotI x0 x1 x2 x3 x4 x5) := by
  unfold onGotI
  split
  · exact hx5 _
  · exact .next hx0
  · exact .next (endItem_keeps hx0)

theorem failItem_keeps {s0 : State} {x0 : State} {x1} {x2} {x3} (hx0 : Keeps s0 x0) :
    KeepsAns s0 (failItem x0 x1 x2 x3) := by
  unfold failItem
  with_reducible repeat' first | assumption | apply KeepsAns.next | apply endItem_keeps

theorem denseAt_keeps {s0 : State} {x0 : State} {x1} {x2} {x3} (hx0 : Keeps s0 x0) :
    KeepsFst s0 (denseAt x0 x1 x2 x3) := by
  unfold denseAt
  with_reducible repeat' first | assumption | apply locate_keeps | (apply Keeps.ofFst; assumption) | split | simp only [KeepsFst.pair_iff]

theorem denseAt_keeps1 {s0 : State} {x0 : State} {x1} {x2} {x3} (hx0 : Keeps s0 x0) :
    Keeps s0 (denseAt x0 x1 x2 x3).1 := denseAt_keeps hx0

theorem itemClass_keeps {s0 : State} {x0 : State} {x1} {x2} {x3} (hx0 : Keeps s0 x0) :
    KeepsFst s0 (itemClass x0 x1 x2 x3) := by
  unfold itemClass
  with_reducible repeat' first | assumption | apply bump_keeps | apply denseAt_keeps | apply onItem_keeps | (apply Keeps.ofFst; assumption) | extract_lets | split | simp only [KeepsFst.pair_iff] | dsimp +zetaDelta only

theorem itemClass_keeps1 {s0 : State} {x0 : State} {x1} {x2} {x3} (hx0 : Keeps s0 x0) :
    Keeps s0 (itemClass x0 x1 x2 x3).1 := itemClass_keeps hx0

theorem itemStore_keeps {s0 : State} {x0 : State} {x1} {x2} {x3} (hx0 : Keeps s0 x0) :
    KeepsFst s0 (itemStore x0 x1 x2 x3) := by
  unfold itemStore
  with_reducible repeat' first | assumption | apply storePiece_keeps | apply tryStores_keeps | apply forAll_keeps | (apply Keeps.ofFst; assumption) | extract_lets | split | intro _ | simp only [KeepsFst.pair_iff]

theorem itemStore_keeps1 {s0 : State} {x0 : State} {x1} {x2} {x3} (hx0 : Keeps s0 x0) :
    Keeps s0 (itemStore x0 x1 x2 x3).1 := itemStore_keeps hx0

end Sys2Proof.Machine
end

