-- ==== Sys2Proof/Laws/KeepsStage.lean ====
section
/-! SUPPORT. What every operation of Machine/Stage.lean leaves as the law Keeps says (Laws/Keeps.lean). -/

namespace Sys2Proof.Machine

theorem stagedTile_keeps {s0 : State} {x0 : State} {x1} {x2} (hx0 : Keeps s0 x0) :
    KeepsFst s0 (stagedTile x0 x1 x2) := by
  unfold stagedTile
  with_reducible repeat' first | assumption | apply readHandle_keeps | (apply Keeps.ofFst; assumption) | split | simp only [KeepsFst.pair_iff]

theorem stagedTile_keeps1 {s0 : State} {x0 : State} {x1} {x2} (hx0 : Keeps s0 x0) :
    Keeps s0 (stagedTile x0 x1 x2).1 := stagedTile_keeps hx0

theorem stageTile_keeps {s0 : State} {x0 : State} {x1} {x2} {x3} {x4} (hx0 : Keeps s0 x0) :
    Keeps s0 (stageTile x0 x1 x2 x3 x4) := by
  unfold stageTile
  with_reducible repeat' first | assumption | apply onItem_keeps

theorem needTile_keeps {s0 : State} {x0 : State} {x1} {x2} (hx0 : Keeps s0 x0) :
    KeepsFst s0 (needTile x0 x1 x2) := by
  unfold needTile
  with_reducible repeat' first | assumption | apply stageTile_keeps | apply stagedTile_keeps | split | simp only [KeepsFst.pair_iff]

theorem needTile_keeps1 {s0 : State} {x0 : State} {x1} {x2} (hx0 : Keeps s0 x0) :
    Keeps s0 (needTile x0 x1 x2).1 := needTile_keeps hx0

theorem needTiles_keeps {s0 : State} {x0 : State} {x1} {x2} (hx0 : Keeps s0 x0) :
    KeepsFst s0 (needTiles x0 x1 x2) := by
  induction x2 generalizing x0 x1 with
  | nil => unfold needTiles; with_reducible repeat' first | assumption | apply needTile_keeps | (apply Keeps.ofFst; assumption) | apply ih | split | simp only [KeepsFst.pair_iff]
  | cons z zs ih => unfold needTiles; with_reducible repeat' first | assumption | apply needTile_keeps | (apply Keeps.ofFst; assumption) | apply ih | split | simp only [KeepsFst.pair_iff]

theorem needTiles_keeps1 {s0 : State} {x0 : State} {x1} {x2} (hx0 : Keeps s0 x0) :
    Keeps s0 (needTiles x0 x1 x2).1 := needTiles_keeps hx0

end Sys2Proof.Machine
end

