-- ==== Sys2Proof/Laws/KeepsAttend.lean ====
section
/-! SUPPORT. What every operation of Machine/Attend.lean leaves as the law Keeps says (Laws/Keeps.lean). -/

namespace Sys2Proof.Machine

theorem execAttend_keeps {s0 : State} {x0} {x1 : State} (hx1 : Keeps s0 x1) :
    KeepsAns s0 (execAttend x0 x1) := by
  unfold execAttend
  with_reducible repeat' first | assumption | apply KeepsAns.next | apply bump_keeps | apply endItem_keeps | apply failItem_keeps | apply itemClass_keeps | apply itemRead_keeps | apply itemRead_keeps1 | apply itemStore_keeps1 | apply meterOps_keeps | apply needTiles_keeps1 | apply onGotI_keeps | apply onItem_keeps | apply opRun_keeps | (apply Keeps.ofFst; assumption) | extract_lets | (apply KeepsAns.ite <;> intro _) | split | intro _

theorem readElems_keeps {s0 : State} {x0 : State} {x1} {x2} {x3} {x4} {x5} (hx0 : Keeps s0 x0) :
    KeepsFst s0 (readElems x0 x1 x2 x3 x4 x5) := by
  unfold readElems
  with_reducible repeat' first | assumption | apply itemRead_keeps | (apply Keeps.ofFst; assumption) | split | simp only [KeepsFst.pair_iff]

theorem readElems_keeps1 {s0 : State} {x0 : State} {x1} {x2} {x3} {x4} {x5} (hx0 : Keeps s0 x0) :
    Keeps s0 (readElems x0 x1 x2 x3 x4 x5).1 := readElems_keeps hx0

theorem execReduceGroup_keeps {s0 : State} {x0} {x1 : State} (hx1 : Keeps s0 x1) :
    KeepsAns s0 (execReduceGroup x0 x1) := by
  unfold execReduceGroup
  with_reducible repeat' first | assumption | apply KeepsAns.next | apply contribute_keeps1 | apply endItem_keeps | apply failItem_keeps | apply itemClass_keeps1 | apply notEnabled_keeps | apply onGotI_keeps | apply onItem_keeps | apply opRun_keeps | apply readElems_keeps1 | extract_lets | (apply KeepsAns.ite <;> intro _) | split | intro _

theorem execReduceLocal_keeps {s0 : State} {x0} {x1 : State} (hx1 : Keeps s0 x1) :
    KeepsAns s0 (execReduceLocal x0 x1) := by
  unfold execReduceLocal
  with_reducible repeat' first | assumption | apply KeepsAns.next | apply bump_keeps | apply endItem_keeps | apply itemClass_keeps1 | apply itemStore_keeps1 | apply notEnabled_keeps | apply onGotI_keeps | apply onItem_keeps | apply opRun_keeps | apply readElems_keeps | (apply Keeps.ofFst; assumption) | extract_lets | (apply KeepsAns.ite <;> intro _) | split | intro _

end Sys2Proof.Machine
end

