-- ==== Sys2Proof/Laws/KeepsImage.lean ====
section
/-! SUPPORT. What every operation of Machine/Image.lean leaves as the law Keeps says (Laws/Keeps.lean). -/

namespace Sys2Proof.Machine

theorem applyFlues_keeps {s0 : State} {x0 : State} {x1} (hx0 : Keeps s0 x0) :
    Keeps s0 (applyFlues x0 x1) := by
  unfold applyFlues
  with_reducible repeat' first | assumption | apply onCfg_keeps | apply onChim_keeps | extract_lets | split

theorem applyDampers_keeps {s0 : State} {x0 : State} {x1} (hx0 : Keeps s0 x0) :
    Keeps s0 (applyDampers x0 x1) := by
  unfold applyDampers
  with_reducible repeat' first | assumption | apply onChim_keeps | apply onLink_keeps | apply forAll_keeps | extract_lets | intro _

theorem loadImage_keeps {s0 : State} {x0 : State} {x1} (hx0 : Keeps s0 x0) :
    Keeps s0 (loadImage x0 x1) := by
  unfold loadImage
  with_reducible repeat' first | assumption | apply applyDampers_keeps | apply applyFlues_keeps | apply onBoot_keeps | apply onCfg_keeps | apply onMtr_keeps | apply onPwr_keeps | extract_lets | split

theorem makeExtent_keeps {s0 : State} {x0 : State} {x1} {x2} (hx0 : Keeps s0 x0) :
    Keeps s0 (makeExtent x0 x1 x2) := by
  unfold makeExtent
  with_reducible repeat' first | assumption | apply onExt_keeps

theorem fillExtent_keeps {s0 : State} {x0 : State} {x1} {x2} {x3} {x4} (hx0 : Keeps s0 x0) :
    Keeps s0 (fillExtent x0 x1 x2 x3 x4) := by
  unfold fillExtent
  with_reducible repeat' first | assumption | apply makeExtent_keeps | extract_lets | (apply Keeps.ite' <;> intro _) | split

theorem makeExtents_keeps {s0 : State} {x0 : State} (hx0 : Keeps s0 x0) :
    Keeps s0 (makeExtents x0) := by
  unfold makeExtents
  with_reducible repeat' first | assumption | apply fillExtent_keeps | apply makeExtent_keeps | apply onExt_keeps | apply forAll_keeps | extract_lets | split | intro _

end Sys2Proof.Machine
end

