-- ==== Sys2Proof/Laws/KeepsCellBase.lean ====
section
/-! SUPPORT. What every operation of Machine/CellBase.lean leaves as the law Keeps says (Laws/Keeps.lean). -/

namespace Sys2Proof.Machine

theorem copyAcked_keeps {s0 : State} {x0 : State} {x1} {x2} (hx0 : Keeps s0 x0) :
    Keeps s0 (copyAcked x0 x1 x2) := by
  unfold copyAcked
  with_reducible repeat' first | assumption | apply markUnprot_keeps | apply onCell_keeps | apply onTx_keeps | apply progressTx_keeps | extract_lets | (apply Keeps.ite' <;> intro _)

theorem journalAcked_keeps {s0 : State} {x0 : State} {x1} (hx0 : Keeps s0 x0) :
    Keeps s0 (journalAcked x0 x1) := by
  unfold journalAcked
  with_reducible repeat' first | assumption | apply answerNow_keeps | apply onCell_keeps | apply forAll_keeps | extract_lets | intro _

theorem lineLost_keeps {s0 : State} {x0 : State} {x1} {x2} (hx0 : Keeps s0 x0) :
    Keeps s0 (lineLost x0 x1 x2) := by
  unfold lineLost
  with_reducible repeat' first | assumption | apply drainLine_keeps | apply dropTx_keeps | apply markFresh_keeps | ((refine onMem_keeps ?_ ?hg); case hg => with_unfolding_all exact fun m h => Mem.wf_iff.2 (by obtain ⟨⟨⟨⟨⟨_, _⟩, _⟩, _⟩, _⟩, _⟩ := Mem.wf_iff.1 h; refine ⟨⟨⟨⟨⟨?_, ?_⟩, ?_⟩, ?_⟩, ?_⟩, ?_⟩ <;> first | assumption | exact rfl | exact rising_insertNat ‹_› | exact rising_filter ‹_›)) | apply poisonLine_keeps | apply refuse_keeps | extract_lets | (apply Keeps.ite' <;> intro _) | split

theorem releaseLine_keeps {s0 : State} {x0 : State} {x1} {x2} (hx0 : Keeps s0 x0) :
    Keeps s0 (releaseLine x0 x1 x2) := by
  unfold releaseLine
  with_reducible repeat' first | assumption | apply drainLine_keeps | apply dropTx_keeps

theorem lineReformed_keeps {s0 : State} {x0 : State} {x1} {x2} {x3} (hx0 : Keeps s0 x0) :
    Keeps s0 (lineReformed x0 x1 x2 x3) := by
  unfold lineReformed
  with_reducible repeat' first | assumption | apply markFresh_keeps | apply releaseLine_keeps | apply setTag_keeps | apply storeLine_keeps | extract_lets | (apply Keeps.ite' <;> intro _)

theorem repairCame_keeps {s0 : State} {x0 : State} {x1} {x2} {x3} (hx0 : Keeps s0 x0) :
    Keeps s0 (repairCame x0 x1 x2 x3) := by
  unfold repairCame
  with_reducible repeat' first | assumption | apply lineLost_keeps | apply lineReformed_keeps | apply onTx_keeps | extract_lets | (apply Keeps.ite' <;> intro _) | split

end Sys2Proof.Machine
end

