-- ==== Sys2Proof/Laws/KeepsFlagWait.lean ====
section
/-! SUPPORT. What every operation of Machine/FlagWait.lean leaves as the law Keeps says (Laws/Keeps.lean). -/

namespace Sys2Proof.Machine

theorem execCntadd_keeps {s0 : State} {x0} {x1} {x2 : State} (hx2 : Keeps s0 x2) :
    KeepsAns s0 (execCntadd x0 x1 x2) := by
  unfold execCntadd
  with_reducible repeat' first | assumption | apply KeepsAns.next | apply issue_keeps | apply onItem_keeps | apply onThread_keeps | extract_lets | intro _

theorem execFlagwait_keeps {s0 : State} {x0} {x1} {x2 : State} (hx2 : Keeps s0 x2) :
    KeepsAns s0 (execFlagwait x0 x1 x2) := by
  unfold execFlagwait
  with_reducible repeat' first | assumption | apply KeepsAns.next | apply chargeReads_keeps | apply endFlagWait_keeps | apply issue_keeps | apply onGot_keeps | apply onSlice_keeps | apply onThread_keeps | apply readJva_keeps1 | extract_lets | (apply KeepsAns.ite <;> intro _) | split | intro _

theorem endFence_keeps {s0 : State} {x0 : State} {x1} {x2} {x3} (hx0 : Keeps s0 x0) :
    Keeps s0 (endFence x0 x1 x2 x3) := by
  unfold endFence
  with_reducible repeat' first | assumption | apply onThread_keeps

theorem fenceOp_keeps {s0 : State} {x0 : State} {x1} {x2} {x3} {x4} (hx0 : Keeps s0 x0) :
    KeepsAns s0 (fenceOp x0 x1 x2 x3 x4) := by
  unfold fenceOp
  with_reducible repeat' first | assumption | apply KeepsAns.next | apply endFence_keeps | apply issue_keeps | apply onThread_keeps | extract_lets | (apply KeepsAns.ite <;> intro _) | intro _

theorem execFenceInstr_keeps {s0 : State} {x0} {x1} {x2 : State} (hx2 : Keeps s0 x2) :
    KeepsAns s0 (execFenceInstr x0 x1 x2) := by
  unfold execFenceInstr
  with_reducible repeat' first | assumption | apply fenceOp_keeps

theorem execFlagwaitPoll_keeps {s0 : State} {x0} {x1 : State} (hx1 : Keeps s0 x1) :
    KeepsAns s0 (execFlagwaitPoll x0 x1) := by
  unfold execFlagwaitPoll
  with_reducible repeat' first | assumption | apply KeepsAns.next | apply chargeReads_keeps | apply endFlagWait_keeps | apply fault_keeps | apply notEnabled_keeps | apply onThread_keeps | apply readJva_keeps | (apply Keeps.ofFst; assumption) | extract_lets | (apply KeepsAns.ite <;> intro _) | split

theorem execCntwait_keeps {s0 : State} {x0} {x1} {x2 : State} (hx2 : Keeps s0 x2) :
    KeepsAns s0 (execCntwait x0 x1 x2) := by
  unfold execCntwait
  with_reducible repeat' first | assumption | apply KeepsAns.next | apply issue_keeps | apply onThread_keeps | extract_lets | (apply KeepsAns.ite <;> intro _) | intro _

theorem execCntrd_keeps {s0 : State} {x0} {x1} {x2 : State} (hx2 : Keeps s0 x2) :
    KeepsAns s0 (execCntrd x0 x1 x2) := by
  unfold execCntrd
  with_reducible repeat' first | assumption | apply KeepsAns.next | apply issue_keeps | apply onThread_keeps | extract_lets | intro _

theorem execFlagwaitTimeout_keeps {s0 : State} {x0} {x1 : State} (hx1 : Keeps s0 x1) :
    KeepsAns s0 (execFlagwaitTimeout x0 x1) := by
  unfold execFlagwaitTimeout
  with_reducible repeat' first | assumption | apply KeepsAns.next | apply endFlagWait_keeps | apply notEnabled_keeps | (apply KeepsAns.ite <;> intro _) | split

theorem execFenced_keeps {s0 : State} {x0} {x1} {x2 : State} (hx2 : Keeps s0 x2) :
    KeepsAns s0 (execFenced x0 x1 x2) := by
  unfold execFenced
  with_reducible repeat' first | assumption | apply fenceOp_keeps

end Sys2Proof.Machine
end

