-- ==== Sys2Proof/Laws/KeepsLost.lean ====
section
/-! SUPPORT. What every operation of Machine/Lost.lean leaves as the law Keeps says (Laws/Keeps.lean). -/

namespace Sys2Proof.Machine

theorem unpinLost_keeps {s0 : State} {x0 : State} {x1} {x2} (hx0 : Keeps s0 x0) :
    KeepsFst s0 (unpinLost x0 x1 x2) := by
  unfold unpinLost
  with_reducible repeat' first | assumption | apply applyWrite_keeps | apply draw_keeps | apply prepRead_keeps | apply prepWrite_keeps | apply xlate_keeps | (apply Keeps.ofFst; assumption) | (apply Keeps.ofSnd; assumption) | extract_lets | (apply KeepsFst.ite <;> intro _) | split | simp only [KeepsFst.pair_iff]

theorem unpinLost_keeps1 {s0 : State} {x0 : State} {x1} {x2} (hx0 : Keeps s0 x0) :
    Keeps s0 (unpinLost x0 x1 x2).1 := unpinLost_keeps hx0

theorem lookLost_keeps {s0 : State} {x0 : State} {x1} {x2} (hx0 : Keeps s0 x0) :
    Keeps s0 (lookLost x0 x1 x2) := by
  unfold lookLost
  with_reducible repeat' first | assumption | apply detectPost_keeps | apply flagReady_keeps | apply homeStore_keeps | apply onWin_keeps | apply unpinLost_keeps1 | (apply Keeps.ofFst; assumption) | extract_lets | (apply Keeps.ite' <;> intro _) | split

theorem lookLosts_keeps {s0 : State} {x0 : State} (hx0 : Keeps s0 x0) :
    Keeps s0 (lookLosts x0) := by
  unfold lookLosts
  with_reducible repeat' first | assumption | apply lookLost_keeps | apply forAll_keeps | extract_lets | split | intro _

end Sys2Proof.Machine
end

