-- ==== Sys2Proof/Laws/KeepsResume.lean ====
section
/-! SUPPORT. What every operation of Machine/Resume.lean leaves as the law Keeps says (Laws/Keeps.lean). -/

namespace Sys2Proof.Machine

theorem tryRegions_keeps {s0 : State} {x0 : State} (hx0 : Keeps s0 x0) :
    Keeps s0 (tryRegions x0) := by
  unfold tryRegions
  with_reducible repeat' first | assumption | apply onRegion_keeps | apply serveAny_keeps | apply forAll_keeps | extract_lets | split | intro _

theorem tryParked_keeps {s0 : State} {x0 : State} (hx0 : Keeps s0 x0) :
    Keeps s0 (tryParked x0) := by
  unfold tryParked
  with_reducible repeat' first | assumption | apply onTrn_keeps | apply resume_keeps | apply forAll_keeps | extract_lets | split | intro _

theorem threadFails_keeps {s0 : State} {x0 : State} {x1} {x2} {x3} (hx0 : Keeps s0 x0) :
    Keeps s0 (threadFails x0 x1 x2 x3) := by
  unfold threadFails
  with_reducible repeat' first | assumption | apply onThread_keeps | (apply Keeps.ite' <;> intro _)

theorem lineCame_keeps {s0 : State} {x0 : State} {x1} {x2} {x3} {x4} (hx0 : Keeps s0 x0) :
    Keeps s0 (lineCame x0 x1 x2 x3 x4) := by
  unfold lineCame
  with_reducible repeat' first | assumption | apply onItem_keeps | apply threadFails_keeps | extract_lets | (apply Keeps.ite' <;> intro _)

theorem walkCame_keeps {s0 : State} {x0 : State} {x1} {x2} (hx0 : Keeps s0 x0) :
    Keeps s0 (walkCame x0 x1 x2) := by
  unfold walkCame
  with_reducible repeat' first | assumption | apply abandonWalk_keeps | apply countTrn_keeps | apply onWalk_keeps | apply stopWalk_keeps | extract_lets | (apply Keeps.ite' <;> intro _) | split

theorem updateCame_keeps {s0 : State} {x0 : State} {x1} {x2} (hx0 : Keeps s0 x0) :
    Keeps s0 (updateCame x0 x1 x2) := by
  unfold updateCame
  with_reducible repeat' first | assumption | apply abandonWalk_keeps | apply endWalk_keeps1 | apply goOn_keeps | apply restartWalk_keeps | apply stopWalk_keeps | extract_lets | (apply Keeps.ite' <;> intro _) | split

theorem groupCame_keeps {s0 : State} {x0 : State} {x1} {x2} {x3} {x4} (hx0 : Keeps s0 x0) :
    Keeps s0 (groupCame x0 x1 x2 x3 x4) := by
  unfold groupCame
  with_reducible repeat' first | assumption | apply failRound_keeps | (apply Keeps.ite' <;> intro _)

theorem finishOut_keeps {s0 : State} {x0 : State} {x1} {x2} {x3} (hx0 : Keeps s0 x0) :
    Keeps s0 (finishOut x0 x1 x2 x3) := by
  unfold finishOut
  with_reducible repeat' first | assumption | apply answer_keeps | apply collectCame_keeps | apply copyAcked_keeps | apply endItem_keeps | apply groupCame_keeps | apply journalAcked_keeps | apply journalCame_keeps | apply lineCame_keeps | apply mapCame_keeps | apply onCell_keeps | apply onItem_keeps | apply onSchedN_keeps | apply onThread_keeps | apply onTrn_keeps | apply repairCame_keeps | apply threadFails_keeps | apply updateCame_keeps | apply walkCame_keeps | extract_lets | (apply Keeps.ite' <;> intro _) | split

theorem reissueOne_keeps {s0 : State} {x0 : State} {x1} (hx0 : Keeps s0 x0) :
    KeepsFst s0 (reissueOne x0 x1) := by
  unfold reissueOne
  with_reducible repeat' first | assumption | apply finishOut_keeps | apply onNet_keeps | apply onThread_keeps | apply sendFabric_keeps | apply serveHome_keeps | apply stoveXlate_keeps | (apply Keeps.ofFst; assumption) | extract_lets | (apply KeepsFst.ite <;> intro _) | split | simp only [KeepsFst.pair_iff]

theorem reissueOne_keeps1 {s0 : State} {x0 : State} {x1} (hx0 : Keeps s0 x0) :
    Keeps s0 (reissueOne x0 x1).1 := reissueOne_keeps hx0

theorem tryReissues_keeps {s0 : State} {x0 : State} (hx0 : Keeps s0 x0) :
    Keeps s0 (tryReissues x0) := by
  unfold tryReissues
  with_reducible repeat' first | assumption | apply onNet_keeps | apply reissueOne_keeps | apply forAll_keeps | (apply Keeps.ofFst; assumption) | extract_lets | split | intro _

theorem closeQuiet_keeps {s0 : State} {x0 : State} {x1} (hx0 : Keeps s0 x0) :
    Keeps s0 (closeQuiet x0 x1) := by
  unfold closeQuiet
  with_reducible repeat' first | assumption | apply onCtx_keeps | apply onNet_keeps | apply sendResponse_keeps | extract_lets | (apply Keeps.ite' <;> intro _) | split

theorem noteIdle_keeps {s0 : State} {x0 : State} (hx0 : Keeps s0 x0) :
    Keeps s0 (noteIdle x0) := by
  unfold noteIdle
  with_reducible repeat' first | assumption | apply onPwr_keeps

theorem answerInvals_keeps {s0 : State} {x0 : State} (hx0 : Keeps s0 x0) :
    Keeps s0 (answerInvals x0) := by
  unfold answerInvals
  with_reducible repeat' first | assumption | apply answer_keeps | apply onTrn_keeps | apply forAll_keeps | extract_lets | split | intro _

theorem settle_keeps {s0 : State} {x0 : State} (hx0 : Keeps s0 x0) :
    Keeps s0 (settle x0) := by
  unfold settle
  with_reducible repeat' first | assumption | apply answerInvals_keeps | apply closeQuiet_keeps | apply finishSlots_keeps | apply finishWindow_keeps | apply lookLosts_keeps | apply noteIdle_keeps | apply releaseHeld_keeps | apply syncJournal_keeps | apply tryParked_keeps | apply tryRegions_keeps | apply tryReissues_keeps | apply forAll_keeps | extract_lets | intro _

theorem adoptEpoch_keeps {s0 : State} {x0 : State} {x1} (hx0 : Keeps s0 x0) :
    Keeps s0 (adoptEpoch x0 x1) := by
  unfold adoptEpoch
  with_reducible repeat' first | assumption | apply onNet_keeps | extract_lets | (apply Keeps.ite' <;> intro _)

theorem sendAgain_keeps {s0 : State} {x0 : State} {x1} (hx0 : Keeps s0 x0) :
    Keeps s0 (sendAgain x0 x1) := by
  unfold sendAgain
  with_reducible repeat' first | assumption | apply onNet_keeps | apply transmit_keeps

theorem dropReissue_keeps {s0 : State} {x0 : State} {x1} {x2} (hx0 : Keeps s0 x0) :
    Keeps s0 (dropReissue x0 x1 x2) := by
  unfold dropReissue
  with_reducible repeat' first | assumption | apply onNet_keeps

theorem dropLeaf_keeps {s0 : State} {x0 : State} {x1} {x2} (hx0 : Keeps s0 x0) :
    Keeps s0 (dropLeaf x0 x1 x2) := by
  unfold dropLeaf
  with_reducible repeat' first | assumption | apply onTrn_keeps

theorem dropLeaves_keeps {s0 : State} {x0 : State} {x1} (hx0 : Keeps s0 x0) :
    Keeps s0 (dropLeaves x0 x1) := by
  unfold dropLeaves
  with_reducible repeat' first | assumption | apply dropLeaf_keeps | apply forAll_keeps | extract_lets | (apply Keeps.ite' <;> intro _) | intro _

theorem endFor_keeps {s0 : State} {x0 : State} {x1} {x2} {x3} (hx0 : Keeps s0 x0) :
    Keeps s0 (endFor x0 x1 x2 x3) := by
  unfold endFor
  with_reducible repeat' first | assumption | apply dropLeaves_keeps | apply dropReissue_keeps | apply finishOut_keeps | apply onNet_keeps | apply partnerBody_keeps | extract_lets | (apply Keeps.ite' <;> intro _) | split

theorem endOut_keeps {s0 : State} {x0 : State} {x1} {x2} (hx0 : Keeps s0 x0) :
    Keeps s0 (endOut x0 x1 x2) := by
  unfold endOut
  with_reducible repeat' first | assumption | apply endFor_keeps | apply meter_keeps | apply onNet_keeps | apply setSpace_keeps | apply forAll_keeps | extract_lets | (apply Keeps.ite' <;> intro _) | intro _

theorem againOrEnd_keeps {s0 : State} {x0 : State} {x1} (hx0 : Keeps s0 x0) :
    Keeps s0 (againOrEnd x0 x1) := by
  unfold againOrEnd
  with_reducible repeat' first | assumption | apply endOut_keeps | apply sendAgain_keeps | (apply Keeps.ite' <;> intro _)

theorem responseCame_keeps {s0 : State} {x0 : State} {x1} (hx0 : Keeps s0 x0) :
    Keeps s0 (responseCame x0 x1) := by
  unfold responseCame
  with_reducible repeat' first | assumption | apply adoptEpoch_keeps | apply againOrEnd_keeps | apply countDiscard_keeps | apply endOut_keeps | apply onNet_keeps | apply sendFabric_keeps | extract_lets | (apply Keeps.ite' <;> intro _) | split

theorem execResponseReceive_keeps {s0 : State} {x0} {x1} {x2 : State} (hx2 : Keeps s0 x2) :
    KeepsAns s0 (execResponseReceive x0 x1 x2) := by
  unfold execResponseReceive
  with_reducible repeat' first | assumption | apply KeepsAns.next | apply countDiscard_keeps | apply countLink_keeps | apply notEnabled_keeps | apply responseCame_keeps | apply settle_keeps | extract_lets | (apply KeepsAns.ite <;> intro _)

theorem execEpochHoldTimeout_keeps {s0 : State} {x0} {x1 : State} (hx1 : Keeps s0 x1) :
    KeepsAns s0 (execEpochHoldTimeout x0 x1) := by
  unfold execEpochHoldTimeout
  with_reducible repeat' first | assumption | apply KeepsAns.next | apply notEnabled_keeps | apply onNet_keeps | apply turnAway_keeps | (apply KeepsAns.ite <;> intro _) | split

theorem execAssemblyTimeout_keeps {s0 : State} {x0} {x1 : State} (hx1 : Keeps s0 x1) :
    KeepsAns s0 (execAssemblyTimeout x0 x1) := by
  unfold execAssemblyTimeout
  with_reducible repeat' first | assumption | apply KeepsAns.next | apply notEnabled_keeps | apply onNet_keeps | (apply KeepsAns.ite <;> intro _) | split

theorem execFenceGapTimeout_keeps {s0 : State} {x0} {x1} {x2 : State} (hx2 : Keeps s0 x2) :
    KeepsAns s0 (execFenceGapTimeout x0 x1 x2) := by
  unfold execFenceGapTimeout
  with_reducible repeat' first | assumption | apply KeepsAns.next | apply endPartnerFence_keeps | apply notEnabled_keeps | apply onNet_keeps | apply settle_keeps | extract_lets | (apply Keeps.ite' <;> intro _) | (apply KeepsAns.ite <;> intro _) | split

theorem execFenceCountZero_keeps {s0 : State} {x0} {x1 : State} (hx1 : Keeps s0 x1) :
    KeepsAns s0 (execFenceCountZero x0 x1) := by
  unfold execFenceCountZero
  with_reducible repeat' first | assumption | apply KeepsAns.next | apply endFence_keeps | apply endPartnerFence_keeps | apply notEnabled_keeps | apply settle_keeps | (apply KeepsAns.ite <;> intro _) | split

theorem execRetransmitTimeout_keeps {s0 : State} {x0} {x1 : State} (hx1 : Keeps s0 x1) :
    KeepsAns s0 (execRetransmitTimeout x0 x1) := by
  unfold execRetransmitTimeout
  with_reducible repeat' first | assumption | apply KeepsAns.next | apply againOrEnd_keeps | apply notEnabled_keeps | apply settle_keeps | (apply KeepsAns.ite <;> intro _) | split

end Sys2Proof.Machine
end

