-- ==== Sys2Proof/Laws/KeepsRequests.lean ====
section
/-! SUPPORT. What every operation of Machine/Requests.lean leaves as the law Keeps says (Laws/Keeps.lean). -/

namespace Sys2Proof.Machine

theorem takeReq_keeps {s0 : State} {x0 : State} {x1} {x2} {x3} (hx0 : Keeps s0 x0) :
    KeepsAns s0 (takeReq x0 x1 x2 x3) := by
  unfold takeReq
  with_reducible repeat' first | assumption | apply KeepsAns.next | apply enter_keeps | apply notEnabled_keeps | apply settle_keeps | (apply KeepsAns.ite <;> intro _)

theorem takeCoh_keeps {s0 : State} {x0 : State} {x1} {x2} {x3} (hx0 : Keeps s0 x0) :
    KeepsAns s0 (takeCoh x0 x1 x2 x3) := by
  unfold takeCoh
  with_reducible repeat' first | assumption | apply takeReq_keeps

theorem execFetch_keeps {s0 : State} {x0} {x1} {x2 : State} (hx2 : Keeps s0 x2) :
    KeepsAns s0 (execFetch x0 x1 x2) := by
  unfold execFetch
  with_reducible repeat' first | assumption | apply takeCoh_keeps

theorem execScatterUpdateRequest_keeps {s0 : State} {x0} {x1} {x2 : State} (hx2 : Keeps s0 x2) :
    KeepsAns s0 (execScatterUpdateRequest x0 x1 x2) := by
  unfold execScatterUpdateRequest
  with_reducible repeat' first | assumption | apply takeReq_keeps

theorem execAckFwd_keeps {s0 : State} {x0} {x1} {x2 : State} (hx2 : Keeps s0 x2) :
    KeepsAns s0 (execAckFwd x0 x1 x2) := by
  unfold execAckFwd
  with_reducible repeat' first | assumption | apply takeCoh_keeps

theorem execAckS_keeps {s0 : State} {x0} {x1} {x2 : State} (hx2 : Keeps s0 x2) :
    KeepsAns s0 (execAckS x0 x1 x2) := by
  unfold execAckS
  with_reducible repeat' first | assumption | apply takeCoh_keeps

theorem execFrameDamaged_keeps {s0 : State} {x0} {x1} {x2 : State} (hx2 : Keeps s0 x2) :
    KeepsAns s0 (execFrameDamaged x0 x1 x2) := by
  unfold execFrameDamaged
  with_reducible repeat' first | assumption | apply KeepsAns.next | apply countDiscard_keeps | apply countLink_keeps | apply notEnabled_keeps | extract_lets | (apply KeepsAns.ite <;> intro _) | split

theorem execLeaseQuery_keeps {s0 : State} {x0} {x1} {x2 : State} (hx2 : Keeps s0 x2) :
    KeepsAns s0 (execLeaseQuery x0 x1 x2) := by
  unfold execLeaseQuery
  with_reducible repeat' first | assumption | apply takeReq_keeps

theorem execLeaseAcquire_keeps {s0 : State} {x0} {x1} {x2 : State} (hx2 : Keeps s0 x2) :
    KeepsAns s0 (execLeaseAcquire x0 x1 x2) := by
  unfold execLeaseAcquire
  with_reducible repeat' first | assumption | apply takeReq_keeps

theorem execUpgrade_keeps {s0 : State} {x0} {x1} {x2 : State} (hx2 : Keeps s0 x2) :
    KeepsAns s0 (execUpgrade x0 x1 x2) := by
  unfold execUpgrade
  with_reducible repeat' first | assumption | apply takeCoh_keeps

theorem execSnapQuery_keeps {s0 : State} {x0} {x1} {x2 : State} (hx2 : Keeps s0 x2) :
    KeepsAns s0 (execSnapQuery x0 x1 x2) := by
  unfold execSnapQuery
  with_reducible repeat' first | assumption | apply takeReq_keeps

theorem execSnoopTimeout_keeps {s0 : State} {x0} {x1} {x2} {x3 : State} (hx3 : Keeps s0 x3) :
    KeepsAns s0 (execSnoopTimeout x0 x1 x2 x3) := by
  unfold execSnoopTimeout
  with_reducible repeat' first | assumption | apply KeepsAns.next | apply deliveryLate_keeps | apply devSnoop_keeps | apply notEnabled_keeps | apply onHome_keeps | apply settle_keeps | apply snoopLate_keeps | extract_lets | (apply KeepsAns.ite <;> intro _) | split | dsimp +zetaDelta only

theorem execAckI_keeps {s0 : State} {x0} {x1} {x2 : State} (hx2 : Keeps s0 x2) :
    KeepsAns s0 (execAckI x0 x1 x2) := by
  unfold execAckI
  with_reducible repeat' first | assumption | apply takeCoh_keeps

theorem execTransitFrame_keeps {s0 : State} {x0} {x1} {x2 : State} (hx2 : Keeps s0 x2) :
    KeepsAns s0 (execTransitFrame x0 x1 x2) := by
  unfold execTransitFrame
  with_reducible repeat' first | assumption | apply KeepsAns.next | apply countDiscard_keeps | apply countLink_keeps | apply notEnabled_keeps | apply police_keeps1 | apply route_keeps | apply turnAway_keeps | (apply Keeps.ofFst; assumption) | extract_lets | (apply Keeps.ite' <;> intro _) | (apply KeepsAns.ite <;> intro _) | split

theorem execWb_keeps {s0 : State} {x0} {x1} {x2 : State} (hx2 : Keeps s0 x2) :
    KeepsAns s0 (execWb x0 x1 x2) := by
  unfold execWb
  with_reducible repeat' first | assumption | apply takeCoh_keeps

theorem execWrite_keeps {s0 : State} {x0} {x1} {x2 : State} (hx2 : Keeps s0 x2) :
    KeepsAns s0 (execWrite x0 x1 x2) := by
  unfold execWrite
  with_reducible repeat' first | assumption | apply takeReq_keeps

theorem execCohRdS_keeps {s0 : State} {x0} {x1} {x2 : State} (hx2 : Keeps s0 x2) :
    KeepsAns s0 (execCohRdS x0 x1 x2) := by
  unfold execCohRdS
  with_reducible repeat' first | assumption | apply takeReq_keeps

theorem execRowLockRelease_keeps {s0 : State} {x0} {x1} {x2 : State} (hx2 : Keeps s0 x2) :
    KeepsAns s0 (execRowLockRelease x0 x1 x2) := by
  unfold execRowLockRelease
  with_reducible repeat' first | assumption | apply KeepsAns.next | apply notEnabled_keeps | apply onSlice_keeps | apply serveAny_keeps | apply settle_keeps | apply forAll_keeps | extract_lets | (apply KeepsAns.ite <;> intro _) | split

theorem execContrib_keeps {s0 : State} {x0} {x1} {x2 : State} (hx2 : Keeps s0 x2) :
    KeepsAns s0 (execContrib x0 x1 x2) := by
  unfold execContrib
  with_reducible repeat' first | assumption | apply takeReq_keeps

theorem execAtomic_keeps {s0 : State} {x0} {x1} {x2 : State} (hx2 : Keeps s0 x2) :
    KeepsAns s0 (execAtomic x0 x1 x2) := by
  unfold execAtomic
  with_reducible repeat' first | assumption | apply takeReq_keeps

theorem execSnapOpen_keeps {s0 : State} {x0} {x1} {x2 : State} (hx2 : Keeps s0 x2) :
    KeepsAns s0 (execSnapOpen x0 x1 x2) := by
  unfold execSnapOpen
  with_reducible repeat' first | assumption | apply takeReq_keeps

theorem execSnapDestroy_keeps {s0 : State} {x0} {x1} {x2 : State} (hx2 : Keeps s0 x2) :
    KeepsAns s0 (execSnapDestroy x0 x1 x2) := by
  unfold execSnapDestroy
  with_reducible repeat' first | assumption | apply takeReq_keeps

theorem execFence_keeps {s0 : State} {x0} {x1} {x2 : State} (hx2 : Keeps s0 x2) :
    KeepsAns s0 (execFence x0 x1 x2) := by
  unfold execFence
  with_reducible repeat' first | assumption | apply takeReq_keeps

theorem execWritePush_keeps {s0 : State} {x0} {x1} {x2 : State} (hx2 : Keeps s0 x2) :
    KeepsAns s0 (execWritePush x0 x1 x2) := by
  unfold execWritePush
  with_reducible repeat' first | assumption | apply takeReq_keeps

theorem execAckDataS_keeps {s0 : State} {x0} {x1} {x2 : State} (hx2 : Keeps s0 x2) :
    KeepsAns s0 (execAckDataS x0 x1 x2) := by
  unfold execAckDataS
  with_reducible repeat' first | assumption | apply takeCoh_keeps

theorem execLeaseRelease_keeps {s0 : State} {x0} {x1} {x2 : State} (hx2 : Keeps s0 x2) :
    KeepsAns s0 (execLeaseRelease x0 x1 x2) := by
  unfold execLeaseRelease
  with_reducible repeat' first | assumption | apply takeReq_keeps

theorem execAtom_keeps {s0 : State} {x0} {x1} {x2 : State} (hx2 : Keeps s0 x2) :
    KeepsAns s0 (execAtom x0 x1 x2) := by
  unfold execAtom
  with_reducible repeat' first | assumption | apply takeCoh_keeps

theorem execRead_keeps {s0 : State} {x0} {x1} {x2 : State} (hx2 : Keeps s0 x2) :
    KeepsAns s0 (execRead x0 x1 x2) := by
  unfold execRead
  with_reducible repeat' first | assumption | apply takeReq_keeps

theorem execTileRead_keeps {s0 : State} {x0} {x1} {x2 : State} (hx2 : Keeps s0 x2) :
    KeepsAns s0 (execTileRead x0 x1 x2) := by
  unfold execTileRead
  with_reducible repeat' first | assumption | apply takeReq_keeps

theorem execTileWrite_keeps {s0 : State} {x0} {x1} {x2 : State} (hx2 : Keeps s0 x2) :
    KeepsAns s0 (execTileWrite x0 x1 x2) := by
  unfold execTileWrite
  with_reducible repeat' first | assumption | apply takeReq_keeps

theorem execPublishRequest_keeps {s0 : State} {x0} {x1} {x2 : State} (hx2 : Keeps s0 x2) :
    KeepsAns s0 (execPublishRequest x0 x1 x2) := by
  unfold execPublishRequest
  with_reducible repeat' first | assumption | apply takeReq_keeps

theorem execLeaseRenew_keeps {s0 : State} {x0} {x1} {x2 : State} (hx2 : Keeps s0 x2) :
    KeepsAns s0 (execLeaseRenew x0 x1 x2) := by
  unfold execLeaseRenew
  with_reducible repeat' first | assumption | apply takeReq_keeps

theorem execSnapCreate_keeps {s0 : State} {x0} {x1} {x2 : State} (hx2 : Keeps s0 x2) :
    KeepsAns s0 (execSnapCreate x0 x1 x2) := by
  unfold execSnapCreate
  with_reducible repeat' first | assumption | apply takeReq_keeps

theorem execSnapClose_keeps {s0 : State} {x0} {x1} {x2 : State} (hx2 : Keeps s0 x2) :
    KeepsAns s0 (execSnapClose x0 x1 x2) := by
  unfold execSnapClose
  with_reducible repeat' first | assumption | apply takeReq_keeps

theorem execDeliver_keeps {s0 : State} {x0} {x1} {x2 : State} (hx2 : Keeps s0 x2) :
    KeepsAns s0 (execDeliver x0 x1 x2) := by
  unfold execDeliver
  with_reducible repeat' first | assumption | apply takeReq_keeps

theorem execRdX_keeps {s0 : State} {x0} {x1} {x2 : State} (hx2 : Keeps s0 x2) :
    KeepsAns s0 (execRdX x0 x1 x2) := by
  unfold execRdX
  with_reducible repeat' first | assumption | apply takeCoh_keeps

theorem execEvictS_keeps {s0 : State} {x0} {x1} {x2 : State} (hx2 : Keeps s0 x2) :
    KeepsAns s0 (execEvictS x0 x1 x2) := by
  unfold execEvictS
  with_reducible repeat' first | assumption | apply takeCoh_keeps

theorem execEvictX_keeps {s0 : State} {x0} {x1} {x2 : State} (hx2 : Keeps s0 x2) :
    KeepsAns s0 (execEvictX x0 x1 x2) := by
  unfold execEvictX
  with_reducible repeat' first | assumption | apply takeCoh_keeps

theorem execAckDataI_keeps {s0 : State} {x0} {x1} {x2 : State} (hx2 : Keeps s0 x2) :
    KeepsAns s0 (execAckDataI x0 x1 x2) := by
  unfold execAckDataI
  with_reducible repeat' first | assumption | apply takeCoh_keeps

theorem execInval_keeps {s0 : State} {x0} {x1} {x2 : State} (hx2 : Keeps s0 x2) :
    KeepsAns s0 (execInval x0 x1 x2) := by
  unfold execInval
  with_reducible repeat' first | assumption | apply takeReq_keeps

theorem execUnsupportedType_keeps {s0 : State} {x0} {x1} {x2 : State} (hx2 : Keeps s0 x2) :
    KeepsAns s0 (execUnsupportedType x0 x1 x2) := by
  unfold execUnsupportedType
  with_reducible repeat' first | assumption | apply KeepsAns.next | apply countDiscard_keeps | apply countLink_keeps | apply notEnabled_keeps | apply turnAway_keeps | extract_lets | (apply KeepsAns.ite <;> intro _) | split

end Sys2Proof.Machine
end

