-- ==== Sys2Proof/Laws/KeepsLinkRows.lean ====
section
/-! SUPPORT. What every operation of Machine/LinkRows.lean leaves as the law Keeps says (Laws/Keeps.lean). -/

namespace Sys2Proof.Machine

theorem sendHello_keeps {s0 : State} {x0 : State} {x1} (hx0 : Keeps s0 x0) :
    Keeps s0 (sendHello x0 x1) := by
  unfold sendHello
  with_reducible repeat' first | assumption | apply sendOn_keeps

theorem execServiceFlueLinkUp_keeps {s0 : State} {x0} {x1 : State} (hx1 : Keeps s0 x1) :
    KeepsAns s0 (execServiceFlueLinkUp x0 x1) := by
  unfold execServiceFlueLinkUp
  with_reducible repeat' first | assumption | apply KeepsAns.next | apply notEnabled_keeps | apply onLink_keeps | (apply KeepsAns.ite <;> intro _)

theorem requeue_keeps {s0 : State} {x0 : State} {x1} {x2} (hx0 : Keeps s0 x0) :
    Keeps s0 (requeue x0 x1 x2) := by
  unfold requeue
  with_reducible repeat' first | assumption | apply countLink_keeps | apply enqueue_keeps | apply noPath_keeps | extract_lets | (apply Keeps.ite' <;> intro _) | split

theorem takeDown_keeps {s0 : State} {x0 : State} {x1} (hx0 : Keeps s0 x0) :
    Keeps s0 (takeDown x0 x1) := by
  unfold takeDown
  with_reducible repeat' first | assumption | apply closeSilent_keeps | apply onLink_keeps | apply requeue_keeps | apply forAll_keeps | extract_lets | split | intro _

theorem execLinkDown_keeps {s0 : State} {x0} {x1} {x2 : State} (hx2 : Keeps s0 x2) :
    KeepsAns s0 (execLinkDown x0 x1 x2) := by
  unfold execLinkDown
  with_reducible repeat' first | assumption | apply KeepsAns.next | apply ashLimited_keeps | apply notEnabled_keeps | apply settle_keeps | apply takeDown_keeps | extract_lets | (apply KeepsAns.ite <;> intro _)

theorem execShaperEligible_keeps {s0 : State} {x0} {x1} {x2 : State} (hx2 : Keeps s0 x2) :
    KeepsAns s0 (execShaperEligible x0 x1 x2) := by
  unfold execShaperEligible
  with_reducible repeat' first | assumption | apply KeepsAns.next | apply notEnabled_keeps | apply startNext_keeps | (apply KeepsAns.ite <;> intro _)

theorem execGateListAt_keeps {s0 : State} {x0} {x1 : State} (hx1 : Keeps s0 x1) :
    KeepsAns s0 (execGateListAt x0 x1) := by
  unfold execGateListAt
  with_reducible repeat' first | assumption | apply KeepsAns.next | apply notEnabled_keeps | apply onChim_keeps | apply startNext_keeps | apply forAll_keeps | extract_lets | (apply KeepsAns.ite <;> intro _) | split

theorem execDozeNotice_keeps {s0 : State} {x0} {x1 : State} (hx1 : Keeps s0 x1) :
    KeepsAns s0 (execDozeNotice x0 x1) := by
  unfold execDozeNotice
  with_reducible repeat' first | assumption | apply KeepsAns.next | apply notEnabled_keeps | apply onLink_keeps | (apply KeepsAns.ite <;> intro _)

theorem execHelloRepeat_keeps {s0 : State} {x0} {x1 : State} (hx1 : Keeps s0 x1) :
    KeepsAns s0 (execHelloRepeat x0 x1) := by
  unfold execHelloRepeat
  with_reducible repeat' first | assumption | apply KeepsAns.next | apply notEnabled_keeps | apply onLink_keeps | apply sendHello_keeps | extract_lets | (apply KeepsAns.ite <;> intro _) | split

theorem execFrameTxEnd_keeps {s0 : State} {x0} {x1 : State} (hx1 : Keeps s0 x1) :
    KeepsAns s0 (execFrameTxEnd x0 x1) := by
  unfold execFrameTxEnd
  with_reducible repeat' first | assumption | apply KeepsAns.next | apply countLink_keeps | apply notEnabled_keeps | apply onLink_keeps | apply onLinks_keeps | apply startNext_keeps | extract_lets | split

theorem execCtxOpen_keeps {s0 : State} {x0} {x1} {x2 : State} (hx2 : Keeps s0 x2) :
    KeepsAns s0 (execCtxOpen x0 x1 x2) := by
  unfold execCtxOpen
  with_reducible repeat' first | assumption | apply takeReq_keeps

theorem peerHello_keeps {s0 : State} {x0 : State} {x1} {x2} (hx0 : Keeps s0 x0) :
    Keeps s0 (peerHello x0 x1 x2) := by
  unfold peerHello
  with_reducible repeat' first | assumption | apply ashLimited_keeps | apply onLink_keeps | extract_lets | (apply Keeps.ite' <;> intro _) | split

theorem execHello_keeps {s0 : State} {x0} {x1} {x2 : State} (hx2 : Keeps s0 x2) :
    KeepsAns s0 (execHello x0 x1 x2) := by
  unfold execHello
  with_reducible repeat' first | assumption | apply KeepsAns.next | apply countDiscard_keeps | apply countLink_keeps | apply notEnabled_keeps | apply peerHello_keeps | apply sendOn_keeps | extract_lets | (apply Keeps.ite' <;> intro _) | (apply KeepsAns.ite <;> intro _)

theorem execPauseFrame_keeps {s0 : State} {x0} {x1 : State} (hx1 : Keeps s0 x1) :
    KeepsAns s0 (execPauseFrame x0 x1) := by
  unfold execPauseFrame
  with_reducible repeat' first | assumption | apply KeepsAns.next | apply countLink_keeps | apply notEnabled_keeps | (apply KeepsAns.ite <;> intro _)

theorem execGclIntervalEnd_keeps {s0 : State} {x0} {x1 : State} (hx1 : Keeps s0 x1) :
    KeepsAns s0 (execGclIntervalEnd x0 x1) := by
  unfold execGclIntervalEnd
  with_reducible repeat' first | assumption | apply KeepsAns.next | apply notEnabled_keeps | apply onChim_keeps | apply startNext_keeps | apply forAll_keeps | extract_lets | (apply KeepsAns.ite <;> intro _)

theorem execLinkRetrainTimer_keeps {s0 : State} {x0 : State} (hx0 : Keeps s0 x0) :
    KeepsAns s0 (execLinkRetrainTimer x0) := by
  unfold execLinkRetrainTimer
  with_reducible repeat' first | assumption | apply KeepsAns.next | apply notEnabled_keeps | apply onLinks_keeps | (apply KeepsAns.ite <;> intro _)

theorem execLinkTrained_keeps {s0 : State} {x0} {x1} {x2 : State} (hx2 : Keeps s0 x2) :
    KeepsAns s0 (execLinkTrained x0 x1 x2) := by
  unfold execLinkTrained
  with_reducible repeat' first | assumption | apply KeepsAns.next | apply ashLimited_keeps | apply notEnabled_keeps | apply onLink_keeps | apply sendHello_keeps | extract_lets | (apply KeepsAns.ite <;> intro _)

theorem execCtxClose_keeps {s0 : State} {x0} {x1} {x2 : State} (hx2 : Keeps s0 x2) :
    KeepsAns s0 (execCtxClose x0 x1 x2) := by
  unfold execCtxClose
  with_reducible repeat' first | assumption | apply takeReq_keeps

end Sys2Proof.Machine
end

