-- ==== Sys2Proof/Laws/KeepsPower.lean ====
section
/-! SUPPORT. What every operation of Machine/Power.lean leaves as the law Keeps says (Laws/Keeps.lean). -/

namespace Sys2Proof.Machine

theorem refuseEntry_keeps {s0 : State} {x0 : State} {x1} (hx0 : Keeps s0 x0) :
    Keeps s0 (refuseEntry x0 x1) := by
  unfold refuseEntry
  with_reducible repeat' first | assumption | apply onPwr_keeps

theorem answerUnordered_keeps {s0 : State} {x0 : State} (hx0 : Keeps s0 x0) :
    Keeps s0 (answerUnordered x0) := by
  unfold answerUnordered
  with_reducible repeat' first | assumption | apply failWaiter_keeps | apply onNet_keeps | apply onSites_keeps | apply onTrn_keeps | apply turnAway_keeps | apply forAll_keeps | extract_lets | intro _

theorem beginEntry_keeps {s0 : State} {x0 : State} {x1} {x2} (hx0 : Keeps s0 x0) :
    Keeps s0 (beginEntry x0 x1 x2) := by
  unfold beginEntry
  with_reducible repeat' first | assumption | apply answerUnordered_keeps | apply onLinks_keeps | apply onPwr_keeps

theorem tryEntry_keeps {s0 : State} {x0 : State} {x1} (hx0 : Keeps s0 x0) :
    Keeps s0 (tryEntry x0 x1) := by
  unfold tryEntry
  with_reducible repeat' first | assumption | apply beginEntry_keeps | apply refuseEntry_keeps | extract_lets | (apply Keeps.ite' <;> intro _)

theorem recallDomain_keeps {s0 : State} {x0 : State} {x1} (hx0 : Keeps s0 x0) :
    Keeps s0 (recallDomain x0 x1) := by
  unfold recallDomain
  with_reducible repeat' first | assumption | apply onPwr_keeps | (apply Keeps.ite' <;> intro _)

theorem wakeEvent_keeps {s0 : State} {x0 : State} {x1} {x2} (hx0 : Keeps s0 x0) :
    Keeps s0 (wakeEvent x0 x1 x2) := by
  unfold wakeEvent
  with_reducible repeat' first | assumption | apply onPins_keeps | apply onPwr_keeps | extract_lets | (apply Keeps.ite' <;> intro _)

theorem setDomain_keeps {s0 : State} {x0 : State} {x1} {x2} (hx0 : Keeps s0 x0) :
    Keeps s0 (setDomain x0 x1 x2) := by
  unfold setDomain
  with_reducible repeat' first | assumption | apply onPwr_keeps

theorem dropTile_keeps {s0 : State} {x0 : State} {x1} {x2} (hx0 : Keeps s0 x0) :
    Keeps s0 (dropTile x0 x1 x2) := by
  unfold dropTile
  with_reducible repeat' first | assumption | apply meter_keeps | apply onT0Slice_keeps | apply onT0_keeps | apply queueDram_keeps | apply serveHome_keeps | apply setPoison_keeps | apply forAll_keeps | extract_lets | (apply Keeps.ite' <;> intro _) | split | intro _

theorem emptySlice_keeps {s0 : State} {x0 : State} {x1} (hx0 : Keeps s0 x0) :
    Keeps s0 (emptySlice x0 x1) := by
  unfold emptySlice
  with_reducible repeat' first | assumption | apply dropTile_keeps | apply onT0Slice_keeps | apply forAll_keeps | extract_lets | intro _

theorem gateLink_keeps {s0 : State} {x0 : State} {x1} (hx0 : Keeps s0 x0) :
    Keeps s0 (gateLink x0 x1) := by
  unfold gateLink
  with_reducible repeat' first | assumption | apply ashLimited_keeps | apply onLink_keeps | apply onLinks_keeps | apply takeDown_keeps | extract_lets | (apply Keeps.ite' <;> intro _)

theorem gateDomain_keeps {s0 : State} {x0 : State} {x1} (hx0 : Keeps s0 x0) :
    Keeps s0 (gateDomain x0 x1) := by
  unfold gateDomain
  with_reducible repeat' first | assumption | apply emptySlice_keeps | apply gateLink_keeps | apply onHome_keeps | apply setDomain_keeps | apply forAll_keeps | extract_lets | (apply Keeps.ite' <;> intro _)

theorem sleepLinks_keeps {s0 : State} {x0 : State} (hx0 : Keeps s0 x0) :
    Keeps s0 (sleepLinks x0) := by
  unfold sleepLinks
  with_reducible repeat' first | assumption | apply onLink_keeps | apply takeDown_keeps | apply forAll_keeps | extract_lets | intro _

theorem enterSpareState_keeps {s0 : State} {x0 : State} (hx0 : Keeps s0 x0) :
    Keeps s0 (enterSpareState x0) := by
  unfold enterSpareState
  with_reducible repeat' first | assumption | apply tryEntry_keeps | (apply Keeps.ite' <;> intro _)

theorem applyPower_keeps {s0 : State} {x0 : State} {x1} (hx0 : Keeps s0 x0) :
    Keeps s0 (applyPower x0 x1) := by
  unfold applyPower
  with_reducible repeat' first | assumption | apply gateDomain_keeps | apply onCfg_keeps | apply recallDomain_keeps | apply forAll_keeps | extract_lets | split | intro _

end Sys2Proof.Machine
end

