-- ==== Sys2Proof/Laws/KeepsReset.lean ====
section
/-! SUPPORT. What every operation of Machine/Reset.lean leaves as the law Keeps says (Laws/Keeps.lean). -/

namespace Sys2Proof.Machine

theorem toPhase_keeps {s0 : State} {x0 : State} {x1} (hx0 : Keeps s0 x0) :
    Keeps s0 (toPhase x0 x1) := by
  unfold toPhase
  with_reducible repeat' first | assumption | apply onBoot_keeps | apply touchBoot_keeps

theorem addBoot_keeps {s0 : State} {x0 : State} (hx0 : Keeps s0 x0) :
    Keeps s0 (addBoot x0) := by
  unfold addBoot
  with_reducible repeat' first | assumption | apply onHlth_keeps

theorem stopBoot_keeps {s0 : State} {x0 : State} {x1} {x2} (hx0 : Keeps s0 x0) :
    Keeps s0 (stopBoot x0 x1 x2) := by
  unfold stopBoot
  with_reducible repeat' first | assumption | apply addBoot_keeps | apply applyFlues_keeps | apply onBoot_keeps | apply onPins_keeps | apply onPwr_keeps

theorem losePower_keeps {s0 s : State} (h : Keeps s0 s) : Keeps s0 (losePower s) := ⟨h.pending, h.draws, fun _ => rfl, h.fuse, h.rno, h.seq⟩

theorem resetDevice_keeps {s0 s : State} (h : Keeps s0 s) : Keeps s0 (resetDevice s) := ⟨h.pending, h.draws, fun _ => rfl, h.fuse, h.rno, h.seq⟩

theorem loseRail_keeps {s0 s : State} (h : Keeps s0 s) : Keeps s0 (loseRail s) := ⟨h.pending, h.draws, fun _ => rfl, h.fuse, h.rno, h.seq⟩

end Sys2Proof.Machine
end

