-- ==== Sys2Proof/Laws/KeepsBootRows.lean ====
section
/-! SUPPORT. What every operation of Machine/BootRows.lean leaves as the law Keeps says (Laws/Keeps.lean). -/

namespace Sys2Proof.Machine

theorem execFabricFlueTraining_keeps {s0 : State} {x0} {x1 : State} (hx1 : Keeps s0 x1) :
    KeepsAns s0 (execFabricFlueTraining x0 x1) := by
  unfold execFabricFlueTraining
  with_reducible repeat' first | assumption | apply KeepsAns.next | apply notEnabled_keeps | apply onClk_keeps | apply onLink_keeps | apply sendHello_keeps | apply toPhase_keeps | apply forAll_keeps | extract_lets | (apply KeepsAns.ite <;> intro _) | intro _

theorem trainSite_keeps {s0 : State} {x0 : State} {x1} (hx0 : Keeps s0 x0) :
    Keeps s0 (trainSite x0 x1) := by
  unfold trainSite
  with_reducible repeat' first | assumption | apply addRowErr_keeps | apply ashLimited_keeps | apply onSites_keeps | extract_lets | split

theorem eyeScan_keeps {s0 : State} {x0 : State} {x1} (hx0 : Keeps s0 x0) :
    Keeps s0 (eyeScan x0 x1) := by
  unfold eyeScan
  with_reducible repeat' first | assumption | apply onHlth_keeps | extract_lets | (apply Keeps.ite' <;> intro _)

theorem recordEye_keeps {s0 : State} {x0 : State} {x1} (hx0 : Keeps s0 x0) :
    Keeps s0 (recordEye x0 x1) := by
  unfold recordEye
  with_reducible repeat' first | assumption | apply ashLimited_keeps

theorem execQuickShadowTest_keeps {s0 : State} {x0} {x1 : State} (hx1 : Keeps s0 x1) :
    KeepsAns s0 (execQuickShadowTest x0 x1) := by
  unfold execQuickShadowTest
  with_reducible repeat' first | assumption | apply KeepsAns.next | apply eyeScan_keeps | apply notEnabled_keeps | apply onBoot_keeps | apply recordEye_keeps | apply toPhase_keeps | apply forAll_keeps | extract_lets | (apply KeepsAns.ite <;> intro _) | split | intro _

theorem checkSlot_keeps {s0 : State} {x0 : State} {x1} (hx0 : Keeps s0 x0) :
    KeepsFst s0 (checkSlot x0 x1) := by
  unfold checkSlot
  with_reducible repeat' first | assumption | apply ashLimited_keeps | apply onBoot_keeps | extract_lets | (apply KeepsFst.ite <;> intro _) | simp only [KeepsFst.pair_iff]

theorem checkSlot_keeps1 {s0 : State} {x0 : State} {x1} (hx0 : Keeps s0 x0) :
    Keeps s0 (checkSlot x0 x1).1 := checkSlot_keeps hx0

theorem execImageVerify_keeps {s0 : State} {x0 : State} (hx0 : Keeps s0 x0) :
    KeepsAns s0 (execImageVerify x0) := by
  unfold execImageVerify
  with_reducible repeat' first | assumption | apply KeepsAns.next | apply addBoot_keeps | apply checkSlot_keeps1 | apply loadImage_keeps | apply notEnabled_keeps | apply onBoot_keeps | apply onPins_keeps | apply stopBoot_keeps | extract_lets | (apply KeepsAns.ite <;> intro _) | split

theorem execZeroInitialisation_keeps {s0 : State} {x0 : State} (hx0 : Keeps s0 x0) :
    KeepsAns s0 (execZeroInitialisation x0) := by
  unfold execZeroInitialisation
  have h : Keeps s0 (onMem x0 fun _ => {}) := onMem_keeps hx0 fun _ _ => rfl
  exact KeepsAns.ite (fun _ => .notEnabled hx0) fun _ => .next (toPhase_keeps h)

theorem execReady_keeps {s0 : State} {x0 : State} (hx0 : Keeps s0 x0) :
    KeepsAns s0 (execReady x0) := by
  unfold execReady
  with_reducible repeat' first | assumption | apply KeepsAns.next | apply ashExempt_keeps | apply enterSpareState_keeps | apply notEnabled_keeps | apply onBoot_keeps | apply onChim_keeps | apply onClk_keeps | apply settle_keeps | apply touchBoot_keeps | extract_lets | (apply Keeps.ite' <;> intro _) | (apply KeepsAns.ite <;> intro _)

theorem execJoinWaitRecord_keeps {s0 : State} {x0 : State} (hx0 : Keeps s0 x0) :
    KeepsAns s0 (execJoinWaitRecord x0) := by
  unfold execJoinWaitRecord
  with_reducible repeat' first | assumption | apply KeepsAns.next | apply ashLimited_keeps | apply notEnabled_keeps | apply onBoot_keeps | (apply KeepsAns.ite <;> intro _) | split

theorem sendJoin_keeps {s0 : State} {x0 : State} {x1} (hx0 : Keeps s0 x0) :
    Keeps s0 (sendJoin x0 x1) := by
  unfold sendJoin
  with_reducible repeat' first | assumption | apply onNet_keeps | apply sendOn_keeps

theorem execCellJoin_keeps {s0 : State} {x0 : State} (hx0 : Keeps s0 x0) :
    KeepsAns s0 (execCellJoin x0) := by
  unfold execCellJoin
  with_reducible repeat' first | assumption | apply KeepsAns.next | apply leaderStep_keeps | apply notEnabled_keeps | apply sendJoin_keeps | apply settle_keeps | apply forAll_keeps | (apply KeepsAns.ite <;> intro _)

theorem execWatchdogExpire_keeps {s0 : State} {x0 : State} (hx0 : Keeps s0 x0) :
    KeepsAns s0 (execWatchdogExpire x0) := by
  unfold execWatchdogExpire
  with_reducible repeat' first | assumption | apply KeepsAns.next | apply notEnabled_keeps | apply onBoot_keeps | apply resetDevice_keeps | (apply KeepsAns.ite <;> intro _)

theorem execServiceFlueTraining_keeps {s0 : State} {x0} {x1} {x2 : State} (hx2 : Keeps s0 x2) :
    KeepsAns s0 (execServiceFlueTraining x0 x1 x2) := by
  unfold execServiceFlueTraining
  with_reducible repeat' first | assumption | apply KeepsAns.next | apply notEnabled_keeps | apply onLink_keeps | apply toPhase_keeps | extract_lets | (apply Keeps.ite' <;> intro _) | (apply KeepsAns.ite <;> intro _)

theorem execInternalResetRelease_keeps {s0 : State} {x0} {x1 : State} (hx1 : Keeps s0 x1) :
    KeepsAns s0 (execInternalResetRelease x0 x1) := by
  unfold execInternalResetRelease
  with_reducible repeat' first | assumption | apply KeepsAns.next | apply ashLimited_keeps | apply notEnabled_keeps | ((refine onAsh_keeps ?_ ?hg); case hg => with_unfolding_all exact Nat.le_refl _) | apply onBoot_keeps | apply onClk_keeps | apply onPins_keeps | extract_lets | (apply KeepsAns.ite <;> intro _)

theorem execAuxRailUp_keeps {s0 : State} {x0 : State} (hb : x0.ash.blank = s0.ash.blank) (hx0 : Keeps s0 x0) :
    KeepsAns s0 (execAuxRailUp x0) := by
  unfold execAuxRailUp
  refine KeepsAns.ite (fun _ => .notEnabled hx0) fun _ => ?_
  extract_lets s1 s2
  have h2 : Keeps s0 s2 := onBoot_keeps (onClk_keeps (onPins_keeps hx0))
  refine KeepsAns.ite (fun h => .next (ashExempt_keeps ?_)) fun _ => .next h2
  have no : ∀ {p : Prop}, s0.ash.blank = false → p := fun h' => absurd (hb.symm.trans h) (by simp [h'])
  exact ⟨h2.pending, h2.draws, h2.mem, h2.fuse, no, no⟩

theorem execAuxRailLoss_keeps {s0 : State} {x0 : State} (hx0 : Keeps s0 x0) :
    KeepsAns s0 (execAuxRailLoss x0) := by
  unfold execAuxRailLoss
  with_reducible repeat' first | assumption | apply KeepsAns.next | apply loseRail_keeps | apply notEnabled_keeps | (apply KeepsAns.ite <;> intro _)

theorem execModResetAssert_keeps {s0 : State} {x0 : State} (hx0 : Keeps s0 x0) :
    KeepsAns s0 (execModResetAssert x0) := by
  unfold execModResetAssert
  with_reducible repeat' first | assumption | apply KeepsAns.next | apply notEnabled_keeps | apply onBoot_keeps | apply onPins_keeps | apply resetDevice_keeps | extract_lets | (apply Keeps.ite' <;> intro _) | (apply KeepsAns.ite <;> intro _)

theorem execFirebrickRead_keeps {s0 : State} {x0 : State} (hx0 : Keeps s0 x0) :
    KeepsAns s0 (execFirebrickRead x0) := by
  unfold execFirebrickRead
  with_reducible repeat' first | assumption | apply KeepsAns.next | apply notEnabled_keeps | apply onBoot_keeps | apply onPins_keeps | apply stopBoot_keeps | extract_lets | (apply KeepsAns.ite <;> intro _)

theorem execSiteTraining_keeps {s0 : State} {x0} {x1 : State} (hx1 : Keeps s0 x1) :
    KeepsAns s0 (execSiteTraining x0 x1) := by
  unfold execSiteTraining
  with_reducible repeat' first | assumption | apply KeepsAns.next | apply makeExtents_keeps | apply notEnabled_keeps | apply onSites_keeps | apply toPhase_keeps | apply trainSite_keeps | apply forAll_keeps | extract_lets | (apply KeepsAns.ite <;> intro _) | split | intro _

end Sys2Proof.Machine
end

