-- ==== Sys2Proof/Laws/KeepsExtentRows.lean ====
section
/-! SUPPORT. What every operation of Machine/ExtentRows.lean leaves as the law Keeps says (Laws/Keeps.lean). -/

namespace Sys2Proof.Machine

theorem followCopy_keeps {s0 : State} {x0 : State} {x1} {x2} {x3} (hx0 : Keeps s0 x0) :
    Keeps s0 (followCopy x0 x1 x2 x3) := by
  unfold followCopy
  with_reducible repeat' first | assumption | apply sendCopy_keeps | (apply Keeps.ite' <;> intro _)

theorem zeroThrough_keeps {s0 : State} {x0 : State} {x1} {x2} (hx0 : Keeps s0 x0) :
    Keeps s0 (zeroThrough x0 x1 x2) := by
  unfold zeroThrough
  with_reducible repeat' first | assumption | apply followCopy_keeps | apply setTagAt_keeps | apply zeroRange_keeps | apply forAll_keeps | extract_lets | (apply Keeps.ite' <;> intro _) | intro _

theorem execLeaseLapse_keeps {s0 : State} {x0} {x1 : State} (hx1 : Keeps s0 x1) :
    KeepsAns s0 (execLeaseLapse x0 x1) := by
  unfold execLeaseLapse
  with_reducible repeat' first | assumption | apply KeepsAns.next | apply countLse_keeps | apply endLease_keeps | apply endSnap_keeps | apply notEnabled_keeps | apply settle_keeps | split

theorem beginZeroing_keeps {s0 : State} {x0 : State} {x1} {x2} (hx0 : Keeps s0 x0) :
    Keeps s0 (beginZeroing x0 x1 x2) := by
  unfold beginZeroing
  with_reducible repeat' first | assumption | apply destroyRegion_keeps | apply onExtN_keeps | apply onExt_keeps | apply forAll_keeps | extract_lets | intro _

theorem copyRange_keeps {s0 s : State} {src dst n} (h : Keeps s0 s) : Keeps s0 (copyRange s src dst n) := by
  unfold copyRange
  extract_lets
  refine onMem_keeps ?_ fun m w => ?_
  · apply zeroRange_keeps
    repeat' first | with_reducible assumption | with_reducible apply forAll_keeps | with_reducible apply setTagAt_keeps | with_reducible apply followCopy_keeps | split | intro _ | dsimp +zetaDelta only
  · simp only [Mem.wf_iff] at w ⊢
    exact ⟨⟨⟨⟨⟨tok_forAll w.1.1.1.1.1 fun _ _ h => tok_tput h, tok_forAll w.1.1.1.1.2 fun _ _ h => tok_tput h⟩,
      rising_forAll w.1.1.1.2 fun _ _ h => rising_insertNat h⟩, w.1.1.2⟩, w.1.2⟩, w.2⟩

theorem execCowCopyDone_keeps {s0 : State} {x0} {x1 : State} (hx1 : Keeps s0 x1) :
    KeepsAns s0 (execCowCopyDone x0 x1) := by
  unfold execCowCopyDone
  with_reducible repeat' first | assumption | apply KeepsAns.next | apply copyRange_keeps | apply countLse_keeps | apply freeVersions_keeps | apply notEnabled_keeps | apply onRegion_keeps | apply settle_keeps | extract_lets | split

theorem execRevokeDrainDone_keeps {s0 : State} {x0} {x1} {x2 : State} (hx2 : Keeps s0 x2) :
    KeepsAns s0 (execRevokeDrainDone x0 x1 x2) := by
  unfold execRevokeDrainDone
  with_reducible repeat' first | assumption | apply KeepsAns.next | apply ashExempt_keeps | apply invalidateLine_keeps | apply notEnabled_keeps | apply onExtN_keeps | apply settle_keeps | apply forAll_keeps | extract_lets | (apply KeepsAns.ite <;> intro _)

theorem execExtentZeroingDone_keeps {s0 : State} {x0} {x1} {x2 : State} (hx2 : Keeps s0 x2) :
    KeepsAns s0 (execExtentZeroingDone x0 x1 x2) := by
  unfold execExtentZeroingDone
  with_reducible repeat' first | assumption | apply KeepsAns.next | apply ashLimited_keeps | apply clearPairings_keeps | apply countLse_keeps | apply notEnabled_keeps | apply onExtN_keeps | apply onExt_keeps | apply settle_keeps | apply startCopy_keeps | apply zeroThrough_keeps | apply forAll_keeps | extract_lets | (apply KeepsAns.ite <;> intro _) | split | intro _

end Sys2Proof.Machine
end

