-- ==== Sys2Proof/Laws/KeepsCellRows.lean ====
section
/-! SUPPORT. What every operation of Machine/CellRows.lean leaves as the law Keeps says (Laws/Keeps.lean). -/

namespace Sys2Proof.Machine

theorem execSpareAbsentTimeout_keeps {s0 : State} {x0 : State} (hx0 : Keeps s0 x0) :
    KeepsAns s0 (execSpareAbsentTimeout x0) := by
  unfold execSpareAbsentTimeout
  with_reducible repeat' first | assumption | apply KeepsAns.next | apply leaderStep_keeps | apply notEnabled_keeps | apply onCell_keeps | apply settle_keeps | extract_lets | (apply KeepsAns.ite <;> intro _) | split

theorem markAbsent_keeps {s0 : State} {x0 : State} {x1} (hx0 : Keeps s0 x0) :
    Keeps s0 (markAbsent x0 x1) := by
  unfold markAbsent
  with_reducible repeat' first | assumption | apply onCell_keeps

theorem execProposalTimeout_keeps {s0 : State} {x0 : State} (hx0 : Keeps s0 x0) :
    KeepsAns s0 (execProposalTimeout x0) := by
  unfold execProposalTimeout
  with_reducible repeat' first | assumption | apply KeepsAns.next | apply ashExempt_keeps | apply markAbsent_keeps | apply notEnabled_keeps | apply onCell_keeps | apply tellElectors_keeps | extract_lets | (apply KeepsAns.ite <;> intro _) | split

theorem onNbr_keeps {s0 : State} {x0 : State} {x1} {x2} (hx0 : Keeps s0 x0) :
    Keeps s0 (onNbr x0 x1 x2) := by
  unfold onNbr
  with_reducible repeat' first | assumption | apply onCell_keeps

theorem execProbeMiss_keeps {s0 : State} {x0} {x1 : State} (hx1 : Keeps s0 x1) :
    KeepsAns s0 (execProbeMiss x0 x1) := by
  unfold execProbeMiss
  with_reducible repeat' first | assumption | apply KeepsAns.next | apply notEnabled_keeps | apply onCell_keeps | apply onNbr_keeps | apply sayCell_keeps | apply settle_keeps | apply suspectReport_keeps | extract_lets | (apply Keeps.ite' <;> intro _) | (apply KeepsAns.ite <;> intro _) | split | dsimp +zetaDelta only

theorem cellTurn_keeps {s0 : State} {x0 : State} {x1} {x2} (hx0 : Keeps s0 x0) :
    Keeps s0 (cellTurn x0 x1 x2) := by
  unfold cellTurn
  with_reducible repeat' first | assumption | apply replyCell_keeps | (apply Keeps.ite' <;> intro _)

theorem cellArrive_keeps {s0 : State} {x0 : State} {x1} {x2} (hx0 : Keeps s0 x0) :
    KeepsFst s0 (cellArrive x0 x1 x2) := by
  unfold cellArrive
  with_reducible repeat' first | assumption | apply assemble_keeps | apply cellTurn_keeps | apply countDiscard_keeps | apply countLink_keeps | extract_lets | (apply KeepsFst.ite <;> intro _) | split | simp only [KeepsFst.pair_iff]

theorem cellArrive_keeps1 {s0 : State} {x0 : State} {x1} {x2} (hx0 : Keeps s0 x0) :
    Keeps s0 (cellArrive x0 x1 x2).1 := cellArrive_keeps hx0

theorem takeCell_keeps {s0 : State} {x0 : State} {x1} {x2} {x3} {x4} (hx0 : Keeps s0 x0) (hx4 : ∀ y0 y1, Keeps s0 y0 → Keeps s0 (x4 y0 y1)) :
    KeepsAns s0 (takeCell x0 x1 x2 x3 x4) := by
  unfold takeCell
  with_reducible repeat' first | assumption | apply KeepsAns.next | apply cellArrive_keeps | apply notEnabled_keeps | apply settle_keeps | apply hx4 | (apply Keeps.ofFst; assumption) | extract_lets | (apply KeepsAns.ite <;> intro _) | split

theorem cutRepair_keeps {s0 : State} {x0 : State} {x1} (hx0 : Keeps s0 x0) :
    Keeps s0 (cutRepair x0 x1) := by
  unfold cutRepair
  with_reducible repeat' first | assumption | apply releaseLine_keeps | split

theorem takeTag_keeps {s0 : State} {x0 : State} {x1} {x2} {x3} (hx0 : Keeps s0 x0) :
    Keeps s0 (takeTag x0 x1 x2 x3) := by
  unfold takeTag
  with_reducible repeat' first | assumption | apply setTag_keeps | extract_lets | (apply Keeps.ite' <;> intro _)

theorem mirrorBody_keeps {s0 : State} {x0 : State} {x1} (hx0 : Keeps s0 x0) :
    KeepsFst s0 (mirrorBody x0 x1) := by
  unfold mirrorBody
  with_reducible repeat' first | assumption | apply cutRepair_keeps | apply homeStore_keeps | apply markFresh_keeps | apply onCell_keeps | apply setTagAt_keeps | apply takeTag_keeps | extract_lets | (apply Keeps.ite' <;> intro _) | (apply KeepsFst.ite <;> intro _) | split | simp only [KeepsFst.pair_iff]

theorem mirrorBody_keeps1 {s0 : State} {x0 : State} {x1} (hx0 : Keeps s0 x0) :
    Keeps s0 (mirrorBody x0 x1).1 := mirrorBody_keeps hx0

theorem execPropose_keeps {s0 : State} {x0} {x1} {x2 : State} (hx2 : Keeps s0 x2) :
    KeepsAns s0 (execPropose x0 x1 x2) := by
  unfold execPropose
  with_reducible repeat' first | assumption | apply askMove_keeps | apply onCell_keeps | apply sayCell_keeps | apply seenEpoch_keeps | apply takeCell_keeps | apply forAll_keeps | extract_lets | split | intro _

theorem execCollect_keeps {s0 : State} {x0} {x1} {x2 : State} (hx2 : Keeps s0 x2) :
    KeepsAns s0 (execCollect x0 x1 x2) := by
  unfold execCollect
  with_reducible repeat' first | assumption | apply replyCell_keeps | apply takeCell_keeps | extract_lets | split | intro _

theorem execRebuildRead_keeps {s0 : State} {x0} {x1} {x2 : State} (hx2 : Keeps s0 x2) :
    KeepsAns s0 (execRebuildRead x0 x1 x2) := by
  unfold execRebuildRead
  with_reducible repeat' first | assumption | apply meterUn_keeps | apply replyCell_keeps | apply takeCell_keeps | extract_lets | split | intro _

theorem underUpd_keeps {s0 : State} {x0 : State} {x1} {x2} (hx0 : Keeps s0 x0) (hx2 : ∀ y0 y1, Keeps s0 y0 → KeepsFst s0 (x2 y0 y1)) :
    Keeps s0 (underUpd x0 x1 x2) := by
  unfold underUpd
  with_reducible repeat' first | assumption | apply countDiscard_keeps | apply onCell_keeps | apply replyCell_keeps | (apply Keeps.fst; apply hx2) | extract_lets | (apply Keeps.ite' <;> intro _) | split

theorem execMirrorWr_keeps {s0 : State} {x0} {x1} {x2 : State} (hx2 : Keeps s0 x2) :
    KeepsAns s0 (execMirrorWr x0 x1 x2) := by
  unfold execMirrorWr
  with_reducible repeat' first | assumption | apply mirrorBody_keeps | apply takeCell_keeps | apply underUpd_keeps | extract_lets | intro _

theorem execMapRead_keeps {s0 : State} {x0} {x1} {x2 : State} (hx2 : Keeps s0 x2) :
    KeepsAns s0 (execMapRead x0 x1 x2) := by
  unfold execMapRead
  with_reducible repeat' first | assumption | apply replyCell_keeps | apply takeCell_keeps | extract_lets | split | intro _

theorem execAccept_keeps {s0 : State} {x0} {x1} {x2 : State} (hx2 : Keeps s0 x2) :
    KeepsAns s0 (execAccept x0 x1 x2) := by
  unfold execAccept
  with_reducible repeat' first | assumption | apply leaderStep_keeps | apply onCell_keeps | apply takeCell_keeps | apply tryCommit_keeps | extract_lets | split | intro _

theorem sendMove_keeps {s0 : State} {x0 : State} {x1} (hx0 : Keeps s0 x0) :
    Keeps s0 (sendMove x0 x1) := by
  unfold sendMove
  with_reducible repeat' first | assumption | apply onCell_keeps | apply sendFabric_keeps | apply updFrame_keeps | apply forAll_keeps | (apply Keeps.ofSnd; assumption) | extract_lets | split | intro _

theorem execMoveCopyDone_keeps {s0 : State} {x0} {x1 : State} (hx1 : Keeps s0 x1) :
    KeepsAns s0 (execMoveCopyDone x0 x1) := by
  unfold execMoveCopyDone
  with_reducible repeat' first | assumption | apply KeepsAns.next | apply askMove_keeps | apply copyRange_keeps | apply notEnabled_keeps | apply sendMove_keeps | apply settle_keeps | extract_lets | (apply KeepsAns.ite <;> intro _) | split

theorem execProbeAck_keeps {s0 : State} {x0} {x1} {x2 : State} (hx2 : Keeps s0 x2) :
    KeepsAns s0 (execProbeAck x0 x1 x2) := by
  unfold execProbeAck
  with_reducible repeat' first | assumption | apply onNbr_keeps | apply seenEpoch_keeps | apply takeCell_keeps | extract_lets | intro _

theorem takeWindow_keeps {s0 : State} {x0 : State} {x1} (hx0 : Keeps s0 x0) :
    Keeps s0 (takeWindow x0 x1) := by
  unfold takeWindow
  with_reducible repeat' first | assumption | apply onCtxN_keeps | extract_lets | (apply Keeps.ite' <;> intro _)

theorem parityBody_keeps {s0 : State} {x0 : State} {x1} (hx0 : Keeps s0 x0) :
    KeepsFst s0 (parityBody x0 x1) := by
  unfold parityBody
  with_reducible repeat' first | assumption | apply cutRepair_keeps | apply homeStore_keeps | apply takeTag_keeps | extract_lets | (apply KeepsFst.ite <;> intro _) | simp only [KeepsFst.pair_iff]

theorem parityBody_keeps1 {s0 : State} {x0 : State} {x1} (hx0 : Keeps s0 x0) :
    Keeps s0 (parityBody x0 x1).1 := parityBody_keeps hx0

theorem restoreEntry_keeps {s0 : State} {x0 : State} {x1} (hx0 : Keeps s0 x0) :
    Keeps s0 (restoreEntry x0 x1) := by
  unfold restoreEntry
  with_reducible repeat' first | assumption | apply onExt_keeps | apply onTrn_keeps | extract_lets | split

theorem protectOwn_keeps {s0 : State} {x0 : State} (hx0 : Keeps s0 x0) :
    Keeps s0 (protectOwn x0) := by
  unfold protectOwn
  with_reducible repeat' first | assumption | apply onExt_keeps

theorem restoreTables_keeps {s0 : State} {x0 : State} {x1} (hx0 : Keeps s0 x0) :
    Keeps s0 (restoreTables x0 x1) := by
  unfold restoreTables
  with_reducible repeat' first | assumption | apply onExt_keeps | apply onTrn_keeps | apply protectOwn_keeps | apply restoreEntry_keeps | apply forAll_keeps | extract_lets | (apply Keeps.ite' <;> intro _)

theorem restoreForwards_keeps {s0 : State} {x0 : State} (hx0 : Keeps s0 x0) :
    Keeps s0 (restoreForwards x0) := by
  unfold restoreForwards
  with_reducible repeat' first | assumption | apply onExt_keeps | apply forAll_keeps | extract_lets | intro _

theorem losePlain_keeps {s0 : State} {x0 : State} (hx0 : Keeps s0 x0) :
    Keeps s0 (losePlain x0) := by
  unfold losePlain
  with_reducible repeat' first | assumption | apply onExt_keeps | ((refine onMem_keeps ?_ ?hg); case hg => with_unfolding_all exact fun m h => Mem.wf_iff.2 (by obtain ⟨⟨⟨⟨⟨_, _⟩, _⟩, _⟩, _⟩, _⟩ := Mem.wf_iff.1 h; refine ⟨⟨⟨⟨⟨?_, ?_⟩, ?_⟩, ?_⟩, ?_⟩, ?_⟩ <;> first | assumption | exact rfl | exact rising_insertNat ‹_› | exact rising_filter ‹_›))

theorem execProbe_keeps {s0 : State} {x0} {x1} {x2 : State} (hx2 : Keeps s0 x2) :
    KeepsAns s0 (execProbe x0 x1 x2) := by
  unfold execProbe
  with_reducible repeat' first | assumption | apply sayCell_keeps | apply seenEpoch_keeps | apply takeCell_keeps | extract_lets | intro _

theorem execProbeTimer_keeps {s0 : State} {x0 : State} (hx0 : Keeps s0 x0) :
    KeepsAns s0 (execProbeTimer x0) := by
  unfold execProbeTimer
  with_reducible repeat' first | assumption | apply KeepsAns.next | apply notEnabled_keeps | apply onNbr_keeps | apply sayCell_keeps | apply forAll_keeps | extract_lets | (apply KeepsAns.ite <;> intro _) | intro _

theorem execSuspect_keeps {s0 : State} {x0} {x1} {x2 : State} (hx2 : Keeps s0 x2) :
    KeepsAns s0 (execSuspect x0 x1 x2) := by
  unfold execSuspect
  with_reducible repeat' first | assumption | apply suspectReport_keeps | apply takeCell_keeps | extract_lets | intro _

theorem execCommit_keeps {s0 : State} {x0} {x1} {x2 : State} (hx2 : Keeps s0 x2) :
    KeepsAns s0 (execCommit x0 x1 x2) := by
  unfold execCommit
  with_reducible repeat' first | assumption | apply adoptMap_keeps | apply leaderStep_keeps | apply seenEpoch_keeps | apply takeCell_keeps | extract_lets | split | intro _

theorem execJoin_keeps {s0 : State} {x0} {x1} {x2 : State} (hx2 : Keeps s0 x2) :
    KeepsAns s0 (execJoin x0 x1 x2) := by
  unfold execJoin
  with_reducible repeat' first | assumption | apply leaderStep_keeps | apply onCell_keeps | apply replyCell_keeps | apply sayCell_keeps | apply sayOn_keeps | apply takeCell_keeps | apply forAll_keeps | extract_lets | (apply Keeps.ite' <;> intro _) | split | intro _

theorem execParityXor_keeps {s0 : State} {x0} {x1} {x2 : State} (hx2 : Keeps s0 x2) :
    KeepsAns s0 (execParityXor x0 x1 x2) := by
  unfold execParityXor
  with_reducible repeat' first | assumption | apply parityBody_keeps | apply takeCell_keeps | apply underUpd_keeps | extract_lets | intro _

theorem execJournal_keeps {s0 : State} {x0} {x1} {x2 : State} (hx2 : Keeps s0 x2) :
    KeepsAns s0 (execJournal x0 x1 x2) := by
  unfold execJournal
  with_reducible repeat' first | assumption | apply onCell_keeps | apply takeCell_keeps | apply underUpd_keeps | extract_lets | intro _ | simp only [KeepsFst.pair_iff]

theorem execJournalRead_keeps {s0 : State} {x0} {x1} {x2 : State} (hx2 : Keeps s0 x2) :
    KeepsAns s0 (execJournalRead x0 x1 x2) := by
  unfold execJournalRead
  with_reducible repeat' first | assumption | apply replyCell_keeps | apply takeCell_keeps | extract_lets | intro _

theorem execSelfFence_keeps {s0 : State} {x0 : State} (hx0 : Keeps s0 x0) :
    KeepsAns s0 (execSelfFence x0) := by
  unfold execSelfFence
  with_reducible repeat' first | assumption | apply KeepsAns.next | apply fenceSelf_keeps | apply notEnabled_keeps | extract_lets | (apply KeepsAns.ite <;> intro _)

theorem execSpareServe_keeps {s0 : State} {x0} {x1 : State} (hx1 : Keeps s0 x1) :
    KeepsAns s0 (execSpareServe x0 x1) := by
  unfold execSpareServe
  with_reducible repeat' first | assumption | apply KeepsAns.next | apply losePlain_keeps | apply notEnabled_keeps | apply onCell_keeps | apply restoreForwards_keeps | apply restoreTables_keeps | apply settle_keeps | apply takeWindow_keeps | apply forAll_keeps | extract_lets | (apply KeepsAns.ite <;> intro _) | split

theorem execRebuildUnitDone_keeps {s0 : State} {x0} {x1 : State} (hx1 : Keeps s0 x1) :
    KeepsAns s0 (execRebuildUnitDone x0 x1) := by
  unfold execRebuildUnitDone
  with_reducible repeat' first | assumption | apply KeepsAns.next | apply markFresh_keeps | apply notEnabled_keeps | apply onCell_keeps | apply settle_keeps | apply startRepair_keeps | apply forAll_keeps | extract_lets | (apply KeepsAns.ite <;> intro _) | split | intro _

end Sys2Proof.Machine
end

