-- ==== Sys2Proof/Laws/KeepsRecord.lean ====
section
/-! SUPPORT. What every operation of Machine/Record.lean leaves as the law Keeps says (Laws/Keeps.lean). -/

namespace Sys2Proof.Machine

theorem onBuf_keeps {s0 : State} {x0 : State} {x1} {x2} (hx0 : Keeps s0 x0) :
    Keeps s0 (onBuf x0 x1 x2) := by
  unfold onBuf
  with_reducible repeat' first | assumption | ((refine onAuth_keeps ?_ ?hg); case hg => with_unfolding_all exact SeqKept.refl _)

theorem recordChange_keeps {s0 : State} {x0 : State} {x1} {x2} (hx0 : Keeps s0 x0) :
    Keeps s0 (recordChange x0 x1 x2) := by
  unfold recordChange
  with_reducible repeat' first | assumption | apply ashExempt_keeps | apply ashLimited_keeps | extract_lets | (apply Keeps.ite' <;> intro _)

theorem rejectRecord_keeps {s0 : State} {x0 : State} {x1} {x2} {x3} {x4} {x5} (hx0 : Keeps s0 x0) :
    Keeps s0 (rejectRecord x0 x1 x2 x3 x4 x5) := by
  unfold rejectRecord
  with_reducible repeat' first | assumption | apply onBuf_keeps | apply recordChange_keeps | apply refuseEntry_keeps | extract_lets | (apply Keeps.ite' <;> intro _)

theorem checkHead_none {s : State} {b : Nat} (h : checkHead s b = none) :
    tget 0 s.auth.lastSeq (recKey (leNat (bufData s b 64))) ≤ recSeq (leNat (bufData s b 64)) := by
  unfold checkHead at h
  dsimp only at h
  repeat (split at h; · cases h)
  omega

theorem checkRecord_keeps {s0 : State} {x0 : State} {x1} (hx0 : Keeps s0 x0) : Keeps s0 (checkRecord x0 x1) := by
  unfold checkRecord
  have hn := @checkHead_none x0 x1
  dsimp only
  generalize leNat (bufData x0 x1 64) = h at hn ⊢
  have h1 : Keeps s0 (onBuf x0 x1 fun x => { x with cls := recClass h, keySlot := recKey h, flags := recFlags h, seq := recSeq h }) :=
    onBuf_keeps hx0
  have e1 : (onBuf x0 x1 fun x => { x with cls := recClass h, keySlot := recKey h, flags := recFlags h, seq := recSeq h }).auth.lastSeq =
    x0.auth.lastSeq := rfl
  generalize onBuf x0 x1 _ = s1 at h1 e1 ⊢
  split
  · exact rejectRecord_keeps h1
  · rename_i e
    refine Keeps.ite' (fun _ => rejectRecord_keeps h1) fun _ => ?_
    have h2 : Keeps s0 (onAuth s1 fun a => { a with lastSeq := tput 0 a.lastSeq (recKey h) (recSeq h) }) :=
      onAuth_keeps h1 (SeqKept.put (e1 ▸ hn e))
    split
    · exact rejectRecord_keeps h2
    · exact onBuf_keeps h2

theorem nextRecord_keeps {s0 : State} {x0} {x1 : State} (hx1 : Keeps s0 x1) :
    Keeps s0 (nextRecord x0 x1) := by
  induction x0 generalizing x1 with
  | zero => exact hx1
  | succ n ih =>
    unfold nextRecord
    refine Keeps.ite' (fun _ => hx1) (fun _ => ?_)
    split
    · exact hx1
    · exact ih (Keeps.ite' (fun _ => checkRecord_keeps (onAuth_keeps hx1 (SeqKept.refl _))) (fun _ => onAuth_keeps hx1 (SeqKept.refl _)))

theorem endRecord_keeps {s0 : State} {x0 : State} {x1} (hx0 : Keeps s0 x0) :
    Keeps s0 (endRecord x0 x1) := by
  unfold endRecord
  with_reducible repeat' first | assumption | apply nextRecord_keeps | ((refine onAuth_keeps ?_ ?hg); case hg => with_unfolding_all exact SeqKept.refl _) | apply onBuf_keeps | apply recordChange_keeps

theorem takeItem_keeps {s0 : State} {x0 : State} {x1} {x2} {x3} (hx0 : Keeps s0 x0) (hx3 : ∀ y0 y1, Keeps s0 y0 → Keeps s0 (x3 y0 y1)) :
    KeepsAns s0 (takeItem x0 x1 x2 x3) := by
  unfold takeItem
  with_reducible repeat' first | assumption | apply KeepsAns.next | apply endRecord_keeps | apply notEnabled_keeps | apply onBuf_keeps | apply settle_keeps | apply hx3 | extract_lets | (apply Keeps.ite' <;> intro _) | (apply KeepsAns.ite <;> intro _) | split

end Sys2Proof.Machine
end

