-- ==== Sys2Proof/Laws/KeepsSiteRows.lean ====
section
/-! SUPPORT. What every operation of Machine/SiteRows.lean leaves as the law Keeps says (Laws/Keeps.lean). -/

namespace Sys2Proof.Machine

theorem readSite_keeps {s0 : State} {x0 : State} {x1} {x2} (hx0 : Keeps s0 x0) :
    Keeps s0 (readSite x0 x1 x2) := by
  unfold readSite
  with_reducible repeat' first | assumption | apply ashLimited_keeps | apply onCell_keeps | apply onSites_keeps | extract_lets | (apply Keeps.ite' <;> intro _)

theorem freeWaits_keeps {s0 : State} {x0 : State} (hx0 : Keeps s0 x0) :
    Keeps s0 (freeWaits x0) := by
  unfold freeWaits
  with_reducible repeat' first | assumption | apply onSites_keeps | apply serveHome_keeps | apply forAll_keeps | extract_lets | split | intro _

theorem execRefreshRateRead_keeps {s0 : State} {x0} {x1 : State} (hx1 : Keeps s0 x1) :
    KeepsAns s0 (execRefreshRateRead x0 x1) := by
  unfold execRefreshRateRead
  with_reducible repeat' first | assumption | apply KeepsAns.next | apply freeWaits_keeps | apply notEnabled_keeps | apply readSite_keeps | apply settle_keeps | apply forAll_keeps | extract_lets | (apply KeepsAns.ite <;> intro _) | split | intro _

theorem scrubBad_keeps {s0 : State} {x0 : State} {x1} (hx0 : Keeps s0 x0) :
    Keeps s0 (scrubBad x0 x1) := by
  unfold scrubBad
  with_reducible repeat' first | assumption | apply clearPoison_keeps | apply onT0Tile_keeps | apply poisonLine_keeps | apply startRepair_keeps | extract_lets | (apply Keeps.ite' <;> intro _)

theorem scrubError_keeps {s0 : State} {x0 : State} {x1} {x2} (hx0 : Keeps s0 x0) :
    Keeps s0 (scrubError x0 x1 x2) := by
  unfold scrubError
  with_reducible repeat' first | assumption | apply correctedError_keeps | apply modBankErr_keeps | apply onSites_keeps | apply scrubBad_keeps | split

theorem endFill_keeps {s0 : State} {x0 : State} {x1} {x2} (hx0 : Keeps s0 x0) :
    Keeps s0 (endFill x0 x1 x2) := by
  unfold endFill
  with_reducible repeat' first | assumption | apply onT0Slice_keeps | apply serveHome_keeps | apply settle_keeps | apply forAll_keeps

theorem execChannelIssue_keeps {s0 : State} {x0} {x1} {x2 : State} (hx2 : Keeps s0 x2) :
    KeepsAns s0 (execChannelIssue x0 x1 x2) := by
  unfold execChannelIssue
  with_reducible repeat' first | assumption | apply KeepsAns.next | apply issueOne_keeps | apply notEnabled_keeps | (apply KeepsAns.ite <;> intro _)

theorem execEvictWritebackComplete_keeps {s0 : State} {x0} {x1} {x2} {x3 : State} (hx3 : Keeps s0 x3) :
    KeepsAns s0 (execEvictWritebackComplete x0 x1 x2 x3) := by
  unfold execEvictWritebackComplete
  with_reducible repeat' first | assumption | apply KeepsAns.next | apply meter_keeps | apply notEnabled_keeps | apply onT0Slice_keeps | apply poisonLine_keeps | apply queueDram_keeps | apply forAll_keeps | extract_lets | (apply KeepsAns.ite <;> intro _) | split | intro _

theorem execRequestAgeExpire_keeps {s0 : State} {x0} {x1} {x2 : State} (hx2 : Keeps s0 x2) :
    KeepsAns s0 (execRequestAgeExpire x0 x1 x2) := by
  unfold execRequestAgeExpire
  with_reducible repeat' first | assumption | apply KeepsAns.next | apply notEnabled_keeps | apply onChan_keeps | extract_lets | (apply KeepsAns.ite <;> intro _) | split | dsimp +zetaDelta only

theorem execPerBankRefresh_keeps {s0 : State} {x0} {x1} {x2} {x3} {x4 : State} (hx4 : Keeps s0 x4) :
    KeepsAns s0 (execPerBankRefresh x0 x1 x2 x3 x4) := by
  unfold execPerBankRefresh
  with_reducible repeat' first | assumption | apply KeepsAns.next | apply easeBank_keeps | apply notEnabled_keeps | apply onBank_keeps | apply onChan_keeps | extract_lets | (apply KeepsAns.ite <;> intro _)

theorem execHotTilePeriod_keeps {s0 : State} {x0} {x1 : State} (hx1 : Keeps s0 x1) :
    KeepsAns s0 (execHotTilePeriod x0 x1) := by
  unfold execHotTilePeriod
  with_reducible repeat' first | assumption | apply KeepsAns.next | apply onT0Slice_keeps

theorem execScrubWriteBack_keeps {s0 : State} {x0} {x1} {x2 : State} (hx2 : Keeps s0 x2) :
    KeepsAns s0 (execScrubWriteBack x0 x1 x2) := by
  unfold execScrubWriteBack
  with_reducible repeat' first | assumption | apply KeepsAns.next | apply devStore_keeps | apply meterUn_keeps | apply notEnabled_keeps | apply onSites_keeps | apply prepWrite_keeps | (apply Keeps.ofFst; assumption) | extract_lets | (apply KeepsAns.ite <;> intro _) | split

theorem execScrubRead_keeps {s0 : State} {x0} {x1} {x2 : State} (hx2 : Keeps s0 x2) :
    KeepsAns s0 (execScrubRead x0 x1 x2) := by
  unfold execScrubRead
  with_reducible repeat' first | assumption | apply KeepsAns.next | apply meterUn_keeps | apply notEnabled_keeps | apply onSites_keeps | apply scrubError_keeps | apply forAll_keeps | extract_lets | (apply KeepsAns.ite <;> intro _) | intro _

theorem execAggressorTableClear_keeps {s0 : State} {x0 : State} (hx0 : Keeps s0 x0) :
    KeepsAns s0 (execAggressorTableClear x0) := by
  unfold execAggressorTableClear
  with_reducible repeat' first | assumption | apply KeepsAns.next | apply onSites_keeps

theorem execTileFillComplete_keeps {s0 : State} {x0} {x1} {x2 : State} (hx2 : Keeps s0 x2) :
    KeepsAns s0 (execTileFillComplete x0 x1 x2) := by
  unfold execTileFillComplete
  with_reducible repeat' first | assumption | apply KeepsAns.next | apply endFill_keeps | apply meter_keeps | apply notEnabled_keeps | (apply KeepsAns.ite <;> intro _) | split

theorem execTileFillAbandon_keeps {s0 : State} {x0} {x1} {x2 : State} (hx2 : Keeps s0 x2) :
    KeepsAns s0 (execTileFillAbandon x0 x1 x2) := by
  unfold execTileFillAbandon
  with_reducible repeat' first | assumption | apply KeepsAns.next | apply endFill_keeps | apply notEnabled_keeps | apply onT0_keeps | (apply KeepsAns.ite <;> intro _) | split

end Sys2Proof.Machine
end

