-- ==== Sys2Proof/Laws/KeepsChangeRows.lean ====
section
/-! SUPPORT. What every operation of Machine/ChangeRows.lean leaves as the law Keeps says (Laws/Keeps.lean). -/

namespace Sys2Proof.Machine

theorem restartMeter_keeps {s0 : State} {x0 : State} {x1} {x2} (hx0 : Keeps s0 x0) :
    Keeps s0 (restartMeter x0 x1 x2) := by
  unfold restartMeter
  with_reducible repeat' first | assumption | apply onMtr_keeps | extract_lets | (apply Keeps.ite' <;> intro _)

theorem forgetJob_keeps {s0 : State} {x0 : State} {x1} (hx0 : Keeps s0 x0) :
    Keeps s0 (forgetJob x0 x1) := by
  unfold forgetJob
  with_reducible repeat' first | assumption | apply invalRange_keeps

theorem execJobSet_keeps {s0 : State} {x0} {x1 : State} (hx1 : Keeps s0 x1) :
    KeepsAns s0 (execJobSet x0 x1) := by
  unfold execJobSet
  with_reducible repeat' first | assumption | apply checkRings_keeps | apply denyJob_keeps | apply forgetJob_keeps | apply onTrn_keeps | apply restartMeter_keeps | apply takeItem_keeps | extract_lets | (apply Keeps.ite' <;> intro _) | split | intro _

theorem execRowgroupMode_keeps {s0 : State} {x0} {x1 : State} (hx1 : Keeps s0 x1) :
    KeepsAns s0 (execRowgroupMode x0 x1) := by
  unfold execRowgroupMode
  with_reducible repeat' first | assumption | apply onExt_keeps | apply takeItem_keeps | extract_lets | intro _

theorem blowFuses_keeps {s0 s : State} {bits} (h : Keeps s0 s) : Keeps s0 (blowFuses s bits) := by
  have h1 : Keeps s0 (onFuse s fun f => { a := f.a ||| BitVec.ofNat 2048 bits, b := f.b ||| BitVec.ofNat 2048 bits }) :=
    onFuse_keeps h fun f i => by constructor <;> intro w <;> simp [w]
  unfold blowFuses
  exact onBoot_keeps h1

theorem takeFuse_keeps {s0 : State} {x0 : State} {x1} {x2} (hx0 : Keeps s0 x0) :
    KeepsAns s0 (takeFuse x0 x1 x2) := by
  unfold takeFuse
  with_reducible repeat' first | assumption | apply blowFuses_keeps | apply takeItem_keeps | extract_lets | intro _

theorem execKeyRevoke_keeps {s0 : State} {x0} {x1 : State} (hx1 : Keeps s0 x1) :
    KeepsAns s0 (execKeyRevoke x0 x1) := by
  unfold execKeyRevoke
  with_reducible repeat' first | assumption | apply takeFuse_keeps

theorem execOverhead_keeps {s0 : State} {x0} {x1 : State} (hx1 : Keeps s0 x1) :
    KeepsAns s0 (execOverhead x0 x1) := by
  unfold execOverhead
  with_reducible repeat' first | assumption | apply onCfg_keeps | apply takeItem_keeps | extract_lets | intro _

theorem execExtentRemove_keeps {s0 : State} {x0} {x1 : State} (hx1 : Keeps s0 x1) :
    KeepsAns s0 (execExtentRemove x0 x1) := by
  unfold execExtentRemove
  with_reducible repeat' first | assumption | apply onExt_keeps | apply takeItem_keeps | extract_lets | intro _

theorem testFailure_keeps {s0 : State} {x0 : State} {x1} (hx0 : Keeps s0 x0) :
    Keeps s0 (testFailure x0 x1) := by
  unfold testFailure
  with_reducible repeat' first | assumption | apply addRowErr_keeps | apply draw_keeps1 | apply modBankErr_keeps

theorem execPolicer_keeps {s0 : State} {x0} {x1 : State} (hx1 : Keeps s0 x1) :
    KeepsAns s0 (execPolicer x0 x1) := by
  unfold execPolicer
  with_reducible repeat' first | assumption | apply onLink_keeps | apply onLinks_keeps | apply takeItem_keeps | extract_lets | split | intro _

theorem execRollbackTo_keeps {s0 : State} {x0} {x1 : State} (hx1 : Keeps s0 x1) :
    KeepsAns s0 (execRollbackTo x0 x1) := by
  unfold execRollbackTo
  with_reducible repeat' first | assumption | apply takeFuse_keeps

theorem execGateList_keeps {s0 : State} {x0} {x1 : State} (hx1 : Keeps s0 x1) :
    KeepsAns s0 (execGateList x0 x1) := by
  unfold execGateList
  with_reducible repeat' first | assumption | apply onChim_keeps | apply takeItem_keeps | extract_lets | intro _

theorem onSite_keeps {s0 : State} {x0 : State} {x1} {x2} (hx0 : Keeps s0 x0) :
    Keeps s0 (onSite x0 x1 x2) := by
  unfold onSite
  with_reducible repeat' first | assumption | apply onSites_keeps

theorem returnSite_keeps {s0 : State} {x0 : State} {x1} (hx0 : Keeps s0 x0) :
    Keeps s0 (returnSite x0 x1) := by
  unfold returnSite
  with_reducible repeat' first | assumption | apply freeWaits_keeps | apply onCell_keeps | ((refine onMem_keeps ?_ ?hg); case hg => with_unfolding_all exact fun m h => Mem.wf_iff.2 (by obtain ⟨⟨⟨⟨⟨_, _⟩, _⟩, _⟩, _⟩, _⟩ := Mem.wf_iff.1 h; refine ⟨⟨⟨⟨⟨?_, ?_⟩, ?_⟩, ?_⟩, ?_⟩, ?_⟩ <;> first | assumption | exact rfl | exact rising_insertNat ‹_› | exact rising_filter ‹_›)) | apply onSite_keeps

theorem execExtentAssign_keeps {s0 : State} {x0} {x1 : State} (hx1 : Keeps s0 x1) :
    KeepsAns s0 (execExtentAssign x0 x1) := by
  unfold execExtentAssign
  with_reducible repeat' first | assumption | apply beginZeroing_keeps | apply onExtN_keeps | apply takeItem_keeps | extract_lets | split | intro _

theorem execLeaseRevoke_keeps {s0 : State} {x0} {x1 : State} (hx1 : Keeps s0 x1) :
    KeepsAns s0 (execLeaseRevoke x0 x1) := by
  unfold execLeaseRevoke
  with_reducible repeat' first | assumption | apply endLease_keeps | apply takeItem_keeps | extract_lets | split | intro _

theorem execAshpitSet_keeps {s0 : State} {x0} {x1 : State} (hx1 : Keeps s0 x1) :
    KeepsAns s0 (execAshpitSet x0 x1) := by
  unfold execAshpitSet
  with_reducible repeat' first | assumption | apply onCfg_keeps | apply takeItem_keeps | extract_lets | intro _

theorem execExtentClear_keeps {s0 : State} {x0} {x1 : State} (hx1 : Keeps s0 x1) :
    KeepsAns s0 (execExtentClear x0 x1) := by
  unfold execExtentClear
  with_reducible repeat' first | assumption | apply beginZeroing_keeps | apply takeItem_keeps | extract_lets | split | intro _

theorem execShaper_keeps {s0 : State} {x0} {x1 : State} (hx1 : Keeps s0 x1) :
    KeepsAns s0 (execShaper x0 x1) := by
  unfold execShaper
  with_reducible repeat' first | assumption | apply onLink_keeps | apply startNext_keeps | apply takeItem_keeps | extract_lets | intro _

theorem execFlueSet_keeps {s0 : State} {x0} {x1 : State} (hx1 : Keeps s0 x1) :
    KeepsAns s0 (execFlueSet x0 x1) := by
  unfold execFlueSet
  with_reducible repeat' first | assumption | apply ashLimited_keeps | apply onCfg_keeps | apply takeDown_keeps | apply takeItem_keeps | apply forAll_keeps | extract_lets | intro _

theorem execTestRun_keeps {s0 : State} {x0} {x1 : State} (hx1 : Keeps s0 x1) :
    KeepsAns s0 (execTestRun x0 x1) := by
  unfold execTestRun
  with_reducible repeat' first | assumption | apply onSite_keeps | apply takeItem_keeps | extract_lets | intro _

theorem execKeyProgram_keeps {s0 : State} {x0} {x1 : State} (hx1 : Keeps s0 x1) :
    KeepsAns s0 (execKeyProgram x0 x1) := by
  unfold execKeyProgram
  with_reducible repeat' first | assumption | apply takeFuse_keeps

theorem execFuncSet_keeps {s0 : State} {x0} {x1 : State} (hx1 : Keeps s0 x1) :
    KeepsAns s0 (execFuncSet x0 x1) := by
  unfold execFuncSet
  with_reducible repeat' first | assumption | ((refine onAuth_keeps ?_ ?hg); case hg => with_unfolding_all exact SeqKept.refl _) | apply takeItem_keeps | extract_lets | split | intro _

theorem execImageBegin_keeps {s0 : State} {x0} {x1 : State} (hx1 : Keeps s0 x1) :
    KeepsAns s0 (execImageBegin x0 x1) := by
  unfold execImageBegin
  with_reducible repeat' first | assumption | apply onBoot_keeps | apply onBuf_keeps | apply takeItem_keeps | extract_lets | intro _

theorem execKeyGrant_keeps {s0 : State} {x0} {x1 : State} (hx1 : Keeps s0 x1) :
    KeepsAns s0 (execKeyGrant x0 x1) := by
  unfold execKeyGrant
  with_reducible repeat' first | assumption | apply takeFuse_keeps

theorem execLock_keeps {s0 : State} {x0} {x1 : State} (hx1 : Keeps s0 x1) :
    KeepsAns s0 (execLock x0 x1) := by
  unfold execLock
  with_reducible repeat' first | assumption | apply takeFuse_keeps

theorem execJobDelete_keeps {s0 : State} {x0} {x1 : State} (hx1 : Keeps s0 x1) :
    KeepsAns s0 (execJobDelete x0 x1) := by
  unfold execJobDelete
  with_reducible repeat' first | assumption | apply denyJob_keeps | apply forgetJob_keeps | apply onTrn_keeps | apply takeItem_keeps | extract_lets | split | intro _

theorem execExtentCreate_keeps {s0 : State} {x0} {x1 : State} (hx1 : Keeps s0 x1) :
    KeepsAns s0 (execExtentCreate x0 x1) := by
  unfold execExtentCreate
  with_reducible repeat' first | assumption | apply beginZeroing_keeps | apply onExt_keeps | apply takeItem_keeps | extract_lets | split | intro _

theorem execLeaseBounds_keeps {s0 : State} {x0} {x1 : State} (hx1 : Keeps s0 x1) :
    KeepsAns s0 (execLeaseBounds x0 x1) := by
  unfold execLeaseBounds
  with_reducible repeat' first | assumption | apply onExt_keeps | apply takeItem_keeps | extract_lets | intro _

theorem execFuncDrainDone_keeps {s0 : State} {x0 : State} (hx0 : Keeps s0 x0) :
    KeepsAns s0 (execFuncDrainDone x0) := by
  unfold execFuncDrainDone
  with_reducible repeat' first | assumption | apply KeepsAns.next | apply ashExempt_keeps | apply notEnabled_keeps | ((refine onAuth_keeps ?_ ?hg); case hg => with_unfolding_all exact SeqKept.refl _) | split

theorem execRoute_keeps {s0 : State} {x0} {x1 : State} (hx1 : Keeps s0 x1) :
    KeepsAns s0 (execRoute x0 x1) := by
  unfold execRoute
  with_reducible repeat' first | assumption | apply onChim_keeps | apply takeItem_keeps | extract_lets | intro _

theorem execSiteState_keeps {s0 : State} {x0} {x1 : State} (hx1 : Keeps s0 x1) :
    KeepsAns s0 (execSiteState x0 x1) := by
  unfold execSiteState
  with_reducible repeat' first | assumption | apply onSite_keeps | apply returnSite_keeps | apply takeItem_keeps | extract_lets | split | intro _

theorem execTestComplete_keeps {s0 : State} {x0} {x1} {x2 : State} (hx2 : Keeps s0 x2) :
    KeepsAns s0 (execTestComplete x0 x1 x2) := by
  unfold execTestComplete
  with_reducible repeat' first | assumption | apply KeepsAns.next | apply ashExempt_keeps | apply notEnabled_keeps | apply onSite_keeps | apply testFailure_keeps | apply forAll_keeps | extract_lets | split | intro _

theorem execExtentMove_keeps {s0 : State} {x0} {x1 : State} (hx1 : Keeps s0 x1) :
    KeepsAns s0 (execExtentMove x0 x1) := by
  unfold execExtentMove
  with_reducible repeat' first | assumption | apply askMove_keeps | apply takeItem_keeps | extract_lets | intro _

theorem execPowerSetState_keeps {s0 : State} {x0} {x1 : State} (hx1 : Keeps s0 x1) :
    KeepsAns s0 (execPowerSetState x0 x1) := by
  unfold execPowerSetState
  with_reducible repeat' first | assumption | apply beginEntry_keeps | apply takeItem_keeps | extract_lets | intro _

theorem execPowerSetSection_keeps {s0 : State} {x0} {x1 : State} (hx1 : Keeps s0 x1) :
    KeepsAns s0 (execPowerSetSection x0 x1) := by
  unfold execPowerSetSection
  with_reducible repeat' first | assumption | apply applyPower_keeps | apply takeItem_keeps | extract_lets | intro _

theorem execModuleParams_keeps {s0 : State} {x0} {x1 : State} (hx1 : Keeps s0 x1) :
    KeepsAns s0 (execModuleParams x0 x1) := by
  unfold execModuleParams
  with_reducible repeat' first | assumption | apply onCfg_keeps | apply takeItem_keeps | extract_lets | intro _

theorem execReset_keeps {s0 : State} {x0} {x1 : State} (hx1 : Keeps s0 x1) :
    KeepsAns s0 (execReset x0 x1) := by
  unfold execReset
  with_reducible repeat' first | assumption | ((refine onAuth_keeps ?_ ?hg); case hg => with_unfolding_all exact SeqKept.refl _) | apply takeItem_keeps | extract_lets | intro _

theorem execResetDelayExpire_keeps {s0 : State} {x0 : State} (hx0 : Keeps s0 x0) :
    KeepsAns s0 (execResetDelayExpire x0) := by
  unfold execResetDelayExpire
  with_reducible repeat' first | assumption | apply KeepsAns.next | apply flush_keeps | apply notEnabled_keeps | apply resetDevice_keeps | (apply KeepsAns.ite <;> intro _) | split

end Sys2Proof.Machine
end

