-- ==== Sys2Proof/Laws/KeepsCompare.lean ====
section
/-! SUPPORT. What every operation of Machine/Compare.lean leaves as the law Keeps says (Laws/Keeps.lean). -/

namespace Sys2Proof.Machine

theorem scmp_keeps {s0 : State} {x0 : State} {x1} {x2} {x3} (hx0 : Keeps s0 x0) :
    KeepsAns s0 (scmp x0 x1 x2 x3) := by
  unfold scmp
  with_reducible repeat' first | assumption | apply regOp_keeps

theorem execCne_keeps {s0 : State} {x0} {x1} {x2 : State} (hx2 : Keeps s0 x2) :
    KeepsAns s0 (execCne x0 x1 x2) := by
  unfold execCne
  with_reducible repeat' first | assumption | apply scmp_keeps

theorem execCgeu_keeps {s0 : State} {x0} {x1} {x2 : State} (hx2 : Keeps s0 x2) :
    KeepsAns s0 (execCgeu x0 x1 x2) := by
  unfold execCgeu
  with_reducible repeat' first | assumption | apply scmp_keeps

theorem plogic_keeps {s0 : State} {x0 : State} {x1} {x2} {x3} (hx0 : Keeps s0 x0) :
    KeepsAns s0 (plogic x0 x1 x2 x3) := by
  unfold plogic
  with_reducible repeat' first | assumption | apply regOp_keeps

theorem execPxor_keeps {s0 : State} {x0} {x1} {x2 : State} (hx2 : Keeps s0 x2) :
    KeepsAns s0 (execPxor x0 x1 x2) := by
  unfold execPxor
  with_reducible repeat' first | assumption | apply plogic_keeps

theorem execCge_keeps {s0 : State} {x0} {x1} {x2 : State} (hx2 : Keeps s0 x2) :
    KeepsAns s0 (execCge x0 x1 x2) := by
  unfold execCge
  with_reducible repeat' first | assumption | apply scmp_keeps

theorem execVany_keeps {s0 : State} {x0} {x1} {x2 : State} (hx2 : Keeps s0 x2) :
    KeepsAns s0 (execVany x0 x1 x2) := by
  unfold execVany
  with_reducible repeat' first | assumption | apply regOp_keeps

theorem execPnot_keeps {s0 : State} {x0} {x1} {x2 : State} (hx2 : Keeps s0 x2) :
    KeepsAns s0 (execPnot x0 x1 x2) := by
  unfold execPnot
  with_reducible repeat' first | assumption | apply plogic_keeps

theorem execClt_keeps {s0 : State} {x0} {x1} {x2 : State} (hx2 : Keeps s0 x2) :
    KeepsAns s0 (execClt x0 x1 x2) := by
  unfold execClt
  with_reducible repeat' first | assumption | apply scmp_keeps

theorem vcmp_keeps {s0 : State} {x0 : State} {x1} {x2} {x3} {x4} (hx0 : Keeps s0 x0) :
    KeepsAns s0 (vcmp x0 x1 x2 x3 x4) := by
  unfold vcmp
  with_reducible repeat' first | assumption | apply KeepsAns.next | apply issue_keeps | apply meterVec_keeps | apply onThread_keeps | extract_lets | intro _

theorem execPand_keeps {s0 : State} {x0} {x1} {x2 : State} (hx2 : Keeps s0 x2) :
    KeepsAns s0 (execPand x0 x1 x2) := by
  unfold execPand
  with_reducible repeat' first | assumption | apply plogic_keeps

theorem execVcmpeq_keeps {s0 : State} {x0} {x1} {x2 : State} (hx2 : Keeps s0 x2) :
    KeepsAns s0 (execVcmpeq x0 x1 x2) := by
  unfold execVcmpeq
  with_reducible repeat' first | assumption | apply vcmp_keeps

theorem execCeq_keeps {s0 : State} {x0} {x1} {x2 : State} (hx2 : Keeps s0 x2) :
    KeepsAns s0 (execCeq x0 x1 x2) := by
  unfold execCeq
  with_reducible repeat' first | assumption | apply scmp_keeps

theorem execCltu_keeps {s0 : State} {x0} {x1} {x2 : State} (hx2 : Keeps s0 x2) :
    KeepsAns s0 (execCltu x0 x1 x2) := by
  unfold execCltu
  with_reducible repeat' first | assumption | apply scmp_keeps

theorem execSel_keeps {s0 : State} {x0} {x1} {x2 : State} (hx2 : Keeps s0 x2) :
    KeepsAns s0 (execSel x0 x1 x2) := by
  unfold execSel
  with_reducible repeat' first | assumption | apply regOp_keeps

theorem execPor_keeps {s0 : State} {x0} {x1} {x2 : State} (hx2 : Keeps s0 x2) :
    KeepsAns s0 (execPor x0 x1 x2) := by
  unfold execPor
  with_reducible repeat' first | assumption | apply plogic_keeps

theorem execVcmplt_keeps {s0 : State} {x0} {x1} {x2 : State} (hx2 : Keeps s0 x2) :
    KeepsAns s0 (execVcmplt x0 x1 x2) := by
  unfold execVcmplt
  with_reducible repeat' first | assumption | apply vcmp_keeps

theorem execVsel_keeps {s0 : State} {x0} {x1} {x2 : State} (hx2 : Keeps s0 x2) :
    KeepsAns s0 (execVsel x0 x1 x2) := by
  unfold execVsel
  with_reducible repeat' first | assumption | apply regOp_keeps

end Sys2Proof.Machine
end

