-- ==== Sys2Proof/Laws/KeepsControl.lean ====
section
/-! SUPPORT. What every operation of Machine/Control.lean leaves as the law Keeps says (Laws/Keeps.lean). -/

namespace Sys2Proof.Machine

theorem execRunLimitExpire_keeps {s0 : State} {x0} {x1 : State} (hx1 : Keeps s0 x1) :
    KeepsAns s0 (execRunLimitExpire x0 x1) := by
  unfold execRunLimitExpire
  with_reducible repeat' first | assumption | apply KeepsAns.next | apply fault_keeps | apply notEnabled_keeps | extract_lets | (apply KeepsAns.ite <;> intro _) | split

theorem execLoop_keeps {s0 : State} {x0} {x1} {x2 : State} (hx2 : Keeps s0 x2) :
    KeepsAns s0 (execLoop x0 x1 x2) := by
  unfold execLoop
  with_reducible repeat' first | assumption | apply KeepsAns.next | apply issue_keeps | apply onThread_keeps | extract_lets | intro _

theorem execBr_keeps {s0 : State} {x0} {x1} {x2 : State} (hx2 : Keeps s0 x2) :
    KeepsAns s0 (execBr x0 x1 x2) := by
  unfold execBr
  with_reducible repeat' first | assumption | apply KeepsAns.next | apply issue_keeps | apply onThread_keeps | extract_lets | intro _

theorem execPcnt_keeps {s0 : State} {x0} {x1} {x2 : State} (hx2 : Keeps s0 x2) :
    KeepsAns s0 (execPcnt x0 x1 x2) := by
  unfold execPcnt
  with_reducible repeat' first | assumption | apply regOp_keeps

theorem execExit_keeps {s0 : State} {x0} {x1} {x2 : State} (hx2 : Keeps s0 x2) :
    KeepsAns s0 (execExit x0 x1 x2) := by
  unfold execExit
  with_reducible repeat' first | assumption | apply KeepsAns.next | apply issue_keeps | apply onItem_keeps | apply onThread_keeps | extract_lets | intro _

theorem execJal_keeps {s0 : State} {x0} {x1} {x2 : State} (hx2 : Keeps s0 x2) :
    KeepsAns s0 (execJal x0 x1 x2) := by
  unfold execJal
  with_reducible repeat' first | assumption | apply KeepsAns.next | apply issue_keeps | apply onThread_keeps | extract_lets | intro _

theorem execJr_keeps {s0 : State} {x0} {x1} {x2 : State} (hx2 : Keeps s0 x2) :
    KeepsAns s0 (execJr x0 x1 x2) := by
  unfold execJr
  with_reducible repeat' first | assumption | apply KeepsAns.next | apply fault_keeps | apply issue_keeps | apply onThread_keeps | extract_lets | (apply KeepsAns.ite <;> intro _) | intro _

theorem execYield_keeps {s0 : State} {x0} {x1} {x2 : State} (hx2 : Keeps s0 x2) :
    KeepsAns s0 (execYield x0 x1 x2) := by
  unfold execYield
  with_reducible repeat' first | assumption | apply regOp_keeps

theorem execTrap_keeps {s0 : State} {x0} {x1} {x2 : State} (hx2 : Keeps s0 x2) :
    KeepsAns s0 (execTrap x0 x1 x2) := by
  unfold execTrap
  with_reducible repeat' first | assumption | apply KeepsAns.next | apply fault_keeps | apply issue_keeps | extract_lets | intro _

theorem execCcnt_keeps {s0 : State} {x0} {x1} {x2 : State} (hx2 : Keeps s0 x2) :
    KeepsAns s0 (execCcnt x0 x1 x2) := by
  unfold execCcnt
  with_reducible repeat' first | assumption | apply KeepsAns.next | apply bump_keeps | apply issue_keeps | apply onThread_keeps | extract_lets | intro _

end Sys2Proof.Machine
end

