-- ==== Sys2Proof/Laws/KeepsEmbed.lean ====
section
/-! SUPPORT. What every operation of Machine/Embed.lean leaves as the law Keeps says (Laws/Keeps.lean). -/

namespace Sys2Proof.Machine

theorem readGrads_keeps {s0 : State} {x0 : State} {x1} {x2} {x3} {x4} (hx0 : Keeps s0 x0) :
    KeepsFst s0 (readGrads x0 x1 x2 x3 x4) := by
  induction x4 generalizing x0 x1 x2 x3 with
  | nil => unfold readGrads; with_reducible repeat' first | assumption | apply itemRead_keeps | (apply Keeps.ofFst; assumption) | apply ih | extract_lets | split | simp only [KeepsFst.pair_iff]
  | cons z zs ih => unfold readGrads; with_reducible repeat' first | assumption | apply itemRead_keeps | (apply Keeps.ofFst; assumption) | apply ih | extract_lets | split | simp only [KeepsFst.pair_iff]

theorem readGrads_keeps1 {s0 : State} {x0 : State} {x1} {x2} {x3} {x4} (hx0 : Keeps s0 x0) :
    Keeps s0 (readGrads x0 x1 x2 x3 x4).1 := readGrads_keeps hx0

theorem readIndex_keeps {s0 : State} {x0 : State} {x1} {x2} {x3} (hx0 : Keeps s0 x0) :
    KeepsFst s0 (readIndex x0 x1 x2 x3) := by
  unfold readIndex
  with_reducible repeat' first | assumption | apply itemRead_keeps | (apply Keeps.ofFst; assumption) | extract_lets | split | simp only [KeepsFst.pair_iff]

theorem readIndex_keeps1 {s0 : State} {x0 : State} {x1} {x2} {x3} (hx0 : Keeps s0 x0) :
    Keeps s0 (readIndex x0 x1 x2 x3).1 := readIndex_keeps hx0

theorem bagIndices_keeps {s0 : State} {x0 : State} {x1} {x2} {x3} {x4} {x5} (hx0 : Keeps s0 x0) :
    KeepsFst s0 (bagIndices x0 x1 x2 x3 x4 x5) := by
  induction x5 generalizing x0 x1 x2 x3 x4 with
  | zero => unfold bagIndices; with_reducible repeat' first | assumption | apply readIndex_keeps | (apply Keeps.ofFst; assumption) | apply ih | extract_lets | (apply KeepsFst.ite <;> intro _) | split | simp only [KeepsFst.pair_iff]
  | succ n ih => unfold bagIndices; with_reducible repeat' first | assumption | apply readIndex_keeps | (apply Keeps.ofFst; assumption) | apply ih | extract_lets | (apply KeepsFst.ite <;> intro _) | split | simp only [KeepsFst.pair_iff]

theorem bagIndices_keeps1 {s0 : State} {x0 : State} {x1} {x2} {x3} {x4} {x5} (hx0 : Keeps s0 x0) :
    Keeps s0 (bagIndices x0 x1 x2 x3 x4 x5).1 := bagIndices_keeps hx0

theorem readRow_keeps {s0 : State} {x0 : State} {x1} {x2} {x3} (hx0 : Keeps s0 x0) :
    KeepsFst s0 (readRow x0 x1 x2 x3) := by
  unfold readRow
  with_reducible repeat' first | assumption | apply itemRead_keeps | (apply Keeps.ofFst; assumption) | split | simp only [KeepsFst.pair_iff]

theorem readRow_keeps1 {s0 : State} {x0 : State} {x1} {x2} {x3} (hx0 : Keeps s0 x0) :
    Keeps s0 (readRow x0 x1 x2 x3).1 := readRow_keeps hx0

theorem readRows_keeps {s0 : State} {x0 : State} {x1} {x2} {x3} (hx0 : Keeps s0 x0) :
    KeepsFst s0 (readRows x0 x1 x2 x3) := by
  induction x3 generalizing x0 x1 x2 with
  | nil => unfold readRows; with_reducible repeat' first | assumption | apply readRow_keeps | (apply Keeps.ofFst; assumption) | apply ih | split | simp only [KeepsFst.pair_iff]
  | cons z zs ih => unfold readRows; with_reducible repeat' first | assumption | apply readRow_keeps | (apply Keeps.ofFst; assumption) | apply ih | split | simp only [KeepsFst.pair_iff]

theorem readRows_keeps1 {s0 : State} {x0 : State} {x1} {x2} {x3} (hx0 : Keeps s0 x0) :
    Keeps s0 (readRows x0 x1 x2 x3).1 := readRows_keeps hx0

theorem bagRows_keeps {s0 : State} {x0 : State} {x1} {x2} {x3} {x4} (hx0 : Keeps s0 x0) :
    KeepsFst s0 (bagRows x0 x1 x2 x3 x4) := by
  induction x4 generalizing x0 x1 x2 x3 with
  | nil => unfold bagRows; with_reducible repeat' first | assumption | apply readRows_keeps | (apply Keeps.ofFst; assumption) | apply ih | split | simp only [KeepsFst.pair_iff]
  | cons z zs ih => unfold bagRows; with_reducible repeat' first | assumption | apply readRows_keeps | (apply Keeps.ofFst; assumption) | apply ih | split | simp only [KeepsFst.pair_iff]

theorem bagRows_keeps1 {s0 : State} {x0 : State} {x1} {x2} {x3} {x4} (hx0 : Keeps s0 x0) :
    Keeps s0 (bagRows x0 x1 x2 x3 x4).1 := bagRows_keeps hx0

theorem countDrop_keeps {s0 : State} {x0 : State} {x1} (hx0 : Keeps s0 x0) :
    KeepsFst s0 (countDrop x0 x1) := by
  unfold countDrop
  with_reducible repeat' first | assumption | apply applyWrite_keeps | apply prepWrite_keeps1 | extract_lets | (apply KeepsFst.ite <;> intro _) | split | simp only [KeepsFst.pair_iff]

theorem countDrop_keeps1 {s0 : State} {x0 : State} {x1} (hx0 : Keeps s0 x0) :
    Keeps s0 (countDrop x0 x1).1 := countDrop_keeps hx0

theorem countDrops_keeps {s0 : State} {x0 : State} {x1} {x2} (hx0 : Keeps s0 x0) :
    KeepsFst s0 (countDrops x0 x1 x2) := by
  induction x2 generalizing x0 x1 with
  | zero => unfold countDrops; with_reducible repeat' first | assumption | apply countDrop_keeps | (apply Keeps.ofFst; assumption) | apply ih | split | simp only [KeepsFst.pair_iff]
  | succ n ih => unfold countDrops; with_reducible repeat' first | assumption | apply countDrop_keeps | (apply Keeps.ofFst; assumption) | apply ih | split | simp only [KeepsFst.pair_iff]

theorem countDrops_keeps1 {s0 : State} {x0 : State} {x1} {x2} (hx0 : Keeps s0 x0) :
    Keeps s0 (countDrops x0 x1 x2).1 := countDrops_keeps hx0

theorem gatherBag_keeps {s0 : State} {x0 : State} {x1} {x2} {x3} {x4} (hx0 : Keeps s0 x0) :
    KeepsAns s0 (gatherBag x0 x1 x2 x3 x4) := by
  unfold gatherBag
  with_reducible repeat' first | assumption | apply KeepsAns.next | apply bagIndices_keeps1 | apply bagRows_keeps1 | apply bump_keeps | apply countDrops_keeps | apply failItem_keeps | apply itemRead_keeps1 | apply itemStore_keeps1 | apply onGotI_keeps | apply onItem_keeps | (apply Keeps.ofFst; assumption) | extract_lets | (apply KeepsAns.ite <;> intro _) | split | intro _

theorem readIndices_keeps {s0 : State} {x0 : State} {x1} {x2} (hx0 : Keeps s0 x0) :
    KeepsFst s0 (readIndices x0 x1 x2) := by
  unfold readIndices
  with_reducible repeat' first | assumption | apply itemRead_keeps | (apply Keeps.ofFst; assumption) | extract_lets | split | simp only [KeepsFst.pair_iff]

theorem readIndices_keeps1 {s0 : State} {x0 : State} {x1} {x2} (hx0 : Keeps s0 x0) :
    Keeps s0 (readIndices x0 x1 x2).1 := readIndices_keeps hx0

theorem tryRow_keeps {s0 : State} {x0 : State} {x1} {x2} {x3} (hx0 : Keeps s0 x0) :
    KeepsFst s0 (tryRow x0 x1 x2 x3) := by
  unfold tryRow
  with_reducible repeat' first | assumption | apply tryStores_keeps | (apply Keeps.ofFst; assumption) | split | simp only [KeepsFst.pair_iff]

theorem tryRow_keeps1 {s0 : State} {x0 : State} {x1} {x2} {x3} (hx0 : Keeps s0 x0) :
    Keeps s0 (tryRow x0 x1 x2 x3).1 := tryRow_keeps hx0

theorem sendScatter_keeps {s0 : State} {x0 : State} {x1} {x2} {x3} {x4} {x5} {x6} {x7} (hx0 : Keeps s0 x0) :
    Keeps s0 (sendScatter x0 x1 x2 x3 x4 x5 x6 x7) := by
  unfold sendScatter
  with_reducible repeat' first | assumption | apply sendFabric_keeps

theorem scatterRow_keeps {s0 : State} {x0 : State} {x1} {x2} {x3} {x4} (hx0 : Keeps s0 x0) :
    KeepsAns s0 (scatterRow x0 x1 x2 x3 x4) := by
  unfold scatterRow
  with_reducible repeat' first | assumption | apply KeepsAns.next | apply failItem_keeps | apply onGotI_keeps | apply onItem_keeps | apply readGrads_keeps1 | apply readIndices_keeps1 | apply sendScatter_keeps | apply tryRow_keeps | apply updateRow_keeps | (apply Keeps.ofFst; assumption) | extract_lets | (apply KeepsAns.ite <;> intro _) | split | intro _

theorem gatherWrite_keeps {s0 : State} {x0 : State} {x1} {x2} {x3} {x4} {x5} (hx0 : Keeps s0 x0) :
    KeepsAns s0 (gatherWrite x0 x1 x2 x3 x4 x5) := by
  unfold gatherWrite
  with_reducible repeat' first | assumption | apply KeepsAns.next | apply itemStore_keeps1 | apply onGotI_keeps | apply onItem_keeps | extract_lets | intro _

theorem gatherOne_keeps {s0 : State} {x0 : State} {x1} {x2} {x3} {x4} (hx0 : Keeps s0 x0) :
    KeepsAns s0 (gatherOne x0 x1 x2 x3 x4) := by
  unfold gatherOne
  with_reducible repeat' first | assumption | apply KeepsAns.next | apply bump_keeps | apply countDrop_keeps | apply gatherWrite_keeps | apply itemRead_keeps1 | apply onGotI_keeps | apply readIndex_keeps1 | apply readRows_keeps1 | (apply Keeps.ofFst; assumption) | extract_lets | (apply KeepsAns.ite <;> intro _) | split | intro _

theorem execRowupd_keeps {s0 : State} {x0} {x1} {x2 : State} (hx2 : Keeps s0 x2) :
    KeepsAns s0 (execRowupd x0 x1 x2) := by
  unfold execRowupd
  with_reducible repeat' first | assumption | apply KeepsAns.next | apply bump_keeps | apply chargeReads_keeps | apply fault_keeps | apply issue_keeps | apply onGot_keeps | apply onThread_keeps | apply readJva_keeps | apply sendScatter_keeps | apply tryRow_keeps1 | apply updateRow_keeps | apply wholeTile_keeps1 | (apply Keeps.ofFst; assumption) | extract_lets | (apply KeepsAns.ite <;> intro _) | split | intro _

theorem pinRead_keeps {s0 : State} {x0 : State} {x1} {x2} {x3} (hx0 : Keeps s0 x0) :
    KeepsAns s0 (pinRead x0 x1 x2 x3) := by
  unfold pinRead
  with_reducible repeat' first | assumption | apply KeepsAns.next | apply applyWrite_keeps | apply failItem_keeps | apply meterLine_keeps | apply onGotI_keeps | apply onItem_keeps | apply tryStore_keeps1 | extract_lets | (apply KeepsAns.ite <;> intro _) | split | intro _

theorem execScatterUpdate_keeps {s0 : State} {x0} {x1 : State} (hx1 : Keeps s0 x1) :
    KeepsAns s0 (execScatterUpdate x0 x1) := by
  unfold execScatterUpdate
  with_reducible repeat' first | assumption | apply KeepsAns.next | apply countDrops_keeps1 | apply failItem_keeps | apply itemClass_keeps | apply itemRead_keeps1 | apply notEnabled_keeps | apply onGotI_keeps | apply onItem_keeps | apply opRun_keeps | apply pinRead_keeps | apply readIndices_keeps1 | apply scatterRow_keeps | (apply Keeps.ofFst; assumption) | extract_lets | (apply KeepsAns.ite <;> intro _) | split | intro _

theorem execHashm_keeps {s0 : State} {x0} {x1} {x2 : State} (hx2 : Keeps s0 x2) :
    KeepsAns s0 (execHashm x0 x1 x2) := by
  unfold execHashm
  with_reducible repeat' first | assumption | apply regOp_keeps

theorem execQr_keeps {s0 : State} {x0} {x1} {x2 : State} (hx2 : Keeps s0 x2) :
    KeepsAns s0 (execQr x0 x1 x2) := by
  unfold execQr
  with_reducible repeat' first | assumption | apply regOp_keeps

theorem execCoali_keeps {s0 : State} {x0} {x1} {x2 : State} (hx2 : Keeps s0 x2) :
    KeepsAns s0 (execCoali x0 x1 x2) := by
  unfold execCoali
  with_reducible repeat' first | assumption | apply KeepsAns.next | apply issue_keeps | apply onItem_keeps | apply onThread_keeps | extract_lets | split | intro _

theorem execCoaln_keeps {s0 : State} {x0} {x1} {x2 : State} (hx2 : Keeps s0 x2) :
    KeepsAns s0 (execCoaln x0 x1 x2) := by
  unfold execCoaln
  with_reducible repeat' first | assumption | apply KeepsAns.next | apply issue_keeps | apply onThread_keeps | extract_lets | intro _

theorem replicaHere_keeps {s0 : State} {x0 : State} {x1} {x2} (hx0 : Keeps s0 x0) :
    KeepsFst s0 (replicaHere x0 x1 x2) := by
  unfold replicaHere
  with_reducible repeat' first | assumption | apply denseAt_keeps | (apply Keeps.ofFst; assumption) | extract_lets | (apply KeepsFst.ite <;> intro _) | split | simp only [KeepsFst.pair_iff] | dsimp +zetaDelta only

theorem replicaHere_keeps1 {s0 : State} {x0 : State} {x1} {x2} (hx0 : Keeps s0 x0) :
    Keeps s0 (replicaHere x0 x1 x2).1 := replicaHere_keeps hx0

theorem execGather_keeps {s0 : State} {x0} {x1 : State} (hx1 : Keeps s0 x1) :
    KeepsAns s0 (execGather x0 x1) := by
  unfold execGather
  with_reducible repeat' first | assumption | apply KeepsAns.next | apply failItem_keeps | apply gatherBag_keeps | apply gatherOne_keeps | apply itemClass_keeps | apply onGotI_keeps | apply onItem_keeps | apply opRun_keeps | apply pinRead_keeps | apply replicaHere_keeps1 | (apply Keeps.ofFst; assumption) | extract_lets | (apply KeepsAns.ite <;> intro _) | split | intro _

end Sys2Proof.Machine
end

