-- ==== Sys2Proof/Laws/KeepsFinish.lean ====
section
/-! SUPPORT. What every operation of Machine/Finish.lean leaves as the law Keeps says (Laws/Keeps.lean). -/

namespace Sys2Proof.Machine

theorem releaseItem_keeps {s0 : State} {x0 : State} {x1} (hx0 : Keeps s0 x0) :
    Keeps s0 (releaseItem x0 x1) := by
  unfold releaseItem
  with_reducible repeat' first | assumption | apply bump_keeps | apply meter_keeps | apply onHome_keeps | apply onStv_keeps | apply onT0_keeps | apply forAll_keeps | extract_lets | intro _

theorem execWindowCounterUpdate_keeps {s0 : State} {x0} {x1 : State} (hx1 : Keeps s0 x1) :
    KeepsAns s0 (execWindowCounterUpdate x0 x1) := by
  unfold execWindowCounterUpdate
  with_reducible repeat' first | assumption | apply KeepsAns.next | apply notEnabled_keeps | apply onWin_keeps | apply writeWinHeader_keeps | (apply KeepsAns.ite <;> intro _) | split

theorem moveHearth_keeps {s0 : State} {x0 : State} {x1} {x2} (hx0 : Keeps s0 x0) :
    Keeps s0 (moveHearth x0 x1 x2) := by
  unfold moveHearth
  with_reducible repeat' first | assumption | apply onItem_keeps | apply onT0Slice_keeps | extract_lets | (apply Keeps.ite' <;> intro _)

theorem execItemMove_keeps {s0 : State} {x0} {x1} {x2 : State} (hx2 : Keeps s0 x2) :
    KeepsAns s0 (execItemMove x0 x1 x2) := by
  unfold execItemMove
  with_reducible repeat' first | assumption | apply KeepsAns.next | apply devStore_keeps | apply flagReady_keeps | apply moveHearth_keeps | apply notEnabled_keeps | apply onItem_keeps | (apply Keeps.ofFst; assumption) | extract_lets | (apply KeepsAns.ite <;> intro _) | split

theorem lateDrop_keeps {s0 : State} {x0 : State} {x1} (hx0 : Keeps s0 x0) :
    Keeps s0 (lateDrop x0 x1) := by
  unfold lateDrop
  with_reducible repeat' first | assumption | apply onWin_keeps

theorem unpin_keeps {s0 : State} {x0 : State} {x1} (hx0 : Keeps s0 x0) :
    KeepsFst s0 (unpin x0 x1) := by
  unfold unpin
  with_reducible repeat' first | assumption | apply applyWrite_keeps | apply prepRead_keeps | apply prepWrite_keeps | (apply Keeps.ofFst; assumption) | extract_lets | (apply KeepsFst.ite <;> intro _) | split | simp only [KeepsFst.pair_iff]

theorem unpin_keeps1 {s0 : State} {x0 : State} {x1} (hx0 : Keeps s0 x0) :
    Keeps s0 (unpin x0 x1).1 := unpin_keeps hx0

theorem endFlag_keeps {s0 : State} {x0 : State} {x1} {x2} {x3} {x4} {x5} {x6} (hx0 : Keeps s0 x0) :
    Keeps s0 (endFlag x0 x1 x2 x3 x4 x5 x6) := by
  unfold endFlag
  with_reducible repeat' first | assumption | apply finishFlag_keeps | apply meter_keeps | apply releaseItem_keeps | apply settle_keeps | apply unpin_keeps | (apply Keeps.ofFst; assumption) | split

theorem meterCodes_keeps {s0 : State} {x0 : State} {x1} {x2} (hx0 : Keeps s0 x0) :
    Keeps s0 (meterCodes x0 x1 x2) := by
  unfold meterCodes
  with_reducible repeat' first | assumption | apply meter_keeps | (apply Keeps.ite' <;> intro _)

theorem completeItem_keeps {s0 : State} {x0 : State} {x1} {x2} {x3} (hx0 : Keeps s0 x0) :
    Keeps s0 (completeItem x0 x1 x2 x3) := by
  unfold completeItem
  with_reducible repeat' first | assumption | apply devStore_keeps | apply endFlag_keeps | apply meterCodes_keeps | apply prepWrite_keeps | apply unpin_keeps | (apply Keeps.ofFst; assumption) | extract_lets | (apply Keeps.ite' <;> intro _) | split

theorem execItemComplete_keeps {s0 : State} {x0} {x1 : State} (hx1 : Keeps s0 x1) :
    KeepsAns s0 (execItemComplete x0 x1) := by
  unfold execItemComplete
  with_reducible repeat' first | assumption | apply KeepsAns.next | apply completeItem_keeps | apply flagReady_keeps | apply lateDrop_keeps | apply notEnabled_keeps | apply onItem_keeps | apply releaseItem_keeps | apply settle_keeps | (apply Keeps.ofFst; assumption) | extract_lets | (apply KeepsAns.ite <;> intro _) | split

theorem execStoveDomainPowered_keeps {s0 : State} {x0} {x1 : State} (hx1 : Keeps s0 x1) :
    KeepsAns s0 (execStoveDomainPowered x0 x1) := by
  unfold execStoveDomainPowered
  with_reducible repeat' first | assumption | apply KeepsAns.next | apply notEnabled_keeps | apply onPwr_keeps | (apply KeepsAns.ite <;> intro _)

theorem execCancelDrainDone_keeps {s0 : State} {x0} {x1 : State} (hx1 : Keeps s0 x1) :
    KeepsAns s0 (execCancelDrainDone x0 x1) := by
  unfold execCancelDrainDone
  with_reducible repeat' first | assumption | apply KeepsAns.next | apply endFlag_keeps | apply flagReady_keeps | apply lateDrop_keeps | apply notEnabled_keeps | apply onWin_keeps | apply releaseItem_keeps | apply settle_keeps | apply unpin_keeps | (apply Keeps.ofFst; assumption) | extract_lets | (apply KeepsAns.ite <;> intro _) | split

end Sys2Proof.Machine
end

