-- ==== Sys2Proof/Laws/KeepsGeneral.lean ====
section
/-! SUPPORT. What every operation of Machine/General.lean leaves as the law Keeps says (Laws/Keeps.lean). -/

namespace Sys2Proof.Machine

theorem execKernel_keeps {s0 : State} {x0} {x1 : State} (hx1 : Keeps s0 x1) :
    KeepsAns s0 (execKernel x0 x1) := by
  unfold execKernel
  with_reducible repeat' first | assumption | apply KeepsAns.next | apply notEnabled_keeps | apply onItem_keeps | apply opRun_keeps | extract_lets | (apply KeepsAns.ite <;> intro _) | intro _

theorem quietPages_keeps {s0 : State} {x0 : State} {x1} {x2} {x3} (hx0 : Keeps s0 x0) :
    KeepsFst s0 (quietPages x0 x1 x2 x3) := by
  induction x3 generalizing x0 x1 x2 with
  | nil => unfold quietPages; with_reducible repeat' first | assumption | apply xlateTry_keeps | (apply Keeps.ofFst; assumption) | apply ih | extract_lets | (apply KeepsFst.ite <;> intro _) | split | simp only [KeepsFst.pair_iff]
  | cons z zs ih => unfold quietPages; with_reducible repeat' first | assumption | apply xlateTry_keeps | (apply Keeps.ofFst; assumption) | apply ih | extract_lets | (apply KeepsFst.ite <;> intro _) | split | simp only [KeepsFst.pair_iff]

theorem quietPages_keeps1 {s0 : State} {x0 : State} {x1} {x2} {x3} (hx0 : Keeps s0 x0) :
    Keeps s0 (quietPages x0 x1 x2 x3).1 := quietPages_keeps hx0

theorem tileDone_keeps {s0 : State} {x0 : State} {x1} {x2} (hx0 : Keeps s0 x0) :
    Keeps s0 (tileDone x0 x1 x2) := by
  unfold tileDone
  with_reducible repeat' first | assumption | apply onItem_keeps

theorem prefetchTile_keeps {s0 : State} {x0 : State} {x1} {x2} (hx0 : Keeps s0 x0) :
    KeepsAns s0 (prefetchTile x0 x1 x2) := by
  unfold prefetchTile
  with_reducible repeat' first | assumption | apply KeepsAns.next | apply endItem_keeps | apply notEnabled_keeps | apply opRun_keeps | apply promote_keeps | apply quietPages_keeps | apply tileDone_keeps | (apply Keeps.ofFst; assumption) | extract_lets | (apply KeepsAns.ite <;> intro _) | split | intro _

theorem execPrefetchTier0_keeps {s0 : State} {x0} {x1 : State} (hx1 : Keeps s0 x1) :
    KeepsAns s0 (execPrefetchTier0 x0 x1) := by
  unfold execPrefetchTier0
  with_reducible repeat' first | assumption | apply prefetchTile_keeps

theorem pinTile_keeps {s0 : State} {x0 : State} {x1} {x2} (hx0 : Keeps s0 x0) :
    Keeps s0 (pinTile x0 x1 x2) := by
  unfold pinTile
  with_reducible repeat' first | assumption | apply evictOne_keeps1 | apply onT0Slice_keeps | apply onT0Tile_keeps | extract_lets | (apply Keeps.ite' <;> intro _)

theorem execPublish_keeps {s0 : State} {x0} {x1 : State} (hx1 : Keeps s0 x1) :
    KeepsAns s0 (execPublish x0 x1) := by
  unfold execPublish
  with_reducible repeat' first | assumption | apply KeepsAns.next | apply endItem_keeps | apply failItem_keeps | apply notEnabled_keeps | apply onGotI_keeps | apply opRun_keeps | apply publishNow_keeps | apply sendFabric_keeps | apply stoveXlate_keeps1 | (apply Keeps.ofFst; assumption) | extract_lets | (apply KeepsAns.ite <;> intro _) | split | intro _

theorem adviseRun_keeps {s0 : State} {x0 : State} {x1} {x2} {x3} (hx0 : Keeps s0 x0) (hx3 : ∀ y0, KeepsAns s0 (x3 y0)) :
    KeepsAns s0 (adviseRun x0 x1 x2 x3) := by
  unfold adviseRun
  with_reducible repeat' first | assumption | apply notEnabled_keeps | apply opRun_keeps | apply hx3 | extract_lets | (apply KeepsAns.ite <;> intro _) | intro _

theorem execAdvisePin_keeps {s0 : State} {x0} {x1 : State} (hx1 : Keeps s0 x1) :
    KeepsAns s0 (execAdvisePin x0 x1) := by
  unfold execAdvisePin
  with_reducible repeat' first | assumption | apply KeepsAns.next | apply adviseRun_keeps | apply endItem_keeps | apply failItem_keeps | apply onGotI_keeps | apply onItem_keeps | apply pinTile_keeps | apply tileDone_keeps | apply tryPages_keeps1 | extract_lets | (apply KeepsAns.ite <;> intro _) | split | intro _

theorem itemStoreTile_keeps {s0 : State} {x0 : State} {x1} {x2} {x3} {x4} (hx0 : Keeps s0 x0) :
    KeepsFst s0 (itemStoreTile x0 x1 x2 x3 x4) := by
  unfold itemStoreTile
  with_reducible repeat' first | assumption | apply storeTile_keeps | apply tryPages_keeps | (apply Keeps.ofFst; assumption) | extract_lets | (apply KeepsFst.ite <;> intro _) | split | simp only [KeepsFst.pair_iff]

theorem itemStoreTile_keeps1 {s0 : State} {x0 : State} {x1} {x2} {x3} {x4} (hx0 : Keeps s0 x0) :
    Keeps s0 (itemStoreTile x0 x1 x2 x3 x4).1 := itemStoreTile_keeps hx0

theorem execAdvisePair_keeps {s0 : State} {x0} {x1 : State} (hx1 : Keeps s0 x1) :
    KeepsAns s0 (execAdvisePair x0 x1) := by
  unfold execAdvisePair
  with_reducible repeat' first | assumption | apply KeepsAns.next | apply adviseRun_keeps | apply endItem_keeps | apply failItem_keeps | apply onItem_keeps | apply onT0_keeps | apply tryPages_keeps | (apply Keeps.ofFst; assumption) | extract_lets | (apply KeepsAns.ite <;> intro _) | split | intro _

theorem execNop_keeps {s0 : State} {x0} {x1 : State} (hx1 : Keeps s0 x1) :
    KeepsAns s0 (execNop x0 x1) := by
  unfold execNop
  with_reducible repeat' first | assumption | apply KeepsAns.next | apply endItem_keeps | apply opRun_keeps | extract_lets | intro _

theorem execCopy_keeps {s0 : State} {x0} {x1 : State} (hx1 : Keeps s0 x1) :
    KeepsAns s0 (execCopy x0 x1) := by
  unfold execCopy
  with_reducible repeat' first | assumption | apply KeepsAns.next | apply convertTile_keeps1 | apply endItem_keeps | apply failItem_keeps | apply itemStoreTile_keeps1 | apply needTile_keeps1 | apply onGotI_keeps | apply onItem_keeps | apply opRun_keeps | extract_lets | (apply KeepsAns.ite <;> intro _) | split | intro _

theorem execFill_keeps {s0 : State} {x0} {x1 : State} (hx1 : Keeps s0 x1) :
    KeepsAns s0 (execFill x0 x1) := by
  unfold execFill
  with_reducible repeat' first | assumption | apply KeepsAns.next | apply bump_keeps | apply endItem_keeps | apply itemStoreTile_keeps1 | apply onGotI_keeps | apply onItem_keeps | apply opRun_keeps | extract_lets | (apply KeepsAns.ite <;> intro _) | intro _

theorem execPrefetchTranslate_keeps {s0 : State} {x0} {x1 : State} (hx1 : Keeps s0 x1) :
    KeepsAns s0 (execPrefetchTranslate x0 x1) := by
  unfold execPrefetchTranslate
  with_reducible repeat' first | assumption | apply prefetchTile_keeps

theorem execAdviseUnpin_keeps {s0 : State} {x0} {x1 : State} (hx1 : Keeps s0 x1) :
    KeepsAns s0 (execAdviseUnpin x0 x1) := by
  unfold execAdviseUnpin
  with_reducible repeat' first | assumption | apply KeepsAns.next | apply adviseRun_keeps | apply endItem_keeps | apply onGotI_keeps | apply onT0Tile_keeps | apply tileDone_keeps | apply tryPages_keeps1 | extract_lets | (apply Keeps.ite' <;> intro _) | (apply KeepsAns.ite <;> intro _) | split | intro _

theorem execAdviseUnpair_keeps {s0 : State} {x0} {x1 : State} (hx1 : Keeps s0 x1) :
    KeepsAns s0 (execAdviseUnpair x0 x1) := by
  unfold execAdviseUnpair
  with_reducible repeat' first | assumption | apply KeepsAns.next | apply adviseRun_keeps | apply endItem_keeps | apply onT0_keeps | extract_lets | intro _

end Sys2Proof.Machine
end

