-- ==== Sys2Proof/Laws/KeepsPowerRows.lean ====
section
/-! SUPPORT. What every operation of Machine/PowerRows.lean leaves as the law Keeps says (Laws/Keeps.lean). -/

namespace Sys2Proof.Machine

theorem execModWake_keeps {s0 : State} {x0 : State} (hx0 : Keeps s0 x0) :
    KeepsAns s0 (execModWake x0) := by
  unfold execModWake
  with_reducible repeat' first | assumption | apply KeepsAns.next | apply wakeEvent_keeps

theorem execDomainReturn_keeps {s0 : State} {x0} {x1 : State} (hx1 : Keeps s0 x1) :
    KeepsAns s0 (execDomainReturn x0 x1) := by
  unfold execDomainReturn
  with_reducible repeat' first | assumption | apply KeepsAns.next | apply freeWaits_keeps | apply notEnabled_keeps | apply setDomain_keeps | apply settle_keeps | (apply KeepsAns.ite <;> intro _)

theorem askMap_keeps {s0 : State} {x0 : State} (hx0 : Keeps s0 x0) :
    Keeps s0 (askMap x0) := by
  unfold askMap
  with_reducible repeat' first | assumption | apply requestMap_keeps | split

theorem execWakePattern_keeps {s0 : State} {x0} {x1 : State} (hx1 : Keeps s0 x1) :
    KeepsAns s0 (execWakePattern x0 x1) := by
  unfold execWakePattern
  with_reducible repeat' first | assumption | apply KeepsAns.next | apply askMap_keeps | apply notEnabled_keeps | apply wakeEvent_keeps | extract_lets | (apply KeepsAns.ite <;> intro _)

theorem execWakeTimer_keeps {s0 : State} {x0 : State} (hx0 : Keeps s0 x0) :
    KeepsAns s0 (execWakeTimer x0) := by
  unfold execWakeTimer
  with_reducible repeat' first | assumption | apply KeepsAns.next | apply notEnabled_keeps | apply onPwr_keeps | apply wakeEvent_keeps | (apply KeepsAns.ite <;> intro _) | split

theorem noteTemps_keeps {s0 : State} {x0 : State} {x1} (hx0 : Keeps s0 x0) :
    Keeps s0 (noteTemps x0 x1) := by
  unfold noteTemps
  with_reducible repeat' first | assumption | apply onPwr_keeps

theorem execPhaseEmberTimer_keeps {s0 : State} {x0 : State} (hx0 : Keeps s0 x0) :
    KeepsAns s0 (execPhaseEmberTimer x0) := by
  unfold execPhaseEmberTimer
  with_reducible repeat' first | assumption | apply KeepsAns.next | apply beginEntry_keeps | apply notEnabled_keeps | (apply KeepsAns.ite <;> intro _) | split

theorem execSignalReturn_keeps {s0 : State} {x0} {x1 : State} (hx1 : Keeps s0 x1) :
    KeepsAns s0 (execSignalReturn x0 x1) := by
  unfold execSignalReturn
  with_reducible repeat' first | assumption | apply KeepsAns.next | apply notEnabled_keeps | apply wakeEvent_keeps | (apply KeepsAns.ite <;> intro _)

theorem execExitComplete_keeps {s0 : State} {x0} {x1 : State} (hx1 : Keeps s0 x1) :
    KeepsAns s0 (execExitComplete x0 x1) := by
  unfold execExitComplete
  with_reducible repeat' first | assumption | apply KeepsAns.next | apply askMap_keeps | apply notEnabled_keeps | apply onPwr_keeps | apply settle_keeps | extract_lets | (apply Keeps.ite' <;> intro _) | (apply KeepsAns.ite <;> intro _)

theorem execAutoIdleExpire_keeps {s0 : State} {x0} {x1 : State} (hx1 : Keeps s0 x1) :
    KeepsAns s0 (execAutoIdleExpire x0 x1) := by
  unfold execAutoIdleExpire
  with_reducible repeat' first | assumption | apply KeepsAns.next | apply gateDomain_keeps | apply notEnabled_keeps | extract_lets | (apply KeepsAns.ite <;> intro _)

theorem execSpareReentryTimer_keeps {s0 : State} {x0 : State} (hx0 : Keeps s0 x0) :
    KeepsAns s0 (execSpareReentryTimer x0) := by
  unfold execSpareReentryTimer
  with_reducible repeat' first | assumption | apply KeepsAns.next | apply enterSpareState_keeps | apply notEnabled_keeps | apply onPwr_keeps | (apply KeepsAns.ite <;> intro _) | split

theorem execEntryComplete_keeps {s0 : State} {x0 : State} (hx0 : Keeps s0 x0) :
    KeepsAns s0 (execEntryComplete x0) := by
  unfold execEntryComplete
  with_reducible repeat' first | assumption | apply KeepsAns.next | apply notEnabled_keeps | apply onPins_keeps | apply onPwr_keeps | apply sleepLinks_keeps | apply wakeEvent_keeps | extract_lets | (apply Keeps.ite' <;> intro _) | (apply KeepsAns.ite <;> intro _) | split

theorem execSmoulderSample_keeps {s0 : State} {x0} {x1 : State} (hx1 : Keeps s0 x1) :
    KeepsAns s0 (execSmoulderSample x0 x1) := by
  unfold execSmoulderSample
  with_reducible repeat' first | assumption | apply KeepsAns.next | apply ashLimited_keeps | apply draw_keeps1 | apply notEnabled_keeps | apply noteTemps_keeps | apply wakeEvent_keeps | apply forAll_keeps | apply KeepsAns.fault | extract_lets | (apply KeepsAns.ite <;> intro _) | split | intro _

theorem execThrottleChange_keeps {s0 : State} {x0} {x1} {x2 : State} (hx2 : Keeps s0 x2) :
    KeepsAns s0 (execThrottleChange x0 x1 x2) := by
  unfold execThrottleChange
  with_reducible repeat' first | assumption | apply KeepsAns.next | apply ashLimited_keeps | apply notEnabled_keeps | apply noteTemps_keeps | apply onPwr_keeps | apply KeepsAns.fault | extract_lets | (apply KeepsAns.ite <;> intro _)

theorem execOvertempTrip_keeps {s0 : State} {x0} {x1} {x2 : State} (hx2 : Keeps s0 x2) :
    KeepsAns s0 (execOvertempTrip x0 x1 x2) := by
  unfold execOvertempTrip
  with_reducible repeat' first | assumption | apply KeepsAns.next | apply ashExempt_keeps | apply notEnabled_keeps | apply noteTemps_keeps | apply onBoot_keeps | apply onPwr_keeps | apply resetDevice_keeps | apply KeepsAns.fault | extract_lets | (apply KeepsAns.ite <;> intro _)

theorem execOvertempClear_keeps {s0 : State} {x0} {x1 : State} (hx1 : Keeps s0 x1) :
    KeepsAns s0 (execOvertempClear x0 x1) := by
  unfold execOvertempClear
  with_reducible repeat' first | assumption | apply KeepsAns.next | apply notEnabled_keeps | apply onPwr_keeps | (apply KeepsAns.ite <;> intro _)

end Sys2Proof.Machine
end

