-- ==== Sys2Proof/Laws/KeepsHealthRows.lean ====
section
/-! SUPPORT. What every operation of Machine/HealthRows.lean leaves as the law Keeps says (Laws/Keeps.lean). -/

namespace Sys2Proof.Machine

theorem execAshNvmWrite_keeps {s0 : State} {x0} {x1 : State} (hx1 : Keeps s0 x1) :
    KeepsAns s0 (execAshNvmWrite x0 x1) := by
  unfold execAshNvmWrite
  with_reducible repeat' first | assumption | apply KeepsAns.next | apply ashExempt_keeps | apply notEnabled_keeps | apply nvmStore_keeps | ((refine onAsh_keeps ?_ ?hg); case hg => with_unfolding_all exact Nat.le_refl _) | extract_lets | (apply KeepsAns.ite <;> intro _) | split

theorem execRateLimitPeriod_keeps {s0 : State} {x0 : State} (hx0 : Keeps s0 x0) :
    KeepsAns s0 (execRateLimitPeriod x0) := by
  unfold execRateLimitPeriod
  with_reducible repeat' first | assumption | apply KeepsAns.next | apply ashLimited_keeps | apply notEnabled_keeps | ((refine onAsh_keeps ?_ ?hg); case hg => with_unfolding_all exact Nat.le_refl _) | extract_lets | (apply Keeps.ite' <;> intro _) | (apply KeepsAns.ite <;> intro _)

theorem meterSecond_keeps {s0 : State} {x0 : State} (hx0 : Keeps s0 x0) :
    Keeps s0 (meterSecond x0) := by
  unfold meterSecond
  with_reducible repeat' first | assumption | apply meter_keeps | apply forAll_keeps | extract_lets | split | intro _

theorem execOperatingSecond_keeps {s0 : State} {x0} {x1 : State} (hx1 : Keeps s0 x1) :
    KeepsAns s0 (execOperatingSecond x0 x1) := by
  unfold execOperatingSecond
  with_reducible repeat' first | assumption | apply KeepsAns.next | apply meterSecond_keeps | apply notEnabled_keeps | apply noteTemps_keeps | apply onClk_keeps | apply onHlth_keeps | apply onPwr_keeps | apply KeepsAns.fault | extract_lets | (apply KeepsAns.ite <;> intro _)

theorem addEnergy_keeps {s0 : State} {x0 : State} {x1} {x2} (hx0 : Keeps s0 x0) :
    Keeps s0 (addEnergy x0 x1 x2) := by
  unfold addEnergy
  with_reducible repeat' first | assumption | apply onMtr_keeps

theorem execMeteringInterval_keeps {s0 : State} {x0} {x1 : State} (hx1 : Keeps s0 x1) :
    KeepsAns s0 (execMeteringInterval x0 x1) := by
  unfold execMeteringInterval
  with_reducible repeat' first | assumption | apply KeepsAns.next | apply addEnergy_keeps | apply notEnabled_keeps | apply onMtr_keeps | apply forAll_keeps | extract_lets | (apply KeepsAns.ite <;> intro _) | intro _

theorem laneScan_keeps {s0 : State} {x0 : State} {x1} {x2} (hx0 : Keeps s0 x0) :
    Keeps s0 (laneScan x0 x1 x2) := by
  unfold laneScan
  with_reducible repeat' first | assumption | apply onHlth_keeps | extract_lets | (apply Keeps.ite' <;> intro _)

theorem execShadowTest_keeps {s0 : State} {x0} {x1 : State} (hx1 : Keeps s0 x1) :
    KeepsAns s0 (execShadowTest x0 x1) := by
  unfold execShadowTest
  with_reducible repeat' first | assumption | apply KeepsAns.next | apply ashLimited_keeps | apply eyeScan_keeps | apply laneScan_keeps | apply notEnabled_keeps | apply recordEye_keeps | extract_lets | (apply Keeps.ite' <;> intro _) | (apply KeepsAns.ite <;> intro _) | split

theorem execDroopDetect_keeps {s0 : State} {x0} {x1} {x2} {x3 : State} (hx3 : Keeps s0 x3) :
    KeepsAns s0 (execDroopDetect x0 x1 x2 x3) := by
  unfold execDroopDetect
  with_reducible repeat' first | assumption | apply KeepsAns.next | apply ashLimited_keeps | apply notEnabled_keeps | apply onHlth_keeps | extract_lets | (apply KeepsAns.ite <;> intro _)

end Sys2Proof.Machine
end

