-- ==== Sys2Proof/Laws/KeepsKernel.lean ====
section
/-! SUPPORT. What every operation of Machine/Kernel.lean leaves as the law Keeps says (Laws/Keeps.lean). -/

namespace Sys2Proof.Machine

theorem failCheck_keeps {s0 : State} {x0 : State} {x1} {x2} {x3} {x4} (hx0 : Keeps s0 x0) :
    KeepsAns s0 (failCheck x0 x1 x2 x3 x4) := by
  unfold failCheck
  with_reducible repeat' first | assumption | apply failItem_keeps

theorem holdCode_keeps {s0 : State} {x0 : State} {x1} {x2} {x3} (hx0 : Keeps s0 x0) :
    Keeps s0 (holdCode x0 x1 x2 x3) := by
  unfold holdCode
  with_reducible repeat' first | assumption | apply onItem_keeps

theorem execKernelCodeRead_keeps {s0 : State} {x0} {x1 : State} (hx1 : Keeps s0 x1) :
    KeepsAns s0 (execKernelCodeRead x0 x1) := by
  unfold execKernelCodeRead
  with_reducible repeat' first | assumption | apply KeepsAns.next | apply chargeReads_keeps | apply failCheck_keeps | apply holdCode_keeps | apply notEnabled_keeps | apply onGotI_keeps | apply opRun_keeps | apply readJva_keeps1 | extract_lets | (apply KeepsAns.ite <;> intro _) | split | intro _

end Sys2Proof.Machine
end

