-- ==== Sys2Proof/Laws/KeepsMatVec.lean ====
section
/-! SUPPORT. What every operation of Machine/MatVec.lean leaves as the law Keeps says (Laws/Keeps.lean). -/

namespace Sys2Proof.Machine

theorem stageSeg_keeps {s0 : State} {x0 : State} {x1} {x2} (hx0 : Keeps s0 x0) :
    Keeps s0 (stageSeg x0 x1 x2) := by
  unfold stageSeg
  with_reducible repeat' first | assumption | apply stageTile_keeps | apply forAll_keeps | extract_lets | (apply Keeps.ite' <;> intro _) | split | intro _

theorem openGate_keeps {s0 : State} {x0 : State} {x1} (hx0 : Keeps s0 x0) :
    Keeps s0 (openGate x0 x1) := by
  unfold openGate
  with_reducible repeat' first | assumption | apply onItem_keeps | apply stageSeg_keeps | extract_lets | (apply Keeps.ite' <;> intro _) | split

theorem tilesOfHandles_keeps {s0 : State} {x0 : State} {x1} {x2} (hx0 : Keeps s0 x0) :
    KeepsFst s0 (tilesOfHandles x0 x1 x2) := by
  induction x2 generalizing x0 x1 with
  | nil => unfold tilesOfHandles; with_reducible repeat' first | assumption | apply stagedTile_keeps | (apply Keeps.ofFst; assumption) | apply ih | split | simp only [KeepsFst.pair_iff]
  | cons z zs ih => unfold tilesOfHandles; with_reducible repeat' first | assumption | apply stagedTile_keeps | (apply Keeps.ofFst; assumption) | apply ih | split | simp only [KeepsFst.pair_iff]

theorem tilesOfHandles_keeps1 {s0 : State} {x0 : State} {x1} {x2} (hx0 : Keeps s0 x0) :
    Keeps s0 (tilesOfHandles x0 x1 x2).1 := tilesOfHandles_keeps hx0

theorem execGateOpen_keeps {s0 : State} {x0} {x1 : State} (hx1 : Keeps s0 x1) :
    KeepsAns s0 (execGateOpen x0 x1) := by
  unfold execGateOpen
  with_reducible repeat' first | assumption | apply KeepsAns.next | apply itemRead_keeps1 | apply notEnabled_keeps | apply onGotI_keeps | apply opRun_keeps | apply openGate_keeps | extract_lets | (apply KeepsAns.ite <;> intro _) | split | intro _

theorem execGateExpired_keeps {s0 : State} {x0} {x1 : State} (hx1 : Keeps s0 x1) :
    KeepsAns s0 (execGateExpired x0 x1) := by
  unfold execGateExpired
  with_reducible repeat' first | assumption | apply failItem_keeps | apply notEnabled_keeps | apply opRun_keeps | extract_lets | (apply KeepsAns.ite <;> intro _) | split | intro _

theorem reachSeg_keeps {s0 : State} {x0 : State} {x1} (hx0 : Keeps s0 x0) :
    Keeps s0 (reachSeg x0 x1) := by
  unfold reachSeg
  with_reducible repeat' first | assumption | apply onItem_keeps | apply openGate_keeps | extract_lets | (apply Keeps.ite' <;> intro _) | split

theorem beginRun_keeps {s0 : State} {x0 : State} {x1} {x2} (hx0 : Keeps s0 x0) :
    KeepsAns s0 (beginRun x0 x1 x2) := by
  unfold beginRun
  with_reducible repeat' first | assumption | apply KeepsAns.next | apply failItem_keeps | apply itemClass_keeps1 | apply itemRead_keeps1 | apply onGotI_keeps | apply onItem_keeps | apply reachSeg_keeps | apply stageSeg_keeps | apply forAll_keeps | extract_lets | (apply KeepsAns.ite <;> intro _) | split | intro _

theorem itemStores_keeps {s0 : State} {x0 : State} {x1} {x2} (hx0 : Keeps s0 x0) :
    KeepsFst s0 (itemStores x0 x1 x2) := by
  unfold itemStores
  with_reducible repeat' first | assumption | apply storePiece_keeps | apply tryStores_keeps | apply forAll_keeps | (apply Keeps.ofFst; assumption) | extract_lets | split | intro _ | simp only [KeepsFst.pair_iff]

theorem itemStores_keeps1 {s0 : State} {x0 : State} {x1} {x2} (hx0 : Keeps s0 x0) :
    Keeps s0 (itemStores x0 x1 x2).1 := itemStores_keeps hx0

theorem runSegment_keeps {s0 : State} {x0 : State} {x1} {x2} {x3} (hx0 : Keeps s0 x0) :
    KeepsAns s0 (runSegment x0 x1 x2 x3) := by
  unfold runSegment
  with_reducible repeat' first | assumption | apply KeepsAns.next | apply bump_keeps | apply contribute_keeps1 | apply failItem_keeps | apply itemRead_keeps1 | apply itemStores_keeps1 | apply meterOps_keeps | apply onGotI_keeps | apply onItem_keeps | apply tilesOfHandles_keeps1 | extract_lets | (apply KeepsAns.ite <;> intro _) | split | intro _

theorem execMatvec_keeps {s0 : State} {x0} {x1 : State} (hx1 : Keeps s0 x1) :
    KeepsAns s0 (execMatvec x0 x1) := by
  unfold execMatvec
  with_reducible repeat' first | assumption | apply beginRun_keeps | apply notEnabled_keeps | apply opRun_keeps | apply runSegment_keeps | extract_lets | (apply KeepsAns.ite <;> intro _) | split | intro _

theorem itemAtomic_keeps {s0 : State} {x0 : State} {x1} {x2} {x3} {x4} {x5} (hx0 : Keeps s0 x0) :
    KeepsFst s0 (itemAtomic x0 x1 x2 x3 x4 x5) := by
  unfold itemAtomic
  with_reducible repeat' first | assumption | apply applyAtomic_keeps1 | apply meterLine_keeps | apply meter_keeps | apply sendFabric_keeps | apply tryStore_keeps | (apply Keeps.ofFst; assumption) | extract_lets | (apply KeepsFst.ite <;> intro _) | split | simp only [KeepsFst.pair_iff]

theorem itemAtomic_keeps1 {s0 : State} {x0 : State} {x1} {x2} {x3} {x4} {x5} (hx0 : Keeps s0 x0) :
    Keeps s0 (itemAtomic x0 x1 x2 x3 x4 x5).1 := itemAtomic_keeps hx0

theorem execSegmentComplete_keeps {s0 : State} {x0} {x1 : State} (hx1 : Keeps s0 x1) :
    KeepsAns s0 (execSegmentComplete x0 x1) := by
  unfold execSegmentComplete
  with_reducible repeat' first | assumption | apply KeepsAns.next | apply endItem_keeps | apply itemAtomic_keeps1 | apply notEnabled_keeps | apply onGotI_keeps | apply onItem_keeps | apply opRun_keeps | apply reachSeg_keeps | extract_lets | (apply KeepsAns.ite <;> intro _) | split | intro _

end Sys2Proof.Machine
end

