-- ==== Sys2Proof/Laws/KeepsMatrix.lean ====
section
/-! SUPPORT. What every operation of Machine/Matrix.lean leaves as the law Keeps says (Laws/Keeps.lean). -/

namespace Sys2Proof.Machine

theorem execVext_keeps {s0 : State} {x0} {x1} {x2 : State} (hx2 : Keeps s0 x2) :
    KeepsAns s0 (execVext x0 x1 x2) := by
  unfold execVext
  with_reducible repeat' first | assumption | apply KeepsAns.next | apply bump_keeps | apply issue_keeps | apply meterVec_keeps | apply onThread_keeps | extract_lets | split | intro _

theorem execMtv_keeps {s0 : State} {x0} {x1} {x2 : State} (hx2 : Keeps s0 x2) :
    KeepsAns s0 (execMtv x0 x1 x2) := by
  unfold execMtv
  with_reducible repeat' first | assumption | apply accumulate_keeps | apply issue_keeps | apply meterOps_keeps | apply onGot_keeps | apply wholeTile_keeps1 | extract_lets | intro _

theorem execVmax_keeps {s0 : State} {x0} {x1} {x2 : State} (hx2 : Keeps s0 x2) :
    KeepsAns s0 (execVmax x0 x1 x2) := by
  unfold execVmax
  with_reducible repeat' first | assumption | apply vecOp_keeps

theorem execVbc_keeps {s0 : State} {x0} {x1} {x2 : State} (hx2 : Keeps s0 x2) :
    KeepsAns s0 (execVbc x0 x1 x2) := by
  unfold execVbc
  with_reducible repeat' first | assumption | apply KeepsAns.next | apply issue_keeps | apply meterVec_keeps | apply onThread_keeps | extract_lets | intro _

theorem execVmul_keeps {s0 : State} {x0} {x1} {x2 : State} (hx2 : Keeps s0 x2) :
    KeepsAns s0 (execVmul x0 x1 x2) := by
  unfold execVmul
  with_reducible repeat' first | assumption | apply vecOp_keeps

theorem execMmv_keeps {s0 : State} {x0} {x1} {x2 : State} (hx2 : Keeps s0 x2) :
    KeepsAns s0 (execMmv x0 x1 x2) := by
  unfold execMmv
  with_reducible repeat' first | assumption | apply accumulate_keeps | apply bump_keeps | apply issue_keeps | apply meterOps_keeps | extract_lets | split | intro _

theorem execVmin_keeps {s0 : State} {x0} {x1} {x2 : State} (hx2 : Keeps s0 x2) :
    KeepsAns s0 (execVmin x0 x1 x2) := by
  unfold execVmin
  with_reducible repeat' first | assumption | apply vecOp_keeps

theorem execMwld_keeps {s0 : State} {x0} {x1} {x2 : State} (hx2 : Keeps s0 x2) :
    KeepsAns s0 (execMwld x0 x1 x2) := by
  unfold execMwld
  with_reducible repeat' first | assumption | apply KeepsAns.next | apply issue_keeps | apply onGot_keeps | apply onThread_keeps | apply wholeTile_keeps1 | extract_lets | intro _

theorem execVadd_keeps {s0 : State} {x0} {x1} {x2 : State} (hx2 : Keeps s0 x2) :
    KeepsAns s0 (execVadd x0 x1 x2) := by
  unfold execVadd
  with_reducible repeat' first | assumption | apply vecOp_keeps

theorem execVsub_keeps {s0 : State} {x0} {x1} {x2 : State} (hx2 : Keeps s0 x2) :
    KeepsAns s0 (execVsub x0 x1 x2) := by
  unfold execVsub
  with_reducible repeat' first | assumption | apply vecOp_keeps

theorem execVfma_keeps {s0 : State} {x0} {x1} {x2 : State} (hx2 : Keeps s0 x2) :
    KeepsAns s0 (execVfma x0 x1 x2) := by
  unfold execVfma
  with_reducible repeat' first | assumption | apply vecOp_keeps

theorem execVcvt_keeps {s0 : State} {x0} {x1} {x2 : State} (hx2 : Keeps s0 x2) :
    KeepsAns s0 (execVcvt x0 x1 x2) := by
  unfold execVcvt
  with_reducible repeat' first | assumption | apply vecOp_keeps

theorem execVins_keeps {s0 : State} {x0} {x1} {x2 : State} (hx2 : Keeps s0 x2) :
    KeepsAns s0 (execVins x0 x1 x2) := by
  unfold execVins
  with_reducible repeat' first | assumption | apply KeepsAns.next | apply bump_keeps | apply issue_keeps | apply meterVec_keeps | apply onThread_keeps | extract_lets | split | intro _

end Sys2Proof.Machine
end

