-- ==== Sys2Proof/Laws/KeepsSpace.lean ====
section
/-! SUPPORT. What every operation of Machine/Space.lean leaves as the law Keeps says (Laws/Keeps.lean). -/

namespace Sys2Proof.Machine

theorem readLine_keeps {s0 : State} {x0 : State} {x1} (hx0 : Keeps s0 x0) :
    KeepsFst s0 (readLine x0 x1) := by
  unfold readLine
  with_reducible repeat' first | assumption | ((refine onAsh_keeps ?_ ?hg); case hg => with_unfolding_all exact Nat.le_refl _) | split | simp only [KeepsFst.pair_iff]

theorem readLine_keeps1 {s0 : State} {x0 : State} {x1} (hx0 : Keeps s0 x0) :
    Keeps s0 (readLine x0 x1).1 := readLine_keeps hx0

theorem readSpace_keeps {s0 : State} {x0 : State} {x1} {x2} (hx0 : Keeps s0 x0) :
    KeepsFst s0 (readSpace x0 x1 x2) := by
  unfold readSpace
  with_reducible repeat' first | assumption | (apply Keeps.ofPair; assumption) | ((refine onAsh_keeps ?_ ?hg); case hg => with_unfolding_all exact Nat.le_refl _) | apply readLine_keeps | apply forAll_keepsFst | (apply Keeps.ofFst; assumption) | extract_lets | (apply Keeps.ite' <;> intro _) | split | intro _ | simp only [KeepsFst.pair_iff] | dsimp +zetaDelta only

theorem readSpace_keeps1 {s0 : State} {x0 : State} {x1} {x2} (hx0 : Keeps s0 x0) :
    Keeps s0 (readSpace x0 x1 x2).1 := readSpace_keeps hx0

end Sys2Proof.Machine
end

