-- ==== Sys2Proof/Laws/KeepsMgmtRows.lean ====
section
/-! SUPPORT. What every operation of Machine/MgmtRows.lean leaves as the law Keeps says (Laws/Keeps.lean). -/

namespace Sys2Proof.Machine

theorem onCursor_keeps {s0 : State} {x0 : State} {x1} {x2} (hx0 : Keeps s0 x0) :
    Keeps s0 (onCursor x0 x1 x2) := by
  unfold onCursor
  with_reducible repeat' first | assumption | ((refine onAsh_keeps ?_ ?hg); case hg => with_unfolding_all exact Nat.le_refl _)

theorem cursorOp_keeps {s0 : State} {x0 : State} {x1} {x2} {x3} {x4} (hx0 : Keeps s0 x0) :
    Keeps s0 (cursorOp x0 x1 x2 x3 x4) := by
  unfold cursorOp
  with_reducible repeat' first | assumption | apply onCursor_keeps | extract_lets | (apply Keeps.ite' <;> intro _)

theorem arriveMgmt_keeps {s0 : State} {x0 : State} {x1} {x2} (hx0 : Keeps s0 x0) :
    KeepsFst s0 (arriveMgmt x0 x1 x2) := by
  unfold arriveMgmt
  with_reducible repeat' first | assumption | apply countDiscard_keeps | apply countLink_keeps | apply police_keeps | apply turnAway_keeps | (apply Keeps.ofFst; assumption) | extract_lets | (apply KeepsFst.ite <;> intro _) | split | simp only [KeepsFst.pair_iff]

theorem arriveMgmt_keeps1 {s0 : State} {x0 : State} {x1} {x2} (hx0 : Keeps s0 x0) :
    Keeps s0 (arriveMgmt x0 x1 x2).1 := arriveMgmt_keeps hx0

theorem freeBuf_keeps {s0 : State} {x0 : State} {x1} (hx0 : Keeps s0 x0) :
    Keeps s0 (freeBuf x0 x1) := by
  unfold freeBuf
  with_reducible repeat' first | assumption | ((refine onAuth_keeps ?_ ?hg); case hg => with_unfolding_all exact SeqKept.refl _)

theorem attestBuf_keeps {s0 : State} {x0 : State} {x1} (hx0 : Keeps s0 x0) :
    Keeps s0 (attestBuf x0 x1) := by
  unfold attestBuf
  with_reducible repeat' first | assumption | apply onBuf_keeps

theorem endImage_keeps {s0 : State} {x0 : State} {x1} {x2} (hx0 : Keeps s0 x0) :
    Keeps s0 (endImage x0 x1 x2) := by
  unfold endImage
  with_reducible repeat' first | assumption | apply onBoot_keeps | apply onBuf_keeps | extract_lets | (apply Keeps.ite' <;> intro _)

theorem bufOp_keeps {s0 : State} {x0 : State} {x1} {x2} {x3} (hx0 : Keeps s0 x0) :
    Keeps s0 (bufOp x0 x1 x2 x3) := by
  unfold bufOp
  with_reducible repeat' first | assumption | apply attestBuf_keeps | apply endImage_keeps | apply freeBuf_keeps | apply nextRecord_keeps | ((refine onAuth_keeps ?_ ?hg); case hg => with_unfolding_all exact SeqKept.refl _) | apply onBuf_keeps | extract_lets | (apply Keeps.ite' <;> intro _) | split

theorem writeBuf_keeps {s0 : State} {x0} {x1} {x2} {x3 : State} {x4} (hx3 : Keeps s0 x3) :
    Keeps s0 (writeBuf x0 x1 x2 x3 x4) := by
  unfold writeBuf
  with_reducible repeat' first | assumption | apply bufOp_keeps | apply onBuf_keeps | extract_lets | (apply Keeps.ite' <;> intro _)

theorem writeCursor_keeps {s0 : State} {x0} {x1} {x2} {x3 : State} {x4} (hx3 : Keeps s0 x3) :
    Keeps s0 (writeCursor x0 x1 x2 x3 x4) := by
  unfold writeCursor
  with_reducible repeat' first | assumption | apply cursorOp_keeps | apply onCursor_keeps | extract_lets | (apply Keeps.ite' <;> intro _)

theorem writeImage_keeps {s0 : State} {x0} {x1} {x2 : State} (hx2 : Keeps s0 x2) :
    Keeps s0 (writeImage x0 x1 x2) := by
  unfold writeImage
  with_reducible repeat' first | assumption | apply onBoot_keeps | apply onBuf_keeps | extract_lets | (apply Keeps.ite' <;> intro _) | split

theorem answerWrite_keeps {s0 : State} {x0 : State} {x1} (hx0 : Keeps s0 x0) :
    Keeps s0 (answerWrite x0 x1) := by
  unfold answerWrite
  with_reducible repeat' first | assumption | apply sendResponse_keeps | apply settle_keeps | apply turnAway_keeps | apply writeBuf_keeps | apply writeCursor_keeps | apply writeImage_keeps | apply forAll_keeps | extract_lets | (apply Keeps.ite' <;> intro _)

theorem mgmtWriteOf_keeps {s0 : State} {x0} {x1 : State} {x2} {x3} (hx1 : Keeps s0 x1) :
    KeepsAns s0 (mgmtWriteOf x0 x1 x2 x3) := by
  unfold mgmtWriteOf
  with_reducible repeat' first | assumption | apply KeepsAns.next | apply answerWrite_keeps | apply arriveMgmt_keeps | apply notEnabled_keeps | (apply Keeps.ofFst; assumption) | extract_lets | (apply KeepsAns.ite <;> intro _) | split

theorem execSubmit_keeps {s0 : State} {x0} {x1} {x2} {x3 : State} (hx3 : Keeps s0 x3) :
    KeepsAns s0 (execSubmit x0 x1 x2 x3) := by
  unfold execSubmit
  with_reducible repeat' first | assumption | apply mgmtWriteOf_keeps

theorem execCursorClaim_keeps {s0 : State} {x0} {x1} {x2} {x3 : State} (hx3 : Keeps s0 x3) :
    KeepsAns s0 (execCursorClaim x0 x1 x2 x3) := by
  unfold execCursorClaim
  with_reducible repeat' first | assumption | apply mgmtWriteOf_keeps

theorem execBufferIdleTimeout_keeps {s0 : State} {x0} {x1 : State} (hx1 : Keeps s0 x1) :
    KeepsAns s0 (execBufferIdleTimeout x0 x1) := by
  unfold execBufferIdleTimeout
  with_reducible repeat' first | assumption | apply KeepsAns.next | apply freeBuf_keeps | apply notEnabled_keeps | extract_lets | (apply KeepsAns.ite <;> intro _)

theorem execMgmtWrite_keeps {s0 : State} {x0} {x1} {x2 : State} (hx2 : Keeps s0 x2) :
    KeepsAns s0 (execMgmtWrite x0 x1 x2) := by
  unfold execMgmtWrite
  with_reducible repeat' first | assumption | apply mgmtWriteOf_keeps

theorem execClaim_keeps {s0 : State} {x0} {x1} {x2} {x3 : State} (hx3 : Keeps s0 x3) :
    KeepsAns s0 (execClaim x0 x1 x2 x3) := by
  unfold execClaim
  with_reducible repeat' first | assumption | apply mgmtWriteOf_keeps

theorem execAttest_keeps {s0 : State} {x0} {x1} {x2} {x3 : State} (hx3 : Keeps s0 x3) :
    KeepsAns s0 (execAttest x0 x1 x2 x3) := by
  unfold execAttest
  with_reducible repeat' first | assumption | apply mgmtWriteOf_keeps

theorem answerRead_keeps {s0 : State} {x0 : State} {x1} (hx0 : Keeps s0 x0) :
    Keeps s0 (answerRead x0 x1) := by
  unfold answerRead
  with_reducible repeat' first | assumption | apply readSpace_keeps1 | apply sendResponse_keeps

theorem execCursorSet_keeps {s0 : State} {x0} {x1} {x2} {x3 : State} (hx3 : Keeps s0 x3) :
    KeepsAns s0 (execCursorSet x0 x1 x2 x3) := by
  unfold execCursorSet
  with_reducible repeat' first | assumption | apply mgmtWriteOf_keeps

theorem execBufferRelease_keeps {s0 : State} {x0} {x1} {x2} {x3 : State} (hx3 : Keeps s0 x3) :
    KeepsAns s0 (execBufferRelease x0 x1 x2 x3) := by
  unfold execBufferRelease
  with_reducible repeat' first | assumption | apply mgmtWriteOf_keeps

theorem execImageEnd_keeps {s0 : State} {x0} {x1} {x2} {x3 : State} (hx3 : Keeps s0 x3) :
    KeepsAns s0 (execImageEnd x0 x1 x2 x3) := by
  unfold execImageEnd
  with_reducible repeat' first | assumption | apply mgmtWriteOf_keeps

theorem execCursorIdleTimeout_keeps {s0 : State} {x0} {x1 : State} (hx1 : Keeps s0 x1) :
    KeepsAns s0 (execCursorIdleTimeout x0 x1) := by
  unfold execCursorIdleTimeout
  with_reducible repeat' first | assumption | apply KeepsAns.next | apply notEnabled_keeps | apply onCursor_keeps | extract_lets | (apply KeepsAns.ite <;> intro _)

theorem mgmtReadOf_keeps {s0 : State} {x0} {x1 : State} {x2} {x3} (hx1 : Keeps s0 x1) :
    KeepsAns s0 (mgmtReadOf x0 x1 x2 x3) := by
  unfold mgmtReadOf
  with_reducible repeat' first | assumption | apply KeepsAns.next | apply answerRead_keeps | apply arriveMgmt_keeps | apply notEnabled_keeps | (apply Keeps.ofFst; assumption) | extract_lets | (apply KeepsAns.ite <;> intro _) | split

theorem execMgmtRead_keeps {s0 : State} {x0} {x1} {x2 : State} (hx2 : Keeps s0 x2) :
    KeepsAns s0 (execMgmtRead x0 x1 x2) := by
  unfold execMgmtRead
  with_reducible repeat' first | assumption | apply mgmtReadOf_keeps

theorem execAshWindowRead_keeps {s0 : State} {x0} {x1} {x2 : State} (hx2 : Keeps s0 x2) :
    KeepsAns s0 (execAshWindowRead x0 x1 x2) := by
  unfold execAshWindowRead
  with_reducible repeat' first | assumption | apply mgmtReadOf_keeps

theorem execCursorRelease_keeps {s0 : State} {x0} {x1} {x2} {x3 : State} (hx3 : Keeps s0 x3) :
    KeepsAns s0 (execCursorRelease x0 x1 x2 x3) := by
  unfold execCursorRelease
  with_reducible repeat' first | assumption | apply mgmtWriteOf_keeps

end Sys2Proof.Machine
end

