-- ==== Sys2Proof/Laws/KeepsPinRows.lean ====
section
/-! SUPPORT. What every operation of Machine/PinRows.lean leaves as the law Keeps says (Laws/Keeps.lean). -/

namespace Sys2Proof.Machine

theorem execSmbPointerSet_keeps {s0 : State} {x0} {x1 : State} (hx1 : Keeps s0 x1) :
    KeepsAns s0 (execSmbPointerSet x0 x1) := by
  unfold execSmbPointerSet
  with_reducible repeat' first | assumption | apply KeepsAns.next | apply notEnabled_keeps | apply onPins_keeps | extract_lets | (apply KeepsAns.ite <;> intro _)

theorem execRecHoldDeassert_keeps {s0 : State} {x0 : State} (hx0 : Keeps s0 x0) :
    KeepsAns s0 (execRecHoldDeassert x0) := by
  unfold execRecHoldDeassert
  with_reducible repeat' first | assumption | apply KeepsAns.next | apply flush_keeps | apply onPins_keeps | extract_lets | (apply Keeps.ite' <;> intro _)

theorem loadTap_keeps {s0 : State} {x0 : State} {x1} (hx0 : Keeps s0 x0) :
    Keeps s0 (loadTap x0 x1) := by
  unfold loadTap
  with_reducible repeat' first | assumption | apply onPins_keeps

theorem tapLoad_keeps {s0 : State} {x0 : State} {x1} (hx0 : Keeps s0 x0) :
    KeepsAns s0 (tapLoad x0 x1) := by
  unfold tapLoad
  with_reducible repeat' first | assumption | apply KeepsAns.next | apply loadTap_keeps | apply notEnabled_keeps | (apply KeepsAns.ite <;> intro _)

theorem execExtestTrain_keeps {s0 : State} {x0 : State} (hx0 : Keeps s0 x0) :
    KeepsAns s0 (execExtestTrain x0) := by
  unfold execExtestTrain
  with_reducible repeat' first | assumption | apply tapLoad_keeps

theorem execIntest_keeps {s0 : State} {x0 : State} (hx0 : Keeps s0 x0) :
    KeepsAns s0 (execIntest x0) := by
  unfold execIntest
  with_reducible repeat' first | assumption | apply tapLoad_keeps

theorem cutRecords_keeps {s0 : State} {x0 : State} (hx0 : Keeps s0 x0) :
    Keeps s0 (cutRecords x0) := by
  unfold cutRecords
  with_reducible repeat' first | assumption | apply onBuf_keeps | apply recordChange_keeps | apply forAll_keeps | extract_lets | split | intro _

theorem actPowerFail_keeps {s0 : State} {x0 : State} (hx0 : Keeps s0 x0) :
    Keeps s0 (actPowerFail x0) := by
  have h1 := ashExempt_keeps (x1 := 4) (x2 := 0x30) (x3 := 0x0704) (x4 := [(0, natLe 1 x0.pwr.state), (1, natLe 1 x0.boot.phase)])
    (cutRecords_keeps hx0)
  unfold actPowerFail
  generalize ashExempt _ _ _ _ _ = s1 at h1 ⊢
  have h2 := losePower_keeps h1
  exact Keeps.ite' (fun _ => h1) fun _ => Keeps.ite' (fun _ => ⟨h2.pending, h2.draws, h2.mem, h2.fuse, h2.rno, h2.seq⟩) fun _ => h2

theorem execVinMonitorTrip_keeps {s0 : State} {x0 : State} (hx0 : Keeps s0 x0) :
    KeepsAns s0 (execVinMonitorTrip x0) := by
  unfold execVinMonitorTrip
  with_reducible repeat' first | assumption | apply KeepsAns.next | apply actPowerFail_keeps | apply notEnabled_keeps | apply onPins_keeps | extract_lets | (apply Keeps.ite' <;> intro _) | (apply KeepsAns.ite <;> intro _)

theorem execExtest_keeps {s0 : State} {x0 : State} (hx0 : Keeps s0 x0) :
    KeepsAns s0 (execExtest x0) := by
  unfold execExtest
  with_reducible repeat' first | assumption | apply tapLoad_keeps

theorem execSmbClockTimeout_keeps {s0 : State} {x0 : State} (hx0 : Keeps s0 x0) :
    KeepsAns s0 (execSmbClockTimeout x0) := by
  unfold execSmbClockTimeout
  with_reducible repeat' first | assumption | apply KeepsAns.next | apply notEnabled_keeps | apply onPins_keeps | (apply KeepsAns.ite <;> intro _)

theorem execSmbQuickStatus_keeps {s0 : State} {x0 : State} (hx0 : Keeps s0 x0) :
    KeepsAns s0 (execSmbQuickStatus x0) := by
  unfold execSmbQuickStatus
  with_reducible repeat' first | assumption | apply KeepsAns.next | apply notEnabled_keeps | apply onPins_keeps | (apply KeepsAns.ite <;> intro _)

theorem execPowerFailAssert_keeps {s0 : State} {x0 : State} (hx0 : Keeps s0 x0) :
    KeepsAns s0 (execPowerFailAssert x0) := by
  unfold execPowerFailAssert
  with_reducible repeat' first | assumption | apply KeepsAns.next | apply actPowerFail_keeps | apply notEnabled_keeps | apply onPins_keeps | extract_lets | (apply Keeps.ite' <;> intro _) | (apply KeepsAns.ite <;> intro _)

theorem execIdcode_keeps {s0 : State} {x0 : State} (hx0 : Keeps s0 x0) :
    KeepsAns s0 (execIdcode x0) := by
  unfold execIdcode
  with_reducible repeat' first | assumption | apply tapLoad_keeps

theorem execBypass_keeps {s0 : State} {x0 : State} (hx0 : Keeps s0 x0) :
    KeepsAns s0 (execBypass x0) := by
  unfold execBypass
  with_reducible repeat' first | assumption | apply tapLoad_keeps

theorem execSmbAlertResponse_keeps {s0 : State} {x0 : State} (hx0 : Keeps s0 x0) :
    KeepsAns s0 (execSmbAlertResponse x0) := by
  unfold execSmbAlertResponse
  with_reducible repeat' first | assumption | apply KeepsAns.next | apply notEnabled_keeps | apply onPins_keeps | (apply KeepsAns.ite <;> intro _)

theorem execClamp_keeps {s0 : State} {x0 : State} (hx0 : Keeps s0 x0) :
    KeepsAns s0 (execClamp x0) := by
  unfold execClamp
  with_reducible repeat' first | assumption | apply tapLoad_keeps

theorem execSmbBlockRead_keeps {s0 : State} {x0 : State} (hx0 : Keeps s0 x0) :
    KeepsAns s0 (execSmbBlockRead x0) := by
  unfold execSmbBlockRead
  with_reducible repeat' first | assumption | apply KeepsAns.next | apply notEnabled_keeps | apply onPins_keeps | apply readSpace_keeps1 | extract_lets | (apply KeepsAns.ite <;> intro _)

theorem execPowerFailDeassert_keeps {s0 : State} {x0 : State} (hx0 : Keeps s0 x0) :
    KeepsAns s0 (execPowerFailDeassert x0) := by
  unfold execPowerFailDeassert
  with_reducible repeat' first | assumption | apply KeepsAns.next | apply notEnabled_keeps | apply onPins_keeps | apply onPwr_keeps | extract_lets | (apply Keeps.ite' <;> intro _) | (apply KeepsAns.ite <;> intro _)

theorem execModPresentBreak_keeps {s0 : State} {x0 : State} (hx0 : Keeps s0 x0) :
    KeepsAns s0 (execModPresentBreak x0) := by
  unfold execModPresentBreak
  with_reducible repeat' first | assumption | apply KeepsAns.next | apply actPowerFail_keeps | apply notEnabled_keeps | apply onPins_keeps | extract_lets | (apply Keeps.ite' <;> intro _) | (apply KeepsAns.ite <;> intro _)

theorem execRecHoldAssert_keeps {s0 : State} {x0 : State} (hx0 : Keeps s0 x0) :
    KeepsAns s0 (execRecHoldAssert x0) := by
  unfold execRecHoldAssert
  with_reducible repeat' first | assumption | apply KeepsAns.next | apply onPins_keeps

theorem execExtestPulse_keeps {s0 : State} {x0 : State} (hx0 : Keeps s0 x0) :
    KeepsAns s0 (execExtestPulse x0) := by
  unfold execExtestPulse
  with_reducible repeat' first | assumption | apply tapLoad_keeps

theorem execTestLogicReset_keeps {s0 : State} {x0 : State} (hx0 : Keeps s0 x0) :
    KeepsAns s0 (execTestLogicReset x0) := by
  unfold execTestLogicReset
  with_reducible repeat' first | assumption | apply KeepsAns.next | apply onPins_keeps

end Sys2Proof.Machine
end

