-- ==== Sys2Proof/Laws/KeepsReduce.lean ====
section
/-! SUPPORT. What every operation of Machine/Reduce.lean leaves as the law Keeps says (Laws/Keeps.lean). -/

namespace Sys2Proof.Machine

theorem execAaddv_keeps {s0 : State} {x0} {x1} {x2 : State} (hx2 : Keeps s0 x2) :
    KeepsAns s0 (execAaddv x0 x1 x2) := by
  unfold execAaddv
  with_reducible repeat' first | assumption | apply accumulate_keeps | apply issue_keeps | extract_lets | intro _

theorem execAlsum_keeps {s0 : State} {x0} {x1} {x2 : State} (hx2 : Keeps s0 x2) :
    KeepsAns s0 (execAlsum x0 x1 x2) := by
  unfold execAlsum
  with_reducible repeat' first | assumption | apply regOp_keeps

theorem execAxp_keeps {s0 : State} {x0} {x1} {x2 : State} (hx2 : Keeps s0 x2) :
    KeepsAns s0 (execAxp x0 x1 x2) := by
  unfold execAxp
  with_reducible repeat' first | assumption | apply KeepsAns.next | apply issue_keeps | apply meter_keeps | apply onGot_keeps | apply onThread_keeps | extract_lets | intro _

theorem execAclr_keeps {s0 : State} {x0} {x1} {x2 : State} (hx2 : Keeps s0 x2) :
    KeepsAns s0 (execAclr x0 x1 x2) := by
  unfold execAclr
  with_reducible repeat' first | assumption | apply regOp_keeps

theorem execAout_keeps {s0 : State} {x0} {x1} {x2 : State} (hx2 : Keeps s0 x2) :
    KeepsAns s0 (execAout x0 x1 x2) := by
  unfold execAout
  with_reducible repeat' first | assumption | apply KeepsAns.next | apply bump_keeps | apply issue_keeps | apply onThread_keeps | extract_lets | intro _

theorem execAxi_keeps {s0 : State} {x0} {x1} {x2 : State} (hx2 : Keeps s0 x2) :
    KeepsAns s0 (execAxi x0 x1 x2) := by
  unfold execAxi
  with_reducible repeat' first | assumption | apply KeepsAns.next | apply accumulate_keeps | apply fault_keeps | apply issue_keeps | apply onGot_keeps | apply readHandle_keeps1 | extract_lets | (apply KeepsAns.ite <;> intro _) | intro _

end Sys2Proof.Machine
end

