-- ==== Sys2Proof/Laws/KeepsRemap.lean ====
section
/-! SUPPORT. What every operation of Machine/Remap.lean leaves as the law Keeps says (Laws/Keeps.lean). -/

namespace Sys2Proof.Machine

theorem releasePage_keeps {s0 : State} {x0 : State} {x1} {x2} {x3} {x4} (hx0 : Keeps s0 x0) :
    Keeps s0 (releasePage x0 x1 x2 x3 x4) := by
  unfold releasePage
  with_reducible repeat' first | assumption | apply invalRange_keeps | apply onHome_keeps | apply resume_keeps | apply forAll_keeps | extract_lets | intro _

theorem holdPage_keeps {s0 : State} {x0 : State} {x1} {x2} (hx0 : Keeps s0 x0) :
    Keeps s0 (holdPage x0 x1 x2) := by
  unfold holdPage
  with_reducible repeat' first | assumption | apply onSlice_keeps | apply forAll_keeps | extract_lets | split | intro _

theorem rewriteHere_keeps {s0 : State} {x0 : State} {x1} (hx0 : Keeps s0 x0) :
    KeepsFst s0 (rewriteHere x0 x1) := by
  unfold rewriteHere
  with_reducible repeat' first | assumption | apply devStore_keeps | apply prepWrites_keeps | apply forAll_keeps | (apply Keeps.ofFst; assumption) | extract_lets | (apply KeepsFst.ite <;> intro _) | split | intro _ | simp only [KeepsFst.pair_iff]

theorem rewriteHere_keeps1 {s0 : State} {x0 : State} {x1} (hx0 : Keeps s0 x0) :
    Keeps s0 (rewriteHere x0 x1).1 := rewriteHere_keeps hx0

theorem leafDone_keeps {s0 : State} {x0 : State} {x1} {x2} {x3} (hx0 : Keeps s0 x0) :
    Keeps s0 (leafDone x0 x1 x2 x3) := by
  unfold leafDone
  with_reducible repeat' first | assumption | apply onItem_keeps

theorem casEntry_keeps {s0 : State} {x0 : State} {x1} {x2} {x3} {x4} (hx0 : Keeps s0 x0) :
    Keeps s0 (casEntry x0 x1 x2 x3 x4) := by
  unfold casEntry
  with_reducible repeat' first | assumption | apply sendFabric_keeps

theorem rewriteFar_keeps {s0 : State} {x0 : State} {x1} {x2} (hx0 : Keeps s0 x0) :
    KeepsAns s0 (rewriteFar x0 x1 x2) := by
  unfold rewriteFar
  with_reducible repeat' first | assumption | apply KeepsAns.next | apply casEntry_keeps | apply countTrn_keeps | apply leafDone_keeps | apply notEnabled_keeps | apply onItem_keeps | apply onThread_keeps | apply releasePage_keeps | apply settle_keeps | extract_lets | (apply Keeps.ite' <;> intro _) | (apply KeepsAns.ite <;> intro _) | split

theorem moveBytes_keeps {s0 : State} {x0 : State} {x1} {x2} (hx0 : Keeps s0 x0) :
    KeepsFst s0 (moveBytes x0 x1 x2) := by
  unfold moveBytes
  with_reducible repeat' first | assumption | apply copyRange_keeps | apply prepReads_keeps1 | apply prepWrites_keeps1 | extract_lets | (apply KeepsFst.ite <;> intro _) | simp only [KeepsFst.pair_iff]

theorem moveBytes_keeps1 {s0 : State} {x0 : State} {x1} {x2} (hx0 : Keeps s0 x0) :
    Keeps s0 (moveBytes x0 x1 x2).1 := moveBytes_keeps hx0

theorem execAdviseRemap_keeps {s0 : State} {x0} {x1 : State} (hx1 : Keeps s0 x1) :
    KeepsAns s0 (execAdviseRemap x0 x1) := by
  unfold execAdviseRemap
  with_reducible repeat' first | assumption | apply KeepsAns.next | apply adviseRun_keeps | apply casEntry_keeps | apply countTrn_keeps | apply dropTables_keeps | apply endItem_keeps | apply failItem_keeps | apply fetchNeed_keeps | apply holdPage_keeps | apply leafDone_keeps | apply moveBytes_keeps | apply onItem_keeps | apply releasePage_keeps | apply rewriteFar_keeps | apply rewriteHere_keeps | apply settle_keeps | (apply Keeps.ofFst; assumption) | extract_lets | (apply Keeps.ite' <;> intro _) | (apply KeepsAns.ite <;> intro _) | split | intro _

end Sys2Proof.Machine
end

