-- ==== Sys2Proof/Laws/KeepsScalar.lean ====
section
/-! SUPPORT. What every operation of Machine/Scalar.lean leaves as the law Keeps says (Laws/Keeps.lean). -/

namespace Sys2Proof.Machine

theorem execLi_keeps {s0 : State} {x0} {x1} {x2 : State} (hx2 : Keeps s0 x2) :
    KeepsAns s0 (execLi x0 x1 x2) := by
  unfold execLi
  with_reducible repeat' first | assumption | apply regOp_keeps

theorem scalarOp_keeps {s0 : State} {x0 : State} {x1} {x2} {x3} {x4} (hx0 : Keeps s0 x0) :
    KeepsAns s0 (scalarOp x0 x1 x2 x3 x4) := by
  unfold scalarOp
  with_reducible repeat' first | assumption | apply regOp_keeps

theorem execSub_keeps {s0 : State} {x0} {x1} {x2 : State} (hx2 : Keeps s0 x2) :
    KeepsAns s0 (execSub x0 x1 x2) := by
  unfold execSub
  with_reducible repeat' first | assumption | apply scalarOp_keeps

theorem execClz_keeps {s0 : State} {x0} {x1} {x2 : State} (hx2 : Keeps s0 x2) :
    KeepsAns s0 (execClz x0 x1 x2) := by
  unfold execClz
  with_reducible repeat' first | assumption | apply regOp_keeps

theorem execMinu_keeps {s0 : State} {x0} {x1} {x2 : State} (hx2 : Keeps s0 x2) :
    KeepsAns s0 (execMinu x0 x1 x2) := by
  unfold execMinu
  with_reducible repeat' first | assumption | apply scalarOp_keeps

theorem execMul_keeps {s0 : State} {x0} {x1} {x2 : State} (hx2 : Keeps s0 x2) :
    KeepsAns s0 (execMul x0 x1 x2) := by
  unfold execMul
  with_reducible repeat' first | assumption | apply scalarOp_keeps

theorem execLui_keeps {s0 : State} {x0} {x1} {x2 : State} (hx2 : Keeps s0 x2) :
    KeepsAns s0 (execLui x0 x1 x2) := by
  unfold execLui
  with_reducible repeat' first | assumption | apply regOp_keeps

theorem execAnd_keeps {s0 : State} {x0} {x1} {x2 : State} (hx2 : Keeps s0 x2) :
    KeepsAns s0 (execAnd x0 x1 x2) := by
  unfold execAnd
  with_reducible repeat' first | assumption | apply scalarOp_keeps

theorem execShr_keeps {s0 : State} {x0} {x1} {x2 : State} (hx2 : Keeps s0 x2) :
    KeepsAns s0 (execShr x0 x1 x2) := by
  unfold execShr
  with_reducible repeat' first | assumption | apply scalarOp_keeps

theorem execSar_keeps {s0 : State} {x0} {x1} {x2 : State} (hx2 : Keeps s0 x2) :
    KeepsAns s0 (execSar x0 x1 x2) := by
  unfold execSar
  with_reducible repeat' first | assumption | apply scalarOp_keeps

theorem execAdd_keeps {s0 : State} {x0} {x1} {x2 : State} (hx2 : Keeps s0 x2) :
    KeepsAns s0 (execAdd x0 x1 x2) := by
  unfold execAdd
  with_reducible repeat' first | assumption | apply scalarOp_keeps

theorem execMulhu_keeps {s0 : State} {x0} {x1} {x2 : State} (hx2 : Keeps s0 x2) :
    KeepsAns s0 (execMulhu x0 x1 x2) := by
  unfold execMulhu
  with_reducible repeat' first | assumption | apply scalarOp_keeps

theorem execOr_keeps {s0 : State} {x0} {x1} {x2 : State} (hx2 : Keeps s0 x2) :
    KeepsAns s0 (execOr x0 x1 x2) := by
  unfold execOr
  with_reducible repeat' first | assumption | apply scalarOp_keeps

theorem execXor_keeps {s0 : State} {x0} {x1} {x2 : State} (hx2 : Keeps s0 x2) :
    KeepsAns s0 (execXor x0 x1 x2) := by
  unfold execXor
  with_reducible repeat' first | assumption | apply scalarOp_keeps

theorem execShl_keeps {s0 : State} {x0} {x1} {x2 : State} (hx2 : Keeps s0 x2) :
    KeepsAns s0 (execShl x0 x1 x2) := by
  unfold execShl
  with_reducible repeat' first | assumption | apply scalarOp_keeps

theorem execMaxu_keeps {s0 : State} {x0} {x1} {x2 : State} (hx2 : Keeps s0 x2) :
    KeepsAns s0 (execMaxu x0 x1 x2) := by
  unfold execMaxu
  with_reducible repeat' first | assumption | apply scalarOp_keeps

theorem execMin_keeps {s0 : State} {x0} {x1} {x2 : State} (hx2 : Keeps s0 x2) :
    KeepsAns s0 (execMin x0 x1 x2) := by
  unfold execMin
  with_reducible repeat' first | assumption | apply scalarOp_keeps

theorem execMax_keeps {s0 : State} {x0} {x1} {x2 : State} (hx2 : Keeps s0 x2) :
    KeepsAns s0 (execMax x0 x1 x2) := by
  unfold execMax
  with_reducible repeat' first | assumption | apply scalarOp_keeps

theorem execDivu_keeps {s0 : State} {x0} {x1} {x2 : State} (hx2 : Keeps s0 x2) :
    KeepsAns s0 (execDivu x0 x1 x2) := by
  unfold execDivu
  with_reducible repeat' first | assumption | apply scalarOp_keeps

theorem execRemu_keeps {s0 : State} {x0} {x1} {x2 : State} (hx2 : Keeps s0 x2) :
    KeepsAns s0 (execRemu x0 x1 x2) := by
  unfold execRemu
  with_reducible repeat' first | assumption | apply scalarOp_keeps

theorem execPopc_keeps {s0 : State} {x0} {x1} {x2 : State} (hx2 : Keeps s0 x2) :
    KeepsAns s0 (execPopc x0 x1 x2) := by
  unfold execPopc
  with_reducible repeat' first | assumption | apply regOp_keeps

end Sys2Proof.Machine
end

