-- ==== Sys2Proof/Laws/KeepsSearch.lean ====
section
/-! SUPPORT. What every operation of Machine/Search.lean leaves as the law Keeps says (Laws/Keeps.lean). -/

namespace Sys2Proof.Machine

theorem filterVec_keeps {s0 : State} {x0 : State} {x1} {x2} {x3} {x4} {x5} {x6} (hx0 : Keeps s0 x0) :
    KeepsFst s0 (filterVec x0 x1 x2 x3 x4 x5 x6) := by
  unfold filterVec
  with_reducible repeat' first | assumption | apply itemRead_keeps | (apply Keeps.ofFst; assumption) | extract_lets | (apply KeepsFst.ite <;> intro _) | split | simp only [KeepsFst.pair_iff]

theorem filterVec_keeps1 {s0 : State} {x0 : State} {x1} {x2} {x3} {x4} {x5} {x6} (hx0 : Keeps s0 x0) :
    Keeps s0 (filterVec x0 x1 x2 x3 x4 x5 x6).1 := filterVec_keeps hx0

theorem execBmtest_keeps {s0 : State} {x0} {x1} {x2 : State} (hx2 : Keeps s0 x2) :
    KeepsAns s0 (execBmtest x0 x1 x2) := by
  unfold execBmtest
  with_reducible repeat' first | assumption | apply KeepsAns.next | apply chargeReads_keeps | apply issue_keeps | apply onGot_keeps | apply onThread_keeps | apply readJva_keeps1 | extract_lets | intro _

theorem readLists_keeps {s0 : State} {x0 : State} {x1} {x2} {x3} (hx0 : Keeps s0 x0) :
    KeepsFst s0 (readLists x0 x1 x2 x3) := by
  induction x3 generalizing x0 x1 x2 with
  | zero => unfold readLists; with_reducible repeat' first | assumption | apply itemRead_keeps | (apply Keeps.ofFst; assumption) | apply ih | extract_lets | (apply KeepsFst.ite <;> intro _) | split | simp only [KeepsFst.pair_iff]
  | succ n ih => unfold readLists; with_reducible repeat' first | assumption | apply itemRead_keeps | (apply Keeps.ofFst; assumption) | apply ih | extract_lets | (apply KeepsFst.ite <;> intro _) | split | simp only [KeepsFst.pair_iff]

theorem readLists_keeps1 {s0 : State} {x0 : State} {x1} {x2} {x3} (hx0 : Keeps s0 x0) :
    Keeps s0 (readLists x0 x1 x2 x3).1 := readLists_keeps hx0

theorem execTopkMerge_keeps {s0 : State} {x0} {x1 : State} (hx1 : Keeps s0 x1) :
    KeepsAns s0 (execTopkMerge x0 x1) := by
  unfold execTopkMerge
  with_reducible repeat' first | assumption | apply KeepsAns.next | apply contribute_keeps1 | apply endItem_keeps | apply itemStore_keeps1 | apply onGotI_keeps | apply onItem_keeps | apply opRun_keeps | apply readLists_keeps1 | extract_lets | (apply KeepsAns.ite <;> intro _) | split | intro _

theorem scanFinish_keeps {s0 : State} {x0 : State} {x1} {x2} (hx0 : Keeps s0 x0) :
    KeepsAns s0 (scanFinish x0 x1 x2) := by
  unfold scanFinish
  with_reducible repeat' first | assumption | apply KeepsAns.next | apply contribute_keeps1 | apply itemStore_keeps1 | apply onGotI_keeps | apply onItem_keeps | extract_lets | (apply KeepsAns.ite <;> intro _) | split | intro _

theorem readQuery_keeps {s0 : State} {x0 : State} {x1} {x2} {x3} {x4} (hx0 : Keeps s0 x0) :
    KeepsFst s0 (readQuery x0 x1 x2 x3 x4) := by
  unfold readQuery
  with_reducible repeat' first | assumption | apply itemRead_keeps | (apply Keeps.ofFst; assumption) | extract_lets | split | simp only [KeepsFst.pair_iff]

theorem readQuery_keeps1 {s0 : State} {x0 : State} {x1} {x2} {x3} {x4} (hx0 : Keeps s0 x0) :
    Keeps s0 (readQuery x0 x1 x2 x3 x4).1 := readQuery_keeps hx0

theorem execIvfProbe_keeps {s0 : State} {x0} {x1 : State} (hx1 : Keeps s0 x1) :
    KeepsAns s0 (execIvfProbe x0 x1) := by
  unfold execIvfProbe
  with_reducible repeat' first | assumption | apply KeepsAns.next | apply endItem_keeps | apply failItem_keeps | apply itemClass_keeps | apply itemRead_keeps | apply itemRead_keeps1 | apply itemStore_keeps1 | apply meterOps_keeps | apply needTiles_keeps1 | apply onGotI_keeps | apply onItem_keeps | apply opRun_keeps | apply readQuery_keeps | (apply Keeps.ofFst; assumption) | extract_lets | (apply KeepsAns.ite <;> intro _) | (apply KeepsFst.ite <;> intro _) | split | intro _ | simp only [KeepsFst.pair_iff]

theorem helperTile_keeps {s0 : State} {x0 : State} {x1} {x2} {x3} {x4} (hx0 : Keeps s0 x0) :
    KeepsAns s0 (helperTile x0 x1 x2 x3 x4) := by
  unfold helperTile
  with_reducible repeat' first | assumption | apply KeepsAns.next | apply bump_keeps | apply issue_keeps | apply onGot_keeps | apply onThread_keeps | extract_lets | split | intro _

theorem execPqlut_keeps {s0 : State} {x0} {x1} {x2 : State} (hx2 : Keeps s0 x2) :
    KeepsAns s0 (execPqlut x0 x1 x2) := by
  unfold execPqlut
  with_reducible repeat' first | assumption | apply helperTile_keeps

theorem execPqscan_keeps {s0 : State} {x0} {x1} {x2 : State} (hx2 : Keeps s0 x2) :
    KeepsAns s0 (execPqscan x0 x1 x2) := by
  unfold execPqscan
  with_reducible repeat' first | assumption | apply helperTile_keeps

theorem execTopkins_keeps {s0 : State} {x0} {x1} {x2 : State} (hx2 : Keeps s0 x2) :
    KeepsAns s0 (execTopkins x0 x1 x2) := by
  unfold execTopkins
  with_reducible repeat' first | assumption | apply helperTile_keeps

theorem execTopkmrg_keeps {s0 : State} {x0} {x1} {x2 : State} (hx2 : Keeps s0 x2) :
    KeepsAns s0 (execTopkmrg x0 x1 x2) := by
  unfold execTopkmrg
  with_reducible repeat' first | assumption | apply KeepsAns.next | apply fault_keeps | apply issue_keeps | apply meter_keeps | apply onGot_keeps | apply onThread_keeps | apply wholeTile_keeps | (apply Keeps.ofFst; assumption) | extract_lets | (apply KeepsAns.ite <;> intro _) | split | intro _

theorem scanVecs_keeps {s0 : State} {x0 : State} {x1} {x2} {x3} {x4} {x5} {x6} {x7} {x8} {x9} {x10} {x11} (hx0 : Keeps s0 x0) :
    KeepsFst s0 (scanVecs x0 x1 x2 x3 x4 x5 x6 x7 x8 x9 x10 x11) := by
  induction x10 generalizing x0 x1 x2 x3 x4 x5 x6 x7 x8 x9 x11 with
  | nil => unfold scanVecs; with_reducible repeat' first | assumption | apply filterVec_keeps | apply itemRead_keeps | (apply Keeps.ofFst; assumption) | apply ih | extract_lets | (apply KeepsFst.ite <;> intro _) | split | simp only [KeepsFst.pair_iff]
  | cons z zs ih => unfold scanVecs; with_reducible repeat' first | assumption | apply filterVec_keeps | apply itemRead_keeps | (apply Keeps.ofFst; assumption) | apply ih | extract_lets | (apply KeepsFst.ite <;> intro _) | split | simp only [KeepsFst.pair_iff]

theorem scanVecs_keeps1 {s0 : State} {x0 : State} {x1} {x2} {x3} {x4} {x5} {x6} {x7} {x8} {x9} {x10} {x11} (hx0 : Keeps s0 x0) :
    Keeps s0 (scanVecs x0 x1 x2 x3 x4 x5 x6 x7 x8 x9 x10 x11).1 := scanVecs_keeps hx0

theorem scanProbe_keeps {s0 : State} {x0 : State} {x1} {x2} {x3} {x4} (hx0 : Keeps s0 x0) :
    KeepsAns s0 (scanProbe x0 x1 x2 x3 x4) := by
  unfold scanProbe
  with_reducible repeat' first | assumption | apply KeepsAns.next | apply failItem_keeps | apply itemRead_keeps | apply itemRead_keeps1 | apply needTiles_keeps1 | apply onGotI_keeps | apply onItem_keeps | apply scanVecs_keeps1 | (apply Keeps.ofFst; assumption) | extract_lets | (apply KeepsAns.ite <;> intro _) | (apply KeepsFst.ite <;> intro _) | split | intro _ | simp only [KeepsFst.pair_iff]

theorem execPqScan_keeps {s0 : State} {x0} {x1 : State} (hx1 : Keeps s0 x1) :
    KeepsAns s0 (execPqScan x0 x1) := by
  unfold execPqScan
  with_reducible repeat' first | assumption | apply KeepsAns.next | apply failItem_keeps | apply itemClass_keeps | apply itemRead_keeps | apply itemRead_keeps1 | apply onGotI_keeps | apply onItem_keeps | apply opRun_keeps | apply readQuery_keeps1 | apply scanFinish_keeps | apply scanProbe_keeps | (apply Keeps.ofFst; assumption) | extract_lets | (apply KeepsAns.ite <;> intro _) | (apply KeepsFst.ite <;> intro _) | split | intro _ | simp only [KeepsFst.pair_iff]

end Sys2Proof.Machine
end

