-- ==== Sys2Proof/Laws/KeepsTake.lean ====
section
/-! SUPPORT. What every operation of Machine/Take.lean leaves as the law Keeps says (Laws/Keeps.lean). -/

namespace Sys2Proof.Machine

theorem homeHearth_keeps {s0 : State} {x0 : State} {x1} {x2} {x3} {x4} (hx0 : Keeps s0 x0) :
    KeepsFst s0 (homeHearth x0 x1 x2 x3 x4) := by
  unfold homeHearth
  with_reducible repeat' first | assumption | apply xlateTry_keeps | (apply Keeps.ofFst; assumption) | extract_lets | (apply KeepsFst.ite <;> intro _) | split | simp only [KeepsFst.pair_iff]

theorem homeHearth_keeps1 {s0 : State} {x0 : State} {x1} {x2} {x3} {x4} (hx0 : Keeps s0 x0) :
    Keeps s0 (homeHearth x0 x1 x2 x3 x4).1 := homeHearth_keeps hx0

theorem needsRead_keeps {s0 : State} {x0 : State} {x1} {x2} {x3} {x4} (hx0 : Keeps s0 x0) :
    KeepsFst s0 (needsRead x0 x1 x2 x3 x4) := by
  unfold needsRead
  with_reducible repeat' first | assumption | apply onSchedN_keeps | apply prepRead_keeps | apply sendFabric_keeps | apply xlateTry_keeps | (apply Keeps.ofFst; assumption) | extract_lets | (apply KeepsFst.ite <;> intro _) | split | simp only [KeepsFst.pair_iff]

theorem needsRead_keeps1 {s0 : State} {x0 : State} {x1} {x2} {x3} {x4} (hx0 : Keeps s0 x0) :
    Keeps s0 (needsRead x0 x1 x2 x3 x4).1 := needsRead_keeps hx0

theorem needsOf_keeps {s0 : State} {x0 : State} {x1} {x2} {x3} {x4} (hx0 : Keeps s0 x0) :
    KeepsFst s0 (needsOf x0 x1 x2 x3 x4) := by
  unfold needsOf
  with_reducible repeat' first | assumption | apply needsRead_keeps | (apply Keeps.ofFst; assumption) | extract_lets | (apply KeepsFst.ite <;> intro _) | split | simp only [KeepsFst.pair_iff]

theorem needsOf_keeps1 {s0 : State} {x0 : State} {x1} {x2} {x3} {x4} (hx0 : Keeps s0 x0) :
    Keeps s0 (needsOf x0 x1 x2 x3 x4).1 := needsOf_keeps hx0

theorem seatFor_keeps {s0 : State} {x0 : State} {x1} {x2} (hx0 : Keeps s0 x0) :
    KeepsFst s0 (seatFor x0 x1 x2) := by
  unfold seatFor
  with_reducible repeat' first | assumption | apply homeHearth_keeps | apply needsOf_keeps | apply onPwr_keeps | (apply Keeps.ofFst; assumption) | extract_lets | (apply KeepsFst.ite <;> intro _) | split | simp only [KeepsFst.pair_iff]

theorem seatFor_keeps1 {s0 : State} {x0 : State} {x1} {x2} (hx0 : Keeps s0 x0) :
    Keeps s0 (seatFor x0 x1 x2).1 := seatFor_keeps hx0

theorem takeSlot_keeps {s0 : State} {x0 : State} {x1} {x2} {x3} (hx0 : Keeps s0 x0) :
    Keeps s0 (takeSlot x0 x1 x2 x3) := by
  unfold takeSlot
  with_reducible repeat' first | assumption | apply flagReady_keeps1 | apply homeStore_keeps | apply onSchedN_keeps | apply onStv_keeps | apply prepReads_keeps1 | extract_lets | (apply Keeps.ite' <;> intro _)

theorem choose_keeps {s0 : State} {x0 : State} {x1} {x2} {x3} (hx0 : Keeps s0 x0) :
    KeepsFst s0 (choose x0 x1 x2 x3) := by
  induction x2 generalizing x0 x1 x3 with
  | nil => unfold choose; with_reducible repeat' first | assumption | apply seatFor_keeps | (apply Keeps.ofFst; assumption) | apply ih | extract_lets | (apply KeepsFst.ite <;> intro _) | split | simp only [KeepsFst.pair_iff]
  | cons z zs ih => unfold choose; with_reducible repeat' first | assumption | apply seatFor_keeps | (apply Keeps.ofFst; assumption) | apply ih | extract_lets | (apply KeepsFst.ite <;> intro _) | split | simp only [KeepsFst.pair_iff]

theorem choose_keeps1 {s0 : State} {x0 : State} {x1} {x2} {x3} (hx0 : Keeps s0 x0) :
    Keeps s0 (choose x0 x1 x2 x3).1 := choose_keeps hx0

theorem execSlotTake_keeps {s0 : State} {x0} {x1 : State} (hx1 : Keeps s0 x1) :
    KeepsAns s0 (execSlotTake x0 x1) := by
  unfold execSlotTake
  with_reducible repeat' first | assumption | apply KeepsAns.next | apply choose_keeps | apply onSchedN_keeps | apply settle_keeps | apply takeSlot_keeps | (apply Keeps.ofFst; assumption) | extract_lets | (apply KeepsAns.ite <;> intro _) | split

end Sys2Proof.Machine
end

