-- ==== Sys2Proof/Laws/KeepsTile.lean ====
section
/-! SUPPORT. What every operation of Machine/Tile.lean leaves as the law Keeps says (Laws/Keeps.lean). -/

namespace Sys2Proof.Machine

theorem execTwait_keeps {s0 : State} {x0} {x1} {x2 : State} (hx2 : Keeps s0 x2) :
    KeepsAns s0 (execTwait x0 x1 x2) := by
  unfold execTwait
  with_reducible repeat' first | assumption | apply KeepsAns.next | apply fault_keeps | apply issue_keeps | apply onThread_keeps | extract_lets | split | intro _

theorem onFetch_keeps {s0 : State} {x0 : State} {x1} {x2} {x3} (hx0 : Keeps s0 x0) :
    Keeps s0 (onFetch x0 x1 x2 x3) := by
  unfold onFetch
  with_reducible repeat' first | assumption | apply onItem_keeps

theorem execFetchBudgetLapse_keeps {s0 : State} {x0} {x1} {x2 : State} (hx2 : Keeps s0 x2) :
    KeepsAns s0 (execFetchBudgetLapse x0 x1 x2) := by
  unfold execFetchBudgetLapse
  with_reducible repeat' first | assumption | apply KeepsAns.next | apply fault_keeps | apply notEnabled_keeps | apply onFetch_keeps | extract_lets | (apply KeepsAns.ite <;> intro _) | split

theorem fillHandles_keeps {s0 : State} {x0 : State} {x1} {x2} {x3} (hx0 : Keeps s0 x0) :
    Keeps s0 (fillHandles x0 x1 x2 x3) := by
  unfold fillHandles
  with_reducible repeat' first | assumption | apply onItem_keeps

theorem fetchWhole_keeps {s0 : State} {x0 : State} {x1} {x2} {x3} {x4} (hx0 : Keeps s0 x0) :
    Keeps s0 (fetchWhole x0 x1 x2 x3 x4) := by
  unfold fetchWhole
  with_reducible repeat' first | assumption | apply chargeReads_keeps | apply fillHandles_keeps | apply makeBorrowRoom_keeps | apply onFetch_keeps | apply onItem_keeps | apply onT0Slice_keeps | apply onT0_keeps | apply promote_keeps | (apply Keeps.ofFst; assumption) | extract_lets | (apply Keeps.ite' <;> intro _) | split | dsimp +zetaDelta only

theorem execTcvt_keeps {s0 : State} {x0} {x1} {x2 : State} (hx2 : Keeps s0 x2) :
    KeepsAns s0 (execTcvt x0 x1 x2) := by
  unfold execTcvt
  with_reducible repeat' first | assumption | apply KeepsAns.next | apply convertTile_keeps1 | apply fault_keeps | apply issue_keeps | apply meter_keeps | apply onGot_keeps | apply onThread_keeps | apply wholeTile_keeps1 | extract_lets | split | intro _

theorem execTwv_keeps {s0 : State} {x0} {x1} {x2 : State} (hx2 : Keeps s0 x2) :
    KeepsAns s0 (execTwv x0 x1 x2) := by
  unfold execTwv
  with_reducible repeat' first | assumption | apply KeepsAns.next | apply issue_keeps | apply meter_keeps | apply onGot_keeps | apply onThread_keeps | extract_lets | intro _

theorem fetchFailed_keeps {s0 : State} {x0 : State} {x1} {x2} {x3} (hx0 : Keeps s0 x0) :
    Keeps s0 (fetchFailed x0 x1 x2 x3) := by
  unfold fetchFailed
  with_reducible repeat' first | assumption | apply onFetch_keeps

theorem execTst_keeps {s0 : State} {x0} {x1} {x2 : State} (hx2 : Keeps s0 x2) :
    KeepsAns s0 (execTst x0 x1 x2) := by
  unfold execTst
  with_reducible repeat' first | assumption | apply KeepsAns.next | apply fault_keeps | apply issue_keeps | apply onGot_keeps | apply onThread_keeps | apply storeTile_keeps1 | apply wholeTile_keeps1 | extract_lets | (apply KeepsAns.ite <;> intro _) | intro _

theorem beginFetch_keeps {s0 : State} {x0 : State} {x1} {x2} (hx0 : Keeps s0 x0) :
    Keeps s0 (beginFetch x0 x1 x2) := by
  unfold beginFetch
  with_reducible repeat' first | assumption | apply onItem_keeps

theorem readShadow_keeps {s0 : State} {x0 : State} {x1} (hx0 : Keeps s0 x0) :
    KeepsFst s0 (readShadow x0 x1) := by
  unfold readShadow
  with_reducible repeat' first | assumption | apply prepReads_keeps1 | extract_lets | (apply KeepsFst.ite <;> intro _) | split | simp only [KeepsFst.pair_iff]

theorem readShadow_keeps1 {s0 : State} {x0 : State} {x1} (hx0 : Keeps s0 x0) :
    Keeps s0 (readShadow x0 x1).1 := readShadow_keeps hx0

theorem execTileFetchComplete_keeps {s0 : State} {x0} {x1} {x2 : State} (hx2 : Keeps s0 x2) :
    KeepsAns s0 (execTileFetchComplete x0 x1 x2) := by
  unfold execTileFetchComplete
  with_reducible repeat' first | assumption | apply KeepsAns.next | apply fetchFailed_keeps | apply fetchWhole_keeps | apply notEnabled_keeps | apply readShadow_keeps | apply readTile_keeps | (apply Keeps.ofFst; assumption) | extract_lets | (apply KeepsAns.ite <;> intro _) | split

theorem execTldPoolTimeout_keeps {s0 : State} {x0} {x1 : State} (hx1 : Keeps s0 x1) :
    KeepsAns s0 (execTldPoolTimeout x0 x1) := by
  unfold execTldPoolTimeout
  with_reducible repeat' first | assumption | apply KeepsAns.next | apply fault_keeps | apply notEnabled_keeps | apply onThread_keeps | (apply KeepsAns.ite <;> intro _) | split

theorem execTld_keeps {s0 : State} {x0} {x1} {x2} {x3 : State} (hx3 : Keeps s0 x3) :
    KeepsAns s0 (execTld x0 x1 x2 x3) := by
  unfold execTld
  with_reducible repeat' first | assumption | apply KeepsAns.next | apply beginFetch_keeps | apply fault_keeps | apply issue_keeps | apply onThread_keeps | apply stoveDecode_keeps1 | extract_lets | (apply Keeps.ite' <;> intro _) | (apply KeepsAns.ite <;> intro _) | split | intro _ | dsimp +zetaDelta only

theorem execTalloc_keeps {s0 : State} {x0} {x1} {x2 : State} (hx2 : Keeps s0 x2) :
    KeepsAns s0 (execTalloc x0 x1 x2) := by
  unfold execTalloc
  with_reducible repeat' first | assumption | apply KeepsAns.next | apply fault_keeps | apply issue_keeps | apply onThread_keeps | extract_lets | split | intro _

theorem execTrel_keeps {s0 : State} {x0} {x1} {x2 : State} (hx2 : Keeps s0 x2) :
    KeepsAns s0 (execTrel x0 x1 x2) := by
  unfold execTrel
  with_reducible repeat' first | assumption | apply KeepsAns.next | apply fault_keeps | apply issue_keeps | apply onThread_keeps | extract_lets | split | intro _

theorem execTrv_keeps {s0 : State} {x0} {x1} {x2 : State} (hx2 : Keeps s0 x2) :
    KeepsAns s0 (execTrv x0 x1 x2) := by
  unfold execTrv
  with_reducible repeat' first | assumption | apply KeepsAns.next | apply issue_keeps | apply onGot_keeps | apply onThread_keeps | apply readHandle_keeps1 | extract_lets | intro _

theorem execTtag_keeps {s0 : State} {x0} {x1} {x2 : State} (hx2 : Keeps s0 x2) :
    KeepsAns s0 (execTtag x0 x1 x2) := by
  unfold execTtag
  with_reducible repeat' first | assumption | apply KeepsAns.next | apply issue_keeps | apply onGot_keeps | apply onThread_keeps | extract_lets | intro _

end Sys2Proof.Machine
end

