-- ==== Sys2Proof/Laws/KeepsWalkRows.lean ====
section
/-! SUPPORT. What every operation of Machine/WalkRows.lean leaves as the law Keeps says (Laws/Keeps.lean). -/

namespace Sys2Proof.Machine

theorem fetchRing_keeps {s0 : State} {x0 : State} {x1} {x2} {x3} (hx0 : Keeps s0 x0) :
    Keeps s0 (fetchRing x0 x1 x2 x3) := by
  induction x2 generalizing x0 x1 x3 with
  | zero => unfold fetchRing; with_reducible repeat' first | assumption | apply fetchNeed_keeps | apply xlate_keeps | (apply Keeps.ofSnd; assumption) | apply ih | split
  | succ n ih => unfold fetchRing; with_reducible repeat' first | assumption | apply fetchNeed_keeps | apply xlate_keeps | (apply Keeps.ofSnd; assumption) | apply ih | split

theorem declineOne_keeps {s0 : State} {x0 : State} {x1} {x2} (hx0 : Keeps s0 x0) :
    Keeps s0 (declineOne x0 x1 x2) := by
  unfold declineOne
  with_reducible repeat' first | assumption | apply declineAll_keeps | apply dropFault_keeps | apply recordDecline_keeps

theorem execFaultRecordWrite_keeps {s0 : State} {x0} {x1 : State} (hx1 : Keeps s0 x1) :
    KeepsAns s0 (execFaultRecordWrite x0 x1) := by
  unfold execFaultRecordWrite
  with_reducible repeat' first | assumption | apply KeepsAns.next | apply declineOne_keeps | apply devStore_keeps | apply fetchRing_keeps | apply notEnabled_keeps | apply onTrn_keeps | apply prepWrite_keeps1 | apply settle_keeps | extract_lets | (apply KeepsAns.ite <;> intro _) | split

theorem freeRecord_keeps {s0 : State} {x0 : State} {x1} (hx0 : Keeps s0 x0) :
    KeepsFst s0 (freeRecord x0 x1) := by
  unfold freeRecord
  with_reducible repeat' first | assumption | apply devStore_keeps | apply prepWrite_keeps1 | extract_lets | (apply KeepsFst.ite <;> intro _) | split | simp only [KeepsFst.pair_iff]

theorem freeRecord_keeps1 {s0 : State} {x0 : State} {x1} (hx0 : Keeps s0 x0) :
    Keeps s0 (freeRecord x0 x1).1 := freeRecord_keeps hx0

theorem execFaultDecline_keeps {s0 : State} {x0} {x1 : State} (hx1 : Keeps s0 x1) :
    KeepsAns s0 (execFaultDecline x0 x1) := by
  unfold execFaultDecline
  with_reducible repeat' first | assumption | apply KeepsAns.next | apply declineAll_keeps | apply dropFault_keeps | apply freeRecord_keeps | apply notEnabled_keeps | apply settle_keeps | (apply Keeps.ofFst; assumption) | split

theorem execWalkReadComplete_keeps {s0 : State} {x0} {x1} {x2 : State} (hx2 : Keeps s0 x2) :
    KeepsAns s0 (execWalkReadComplete x0 x1 x2) := by
  unfold execWalkReadComplete
  with_reducible repeat' first | assumption | apply KeepsAns.next | apply goOn_keeps | apply notEnabled_keeps | apply settle_keeps | apply walkRead_keeps1 | split

theorem execFaultRetry_keeps {s0 : State} {x0} {x1 : State} (hx1 : Keeps s0 x1) :
    KeepsAns s0 (execFaultRetry x0 x1) := by
  unfold execFaultRetry
  with_reducible repeat' first | assumption | apply KeepsAns.next | apply dropFault_keeps | apply failWaiter_keeps | apply freeRecord_keeps | apply needWalk_keeps | apply notEnabled_keeps | apply settle_keeps | apply forAll_keeps | (apply Keeps.ofFst; assumption) | extract_lets | split | intro _ | dsimp +zetaDelta only

theorem unwait_keeps {s0 : State} {x0 : State} {x1} (hx0 : Keeps s0 x0) :
    Keeps s0 (unwait x0 x1) := by
  unfold unwait
  with_reducible repeat' first | assumption | apply onTrn_keeps

theorem execTranslationTimeout_keeps {s0 : State} {x0} {x1 : State} (hx1 : Keeps s0 x1) :
    KeepsAns s0 (execTranslationTimeout x0 x1) := by
  unfold execTranslationTimeout
  with_reducible repeat' first | assumption | apply KeepsAns.next | apply countTrn_keeps | apply failWaiter_keeps | apply notEnabled_keeps | apply onSites_keeps | apply refuse_keeps | apply settle_keeps | apply unwait_keeps | (apply KeepsAns.ite <;> intro _) | split

end Sys2Proof.Machine
end

