-- ==== Sys2Proof/Laws/Served.lean ====
section
/-! SUPPORT. How a request reaches its home: what each stage of Safety.lean's names comes to in the operations of the model. -/

namespace Sys2Proof.Machine

/-- A frame that `arrive` takes is the one that came, its class corrected, on a link that is up. -/
theorem arrive_takes {s : State} {a : Arrival} {f : Frame} {s1 : State} {r : Req} (h : arrive s a f = (s1, some r)) :
    r = { a := a, f := classFix f } ∧ (linkOf s a.link).up = true := by
  unfold arrive at h
  simp only at h
  split at h; · cases h
  rename_i hu
  repeat' (split at h <;> try (cases h; done))
  all_goals (cases h; exact ⟨rfl, by simpa using hu⟩)

/-- The class is all that `classFix` corrects. -/
theorem classFix_typ (f : Frame) : (classFix f).typ = f.typ ∧ (classFix f).opa = f.opa := by unfold classFix; split <;> exact ⟨rfl, rfl⟩

/-- Assembly leaves TYPE and OPA as they came. -/
theorem assemble_keeps_type {s s1 : State} {r r1 : Req} (h : assemble s r = (s1, some r1)) : r1.f.typ = r.f.typ ∧ r1.f.opa = r.f.opa := by
  unfold assemble at h
  simp only at h
  repeat' (split at h <;> try (cases h; done))
  all_goals (cases h; exact ⟨rfl, rfl⟩)

/-- An admitted request has the TYPE and OPA of its frame, and came on a link that is up. -/
theorem admitted_keeps_type {s s1 : State} {a f r} (h : admitted s a f s1 r) : r.f.typ = f.typ ∧ r.f.opa = f.opa ∧ (linkOf s a.link).up = true := by
  obtain ⟨s0, r0, h1, -, h2⟩ := h
  obtain ⟨rfl, u⟩ := arrive_takes h1
  obtain ⟨x, y⟩ := assemble_keeps_type h2
  exact ⟨x.trans (classFix_typ f).1, y.trans (classFix_typ f).2, u⟩

/-- Where an admitted request goes on. -/
theorem enter_admitted {s s1 : State} {a f r} (h : admitted s a f s1 r) : enter s a f = (if r.f.leg then enterFabric s1 r
        else if r.f.typ = tCtxOpen then openCtx s1 r
        else if r.f.typ = tCtxClose then closeCtx s1 r
        else enterPartner s1 r) := by
  obtain ⟨s0, r0, h1, hn, h2⟩ := h
  simp only [enter, h1, hn, h2, Bool.false_and, Bool.false_eq_true, if_false]

/-- A fabric request at its owning module is served there. -/
theorem atOwner_enter {s s1 : State} {a f r} (h : atOwner s a f s1 r) : enter s a f = ownerServe s1 r ∧ r.f.typ = f.typ ∧ r.f.opa = f.opa ∧ (linkOf s a.link).up = true := by
  obtain ⟨s0, ha, hl, hb, he, hj, hw⟩ := h
  refine ⟨?_, admitted_keeps_type ha⟩
  rw [enter_admitted ha, hl]
  simp only [if_true, enterFabric]
  have h1 : (if (decide (r.f.typ = tContrib) || decide (r.f.typ = tDeliver) || (decide (r.f.typ = tCoh) && !cohRequest r.f)) = true then none else ownerEarly s0 r.f) = none := by
    rcases hb with h | h | ⟨h, h'⟩ | h
    · simp [h]
    · simp [h]
    · simp [h, h']
    · simp [h]
  rw [h1]
  simp only
  have h2 : (decide (r.f.cell ≠ s0.boot.cell) || decide (epochDist s0 r.f ≤ 128)) = true := by
    by_cases hc : r.f.cell = s0.boot.cell
    · simp [he hc]
    · simp [hc]
  simp only [fabricWindow, hj, hw, h2, if_true]

/-- A partner request at its entry module goes on with its body. -/
theorem atEntry_enter {s s1 : State} {a f r} (h : atEntry s a f s1 r) : enter s a f = partnerBody s1 r ∧ r.f.typ = f.typ ∧ (isTileReq f = false → r.f.opa = f.opa) ∧ (linkOf s a.link).up = true ∧ r.f.typ ≠ tCtxOpen := by
  obtain ⟨s0, r0, s2, ha, hl, ho, hcl, hc, hk, hj, hcc, hw, rfl, rfl⟩ := h
  obtain ⟨ht, hp, hu⟩ := admitted_keeps_type ha
  refine ⟨?_, ht, ?_, hu, ho⟩
  · rw [enter_admitted ha, hl]
    simp only [Bool.false_eq_true, if_false, ho, hcl, enterPartner, hc]
    have h1 : ((decide (r0.f.typ = tCoh)) && (isService r0.a.link || !hasAgent s0 r0.a.link || memberCutNow s0 r0.a.link ||
        (cohCtx s0 r0.a.link).any fun c => c.1 ≠ r0.f.srcCtx)) = false := by
      by_cases hx : r0.f.typ = tCoh
      · obtain ⟨a1, a2, a3, a4⟩ := hk hx
        simp only [hx, a1, a2, a3, a4]; rfl
      · simp [hx]
    simp only [h1, Bool.false_eq_true, if_false, hj, hcc, Option.isSome_none, Bool.false_and, hw]
  · intro hti
    have : isTileReq r0.f = false := by simpa [isTileReq, ht] using hti
    simp only [entered, this, Bool.false_eq_true, if_false, hp]

/-- A request for this module on a link that is up enters, and what it sets free goes on. -/
theorem takeReq_enters {s : State} {a f} {mine : Bool} (hm : mine = true) (ht : inTransit s f = false) (hu : (linkOf s a.link).up = true) :
    takeReq s a f mine = .next (settle (enter s a f)) := by
  simp [takeReq, hm, ht, hu]

/-- Confirmation leaves the frame. -/
theorem confirmed_frame {s r s1 r1} (h : confirmed s r s1 r1) : r1.f = r.f := by
  obtain ⟨_, _, ⟨_, _, rfl⟩ | ⟨_, _, _, _, _, _, rfl⟩⟩ := h <;> rfl

/-- A confirmed request of another module is admitted. -/
theorem ownerServe_confirmed {s r s1 r1} (h : confirmed s r s1 r1) (h1 : r.f.typ ≠ tContrib) (h2 : r.f.typ ≠ tDeliver) (h3 : r.f.typ = tCoh → cohRequest r.f = true) :
    ownerServe s r = serveAdmitted s1 r1 := by
  obtain ⟨hs, ha, hh⟩ := h
  have h4 : (decide (r.f.typ = tCoh) && !cohRequest r.f) = false := by
    by_cases hx : r.f.typ = tCoh
    · simp [h3 hx]
    · simp [hx]
  have h5 : (if ownRules r.f.typ = true then none else admitCheck s r.f) = none := by
    rcases ha with ha | ha <;> simp [ha]
  simp only [ownerServe, h1, h2, if_false, h4, Bool.false_eq_true, hs, h5]
  rcases hh with ⟨hw, rfl, rfl⟩ | ⟨s2, nc, hw, hc, rfl, hf, rfl⟩
  · simp [hw]
  · simp [hw, hc, hf]

/-- A partner request whose address maps to this module is admitted here. -/
theorem partnerBody_mapsHere {s r s1 r1} (h : mapsHere s r s1 r1) (hb : fieldsBad r.f = false) (h0 : r.f.typ ≠ tCtxOpen) (h1 : r.f.typ ≠ tFence) (h2 : r.f.typ ≠ tInval)
    (h3 : r.f.typ = tCoh → cohRequest r.f = true) : partnerBody s r = serveAdmitted s1 r1 := by
  obtain ⟨s2, m, nc, hh, hd, rfl, rfl, hs, ha⟩ := h
  have h4 : (decide (r.f.typ = tCoh) && !cohRequest r.f) = false := by
    by_cases hx : r.f.typ = tCoh
    · simp [h3 hx]
    · simp [hx]
  have key : routeReq s2 r m nc = serveAdmitted (legDest s2 r.f (selfDev s2)) { r with f := { r.f with mpa := BitVec.ofNat 64 m }, nc := nc } := by
    have h5 : (if ownRules r.f.typ = true then none else admitCheck (legDest s2 r.f (selfDev s2)) { r.f with mpa := BitVec.ofNat 64 m }) = none := by
      rcases ha with ha | ha
      · simp [ha]
      · simp only [ha]; simp
    simp only [routeReq, hd, if_true, localServe, hs, h5]
  simp only [partnerBody, h0, hb, h1, h2, h4, if_false, Bool.false_eq_true]
  by_cases ht : isTileReq r.f = true
  · rw [if_pos ht] at hh ⊢
    obtain ⟨ps, hp, hn, rfl, rfl⟩ := hh
    simp only [tileBody, hp, hn, if_true]
    exact key
  · rw [if_neg ht] at hh ⊢
    obtain ⟨l, hp, rfl⟩ := hh
    rw [hp]
    exact key

/-- A request that comes home is served as admitted. -/
theorem comesHome_enter {s s1 : State} {a f r} (h : comesHome s a f s1 r) (h1 : f.typ ≠ tContrib) (h2 : f.typ ≠ tDeliver) (h3 : f.typ ≠ tFence)
    (h4 : f.typ ≠ tInval) (h5 : f.typ = tCoh → cohRequest f = true) :
    enter s a f = serveAdmitted s1 r ∧ r.f.typ = f.typ ∧ (isTileReq f = false → r.f.opa = f.opa) ∧ (linkOf s a.link).up = true := by
  have hco : ∀ g : Frame, g.typ = f.typ → (isTileReq f = false → g.opa = f.opa) → g.typ = tCoh → cohRequest g = true := by
    intro g ht ho hg
    have hx := h5 (ht ▸ hg)
    have : isTileReq f = false := by simp [isTileReq, ← ht, hg, tCoh, tTileRead, tTileWrite]
    simp only [cohRequest, ht, cohMsg, ho this] at hx ⊢
    exact hx
  rcases h with ⟨s0, r0, ho, hc⟩ | ⟨s0, r0, he, hb, hm⟩
  · obtain ⟨e, t, o, u⟩ := atOwner_enter ho
    have hf := confirmed_frame hc
    refine ⟨?_, hf ▸ t, fun _ => hf ▸ o, u⟩
    rw [e, ownerServe_confirmed hc (t ▸ h1) (t ▸ h2) (hco _ t fun _ => o)]
  · obtain ⟨e, t, o, u, hcx⟩ := atEntry_enter he
    refine ⟨?_, ?_, ?_, u⟩
    · rw [e, partnerBody_mapsHere hm hb hcx (t ▸ h3) (t ▸ h4) (hco _ t o)]
    · obtain ⟨_, _, _, _, _, rfl, _⟩ := hm; exact t
    · obtain ⟨_, _, _, _, _, rfl, _⟩ := hm; exact o


/-- Admission leaves the frame. -/
theorem beginAdmitted_frame (s : State) (r : Req) : (beginAdmitted s r).2.f = r.f := by unfold beginAdmitted; split <;> rfl

/-- Ordering leaves the frame. -/
theorem orderReq_frame {s r l s1 r1} (h : orderReq s r l = (s1, r1)) : r1.f = r.f := by
  unfold orderReq at h; split at h
  · cases h; rfl
  · cases h; rfl


/-- What the home does with a request whose turn it is. -/
theorem serveHome_itsTurn {s r s1 r1 l} (h : itsTurn s r s1 r1) (hl : l = reqLine s r) : serveHome s r = (
      match applyReq s1 r1 [] l (decide (r1.stage = 2)) with
      | (s2, some ans) => conclude (markFresh s2 l) l r1 [] ans
      | (s2, none) =>
        if r1.part + 1 = 256 then
          conclude (writeTag s2 r1 l) l r1 [] (if isReadReq r1.f then { payload := (if isReadReq r1.f then r1.acc ++ lineBytes s2 l else []), result := readResult s2 r1 l } else plain stOk)
        else 
          let r2 := { r1 with part := r1.part + 1, acc := if isReadReq r1.f then r1.acc ++ lineBytes s2 l else [], stage := 0, a := { r1.a with ecc := .clean } }
          if (txOf s2 l).isSome then onTx s2 l fun t => { t with cur := some r2, waiters := [] }
          else if (txOf s2 (reqLine s2 r2)).isSome then addWaiters s2 (reqLine s2 r2) [r2]
          else match lockOf s2 (reqLine s2 r2) with
            | some _ => onSlice s2 (lineHearth (reqLine s2 r2)) fun x => { x with
                locks := updFirst (fun k => k.lines.contains (reqLine s2 r2)) (fun k => { k with waiters := k.waiters ++ [r2] }) x.locks }
            | none => serveOne 4095 s2 r2 []) := by
  subst hl
  obtain ⟨h1, h2, h3, h4, h5⟩ := h
  simp only [serveHome, h1, h2, h3, if_true]
  rw [show serveFuel = 4095 + 1 from rfl, serveOne]
  simp only [h4, h5]
  rcases applyReq s1 r1 [] (reqLine s r) (decide (r1.stage = 2)) with ⟨s2, _ | ans⟩ <;> rfl

/-- A request that the home answers at once is concluded. -/
theorem serveHome_answered {s r s1 r1 l s2 ans} (h : itsTurn s r s1 r1) (hl : l = reqLine s r) (ha : applyReq s1 r1 [] l (decide (r1.stage = 2)) = (s2, some ans)) :
    serveHome s r = conclude (markFresh s2 l) l r1 [] ans := by rw [serveHome_itsTurn h hl, ha]

/-- A request that is served at a line enters the home whose turn it is. -/
theorem servedAt_enter {s a f l s1 r} (h : servedAt s a f l s1 r) (hm : f.typ ∈ [tRead, tWrite, tWritePush, tAtomic, tTileRead, tTileWrite, tCoh]) (hc : f.typ = tCoh → cohRequest f = true) :
    (∃ s2 r2, itsTurn s2 r2 s1 r ∧ l = reqLine s2 r2 ∧ enter s a f = serveHome s2 r2) ∧ r.f.typ = f.typ ∧ (isTileReq f = false → r.f.opa = f.opa) ∧ (linkOf s a.link).up = true := by
  obtain ⟨s0, r0, hh, ht, hl, hk⟩ := h
  have hne : f.typ ≠ tContrib ∧ f.typ ≠ tDeliver ∧ f.typ ≠ tFence ∧ f.typ ≠ tInval := by
    simp only [List.mem_cons, List.not_mem_nil, or_false] at hm
    rcases hm with h | h | h | h | h | h | h <;> simp [h, tRead, tWrite, tWritePush, tAtomic, tTileRead, tTileWrite, tCoh, tContrib, tDeliver, tFence, tInval]
  obtain ⟨he, t, o, u⟩ := comesHome_enter hh hne.1 hne.2.1 hne.2.2.1 hne.2.2.2 hc
  have hrf : r.f = r0.f := (orderReq_frame ht.2.2.2.1).trans (beginAdmitted_frame _ _)
  refine ⟨⟨_, _, ht, hl, ?_⟩, hrf ▸ t, hrf ▸ o, u⟩
  have hf := beginAdmitted_frame s0 r0
  have hown : ownRules f.typ = false := by
    simp only [List.mem_cons, List.not_mem_nil, or_false] at hm
    rcases hm with h | h | h | h | h | h | h <;> simp [ownRules, h, tRead, tWrite, tWritePush, tAtomic, tTileRead, tTileWrite, tCoh, tLease, tSnap, tPublish]
  have hne2 : f.typ ≠ tScatter ∧ f.typ ≠ tPublish ∧ f.typ ≠ tLease ∧ f.typ ≠ tSnap := by
    simp only [List.mem_cons, List.not_mem_nil, or_false] at hm
    rcases hm with h | h | h | h | h | h | h <;> simp [h, tRead, tWrite, tWritePush, tAtomic, tTileRead, tTileWrite, tCoh, tScatter, tPublish, tLease, tSnap]
  rw [he]
  simp only [serveAdmitted, t, hown, Bool.false_eq_true, if_false, serveAny, hf, Bool.false_and, hne2.1, hne2.2.1, hne2.2.2.1, hne2.2.2.2]
  by_cases hx : f.typ = tCoh
  · have hq : cohRequest r0.f = true := by
      have hi : isTileReq f = false := by simp [isTileReq, hx, tCoh, tTileRead, tTileWrite]
      have := hc hx
      simp only [cohRequest, t, cohMsg, o hi] at this ⊢
      exact this
    obtain ⟨k, k1, k2, k3⟩ := hk (t.trans hx)
    rw [hf] at k1
    simp only [hx, if_true, hf, hq, cohServe, k1, k2, Bool.false_eq_true, if_false, k3, List.isEmpty_nil, Bool.not_true]
  · simp only [hx, if_false]

/-- The leg stays. -/
theorem classFix_leg (f : Frame) : (classFix f).leg = f.leg := by unfold classFix; split <;> rfl

/-- Assembly leaves the leg. -/
theorem assemble_leg {s s1 : State} {r r1 : Req} (h : assemble s r = (s1, some r1)) : r1.f.leg = r.f.leg := by
  unfold assemble at h
  simp only at h
  repeat' (split at h <;> try (cases h; done))
  all_goals (cases h; rfl)

end Sys2Proof.Machine
end

