-- ==== Sys2Proof/Laws/State.lean ====
section
/-! SUPPORT. What every field of the state reads after an update of one field: one lemma for each field and update, so that no later
proof unfolds a record update. -/

namespace Sys2Proof.Machine

/-! ## onClk -/

@[simp] theorem onClk_clk (s : State) (g : Clk → Clk) : (onClk s g).clk = g s.clk := rfl
@[simp] theorem onClk_pins (s : State) (g : Clk → Clk) : (onClk s g).pins = s.pins := rfl
@[simp] theorem onClk_boot (s : State) (g : Clk → Clk) : (onClk s g).boot = s.boot := rfl
@[simp] theorem onClk_cfg (s : State) (g : Clk → Clk) : (onClk s g).cfg = s.cfg := rfl
@[simp] theorem onClk_fuse (s : State) (g : Clk → Clk) : (onClk s g).fuse = s.fuse := rfl
@[simp] theorem onClk_auth (s : State) (g : Clk → Clk) : (onClk s g).auth = s.auth := rfl
@[simp] theorem onClk_ash (s : State) (g : Clk → Clk) : (onClk s g).ash = s.ash := rfl
@[simp] theorem onClk_hlth (s : State) (g : Clk → Clk) : (onClk s g).hlth = s.hlth := rfl
@[simp] theorem onClk_mtr (s : State) (g : Clk → Clk) : (onClk s g).mtr = s.mtr := rfl
@[simp] theorem onClk_pwr (s : State) (g : Clk → Clk) : (onClk s g).pwr = s.pwr := rfl
@[simp] theorem onClk_mem (s : State) (g : Clk → Clk) : (onClk s g).mem = s.mem := rfl
@[simp] theorem onClk_sites (s : State) (g : Clk → Clk) : (onClk s g).sites = s.sites := rfl
@[simp] theorem onClk_t0 (s : State) (g : Clk → Clk) : (onClk s g).t0 = s.t0 := rfl
@[simp] theorem onClk_home (s : State) (g : Clk → Clk) : (onClk s g).home = s.home := rfl
@[simp] theorem onClk_ctx (s : State) (g : Clk → Clk) : (onClk s g).ctx = s.ctx := rfl
@[simp] theorem onClk_sched (s : State) (g : Clk → Clk) : (onClk s g).sched = s.sched := rfl
@[simp] theorem onClk_stv (s : State) (g : Clk → Clk) : (onClk s g).stv = s.stv := rfl
@[simp] theorem onClk_net (s : State) (g : Clk → Clk) : (onClk s g).net = s.net := rfl
@[simp] theorem onClk_links (s : State) (g : Clk → Clk) : (onClk s g).links = s.links := rfl
@[simp] theorem onClk_chim (s : State) (g : Clk → Clk) : (onClk s g).chim = s.chim := rfl
@[simp] theorem onClk_trn (s : State) (g : Clk → Clk) : (onClk s g).trn = s.trn := rfl
@[simp] theorem onClk_ext (s : State) (g : Clk → Clk) : (onClk s g).ext = s.ext := rfl
@[simp] theorem onClk_cell (s : State) (g : Clk → Clk) : (onClk s g).cell = s.cell := rfl
@[simp] theorem onClk_draws (s : State) (g : Clk → Clk) : (onClk s g).draws = s.draws := rfl
@[simp] theorem onClk_pending (s : State) (g : Clk → Clk) : (onClk s g).pending = s.pending := rfl

/-! ## onPins -/

@[simp] theorem onPins_clk (s : State) (g : Pins → Pins) : (onPins s g).clk = s.clk := rfl
@[simp] theorem onPins_pins (s : State) (g : Pins → Pins) : (onPins s g).pins = g s.pins := rfl
@[simp] theorem onPins_boot (s : State) (g : Pins → Pins) : (onPins s g).boot = s.boot := rfl
@[simp] theorem onPins_cfg (s : State) (g : Pins → Pins) : (onPins s g).cfg = s.cfg := rfl
@[simp] theorem onPins_fuse (s : State) (g : Pins → Pins) : (onPins s g).fuse = s.fuse := rfl
@[simp] theorem onPins_auth (s : State) (g : Pins → Pins) : (onPins s g).auth = s.auth := rfl
@[simp] theorem onPins_ash (s : State) (g : Pins → Pins) : (onPins s g).ash = s.ash := rfl
@[simp] theorem onPins_hlth (s : State) (g : Pins → Pins) : (onPins s g).hlth = s.hlth := rfl
@[simp] theorem onPins_mtr (s : State) (g : Pins → Pins) : (onPins s g).mtr = s.mtr := rfl
@[simp] theorem onPins_pwr (s : State) (g : Pins → Pins) : (onPins s g).pwr = s.pwr := rfl
@[simp] theorem onPins_mem (s : State) (g : Pins → Pins) : (onPins s g).mem = s.mem := rfl
@[simp] theorem onPins_sites (s : State) (g : Pins → Pins) : (onPins s g).sites = s.sites := rfl
@[simp] theorem onPins_t0 (s : State) (g : Pins → Pins) : (onPins s g).t0 = s.t0 := rfl
@[simp] theorem onPins_home (s : State) (g : Pins → Pins) : (onPins s g).home = s.home := rfl
@[simp] theorem onPins_ctx (s : State) (g : Pins → Pins) : (onPins s g).ctx = s.ctx := rfl
@[simp] theorem onPins_sched (s : State) (g : Pins → Pins) : (onPins s g).sched = s.sched := rfl
@[simp] theorem onPins_stv (s : State) (g : Pins → Pins) : (onPins s g).stv = s.stv := rfl
@[simp] theorem onPins_net (s : State) (g : Pins → Pins) : (onPins s g).net = s.net := rfl
@[simp] theorem onPins_links (s : State) (g : Pins → Pins) : (onPins s g).links = s.links := rfl
@[simp] theorem onPins_chim (s : State) (g : Pins → Pins) : (onPins s g).chim = s.chim := rfl
@[simp] theorem onPins_trn (s : State) (g : Pins → Pins) : (onPins s g).trn = s.trn := rfl
@[simp] theorem onPins_ext (s : State) (g : Pins → Pins) : (onPins s g).ext = s.ext := rfl
@[simp] theorem onPins_cell (s : State) (g : Pins → Pins) : (onPins s g).cell = s.cell := rfl
@[simp] theorem onPins_draws (s : State) (g : Pins → Pins) : (onPins s g).draws = s.draws := rfl
@[simp] theorem onPins_pending (s : State) (g : Pins → Pins) : (onPins s g).pending = s.pending := rfl

/-! ## onBoot -/

@[simp] theorem onBoot_clk (s : State) (g : Boot → Boot) : (onBoot s g).clk = s.clk := rfl
@[simp] theorem onBoot_pins (s : State) (g : Boot → Boot) : (onBoot s g).pins = s.pins := rfl
@[simp] theorem onBoot_boot (s : State) (g : Boot → Boot) : (onBoot s g).boot = g s.boot := rfl
@[simp] theorem onBoot_cfg (s : State) (g : Boot → Boot) : (onBoot s g).cfg = s.cfg := rfl
@[simp] theorem onBoot_fuse (s : State) (g : Boot → Boot) : (onBoot s g).fuse = s.fuse := rfl
@[simp] theorem onBoot_auth (s : State) (g : Boot → Boot) : (onBoot s g).auth = s.auth := rfl
@[simp] theorem onBoot_ash (s : State) (g : Boot → Boot) : (onBoot s g).ash = s.ash := rfl
@[simp] theorem onBoot_hlth (s : State) (g : Boot → Boot) : (onBoot s g).hlth = s.hlth := rfl
@[simp] theorem onBoot_mtr (s : State) (g : Boot → Boot) : (onBoot s g).mtr = s.mtr := rfl
@[simp] theorem onBoot_pwr (s : State) (g : Boot → Boot) : (onBoot s g).pwr = s.pwr := rfl
@[simp] theorem onBoot_mem (s : State) (g : Boot → Boot) : (onBoot s g).mem = s.mem := rfl
@[simp] theorem onBoot_sites (s : State) (g : Boot → Boot) : (onBoot s g).sites = s.sites := rfl
@[simp] theorem onBoot_t0 (s : State) (g : Boot → Boot) : (onBoot s g).t0 = s.t0 := rfl
@[simp] theorem onBoot_home (s : State) (g : Boot → Boot) : (onBoot s g).home = s.home := rfl
@[simp] theorem onBoot_ctx (s : State) (g : Boot → Boot) : (onBoot s g).ctx = s.ctx := rfl
@[simp] theorem onBoot_sched (s : State) (g : Boot → Boot) : (onBoot s g).sched = s.sched := rfl
@[simp] theorem onBoot_stv (s : State) (g : Boot → Boot) : (onBoot s g).stv = s.stv := rfl
@[simp] theorem onBoot_net (s : State) (g : Boot → Boot) : (onBoot s g).net = s.net := rfl
@[simp] theorem onBoot_links (s : State) (g : Boot → Boot) : (onBoot s g).links = s.links := rfl
@[simp] theorem onBoot_chim (s : State) (g : Boot → Boot) : (onBoot s g).chim = s.chim := rfl
@[simp] theorem onBoot_trn (s : State) (g : Boot → Boot) : (onBoot s g).trn = s.trn := rfl
@[simp] theorem onBoot_ext (s : State) (g : Boot → Boot) : (onBoot s g).ext = s.ext := rfl
@[simp] theorem onBoot_cell (s : State) (g : Boot → Boot) : (onBoot s g).cell = s.cell := rfl
@[simp] theorem onBoot_draws (s : State) (g : Boot → Boot) : (onBoot s g).draws = s.draws := rfl
@[simp] theorem onBoot_pending (s : State) (g : Boot → Boot) : (onBoot s g).pending = s.pending := rfl

/-! ## onCfg -/

@[simp] theorem onCfg_clk (s : State) (g : Cfg → Cfg) : (onCfg s g).clk = s.clk := rfl
@[simp] theorem onCfg_pins (s : State) (g : Cfg → Cfg) : (onCfg s g).pins = s.pins := rfl
@[simp] theorem onCfg_boot (s : State) (g : Cfg → Cfg) : (onCfg s g).boot = s.boot := rfl
@[simp] theorem onCfg_cfg (s : State) (g : Cfg → Cfg) : (onCfg s g).cfg = g s.cfg := rfl
@[simp] theorem onCfg_fuse (s : State) (g : Cfg → Cfg) : (onCfg s g).fuse = s.fuse := rfl
@[simp] theorem onCfg_auth (s : State) (g : Cfg → Cfg) : (onCfg s g).auth = s.auth := rfl
@[simp] theorem onCfg_ash (s : State) (g : Cfg → Cfg) : (onCfg s g).ash = s.ash := rfl
@[simp] theorem onCfg_hlth (s : State) (g : Cfg → Cfg) : (onCfg s g).hlth = s.hlth := rfl
@[simp] theorem onCfg_mtr (s : State) (g : Cfg → Cfg) : (onCfg s g).mtr = s.mtr := rfl
@[simp] theorem onCfg_pwr (s : State) (g : Cfg → Cfg) : (onCfg s g).pwr = s.pwr := rfl
@[simp] theorem onCfg_mem (s : State) (g : Cfg → Cfg) : (onCfg s g).mem = s.mem := rfl
@[simp] theorem onCfg_sites (s : State) (g : Cfg → Cfg) : (onCfg s g).sites = s.sites := rfl
@[simp] theorem onCfg_t0 (s : State) (g : Cfg → Cfg) : (onCfg s g).t0 = s.t0 := rfl
@[simp] theorem onCfg_home (s : State) (g : Cfg → Cfg) : (onCfg s g).home = s.home := rfl
@[simp] theorem onCfg_ctx (s : State) (g : Cfg → Cfg) : (onCfg s g).ctx = s.ctx := rfl
@[simp] theorem onCfg_sched (s : State) (g : Cfg → Cfg) : (onCfg s g).sched = s.sched := rfl
@[simp] theorem onCfg_stv (s : State) (g : Cfg → Cfg) : (onCfg s g).stv = s.stv := rfl
@[simp] theorem onCfg_net (s : State) (g : Cfg → Cfg) : (onCfg s g).net = s.net := rfl
@[simp] theorem onCfg_links (s : State) (g : Cfg → Cfg) : (onCfg s g).links = s.links := rfl
@[simp] theorem onCfg_chim (s : State) (g : Cfg → Cfg) : (onCfg s g).chim = s.chim := rfl
@[simp] theorem onCfg_trn (s : State) (g : Cfg → Cfg) : (onCfg s g).trn = s.trn := rfl
@[simp] theorem onCfg_ext (s : State) (g : Cfg → Cfg) : (onCfg s g).ext = s.ext := rfl
@[simp] theorem onCfg_cell (s : State) (g : Cfg → Cfg) : (onCfg s g).cell = s.cell := rfl
@[simp] theorem onCfg_draws (s : State) (g : Cfg → Cfg) : (onCfg s g).draws = s.draws := rfl
@[simp] theorem onCfg_pending (s : State) (g : Cfg → Cfg) : (onCfg s g).pending = s.pending := rfl

/-! ## onFuse -/

@[simp] theorem onFuse_clk (s : State) (g : Fuse → Fuse) : (onFuse s g).clk = s.clk := rfl
@[simp] theorem onFuse_pins (s : State) (g : Fuse → Fuse) : (onFuse s g).pins = s.pins := rfl
@[simp] theorem onFuse_boot (s : State) (g : Fuse → Fuse) : (onFuse s g).boot = s.boot := rfl
@[simp] theorem onFuse_cfg (s : State) (g : Fuse → Fuse) : (onFuse s g).cfg = s.cfg := rfl
@[simp] theorem onFuse_fuse (s : State) (g : Fuse → Fuse) : (onFuse s g).fuse = g s.fuse := rfl
@[simp] theorem onFuse_auth (s : State) (g : Fuse → Fuse) : (onFuse s g).auth = s.auth := rfl
@[simp] theorem onFuse_ash (s : State) (g : Fuse → Fuse) : (onFuse s g).ash = s.ash := rfl
@[simp] theorem onFuse_hlth (s : State) (g : Fuse → Fuse) : (onFuse s g).hlth = s.hlth := rfl
@[simp] theorem onFuse_mtr (s : State) (g : Fuse → Fuse) : (onFuse s g).mtr = s.mtr := rfl
@[simp] theorem onFuse_pwr (s : State) (g : Fuse → Fuse) : (onFuse s g).pwr = s.pwr := rfl
@[simp] theorem onFuse_mem (s : State) (g : Fuse → Fuse) : (onFuse s g).mem = s.mem := rfl
@[simp] theorem onFuse_sites (s : State) (g : Fuse → Fuse) : (onFuse s g).sites = s.sites := rfl
@[simp] theorem onFuse_t0 (s : State) (g : Fuse → Fuse) : (onFuse s g).t0 = s.t0 := rfl
@[simp] theorem onFuse_home (s : State) (g : Fuse → Fuse) : (onFuse s g).home = s.home := rfl
@[simp] theorem onFuse_ctx (s : State) (g : Fuse → Fuse) : (onFuse s g).ctx = s.ctx := rfl
@[simp] theorem onFuse_sched (s : State) (g : Fuse → Fuse) : (onFuse s g).sched = s.sched := rfl
@[simp] theorem onFuse_stv (s : State) (g : Fuse → Fuse) : (onFuse s g).stv = s.stv := rfl
@[simp] theorem onFuse_net (s : State) (g : Fuse → Fuse) : (onFuse s g).net = s.net := rfl
@[simp] theorem onFuse_links (s : State) (g : Fuse → Fuse) : (onFuse s g).links = s.links := rfl
@[simp] theorem onFuse_chim (s : State) (g : Fuse → Fuse) : (onFuse s g).chim = s.chim := rfl
@[simp] theorem onFuse_trn (s : State) (g : Fuse → Fuse) : (onFuse s g).trn = s.trn := rfl
@[simp] theorem onFuse_ext (s : State) (g : Fuse → Fuse) : (onFuse s g).ext = s.ext := rfl
@[simp] theorem onFuse_cell (s : State) (g : Fuse → Fuse) : (onFuse s g).cell = s.cell := rfl
@[simp] theorem onFuse_draws (s : State) (g : Fuse → Fuse) : (onFuse s g).draws = s.draws := rfl
@[simp] theorem onFuse_pending (s : State) (g : Fuse → Fuse) : (onFuse s g).pending = s.pending := rfl

/-! ## onAuth -/

@[simp] theorem onAuth_clk (s : State) (g : Auth → Auth) : (onAuth s g).clk = s.clk := rfl
@[simp] theorem onAuth_pins (s : State) (g : Auth → Auth) : (onAuth s g).pins = s.pins := rfl
@[simp] theorem onAuth_boot (s : State) (g : Auth → Auth) : (onAuth s g).boot = s.boot := rfl
@[simp] theorem onAuth_cfg (s : State) (g : Auth → Auth) : (onAuth s g).cfg = s.cfg := rfl
@[simp] theorem onAuth_fuse (s : State) (g : Auth → Auth) : (onAuth s g).fuse = s.fuse := rfl
@[simp] theorem onAuth_auth (s : State) (g : Auth → Auth) : (onAuth s g).auth = g s.auth := rfl
@[simp] theorem onAuth_ash (s : State) (g : Auth → Auth) : (onAuth s g).ash = s.ash := rfl
@[simp] theorem onAuth_hlth (s : State) (g : Auth → Auth) : (onAuth s g).hlth = s.hlth := rfl
@[simp] theorem onAuth_mtr (s : State) (g : Auth → Auth) : (onAuth s g).mtr = s.mtr := rfl
@[simp] theorem onAuth_pwr (s : State) (g : Auth → Auth) : (onAuth s g).pwr = s.pwr := rfl
@[simp] theorem onAuth_mem (s : State) (g : Auth → Auth) : (onAuth s g).mem = s.mem := rfl
@[simp] theorem onAuth_sites (s : State) (g : Auth → Auth) : (onAuth s g).sites = s.sites := rfl
@[simp] theorem onAuth_t0 (s : State) (g : Auth → Auth) : (onAuth s g).t0 = s.t0 := rfl
@[simp] theorem onAuth_home (s : State) (g : Auth → Auth) : (onAuth s g).home = s.home := rfl
@[simp] theorem onAuth_ctx (s : State) (g : Auth → Auth) : (onAuth s g).ctx = s.ctx := rfl
@[simp] theorem onAuth_sched (s : State) (g : Auth → Auth) : (onAuth s g).sched = s.sched := rfl
@[simp] theorem onAuth_stv (s : State) (g : Auth → Auth) : (onAuth s g).stv = s.stv := rfl
@[simp] theorem onAuth_net (s : State) (g : Auth → Auth) : (onAuth s g).net = s.net := rfl
@[simp] theorem onAuth_links (s : State) (g : Auth → Auth) : (onAuth s g).links = s.links := rfl
@[simp] theorem onAuth_chim (s : State) (g : Auth → Auth) : (onAuth s g).chim = s.chim := rfl
@[simp] theorem onAuth_trn (s : State) (g : Auth → Auth) : (onAuth s g).trn = s.trn := rfl
@[simp] theorem onAuth_ext (s : State) (g : Auth → Auth) : (onAuth s g).ext = s.ext := rfl
@[simp] theorem onAuth_cell (s : State) (g : Auth → Auth) : (onAuth s g).cell = s.cell := rfl
@[simp] theorem onAuth_draws (s : State) (g : Auth → Auth) : (onAuth s g).draws = s.draws := rfl
@[simp] theorem onAuth_pending (s : State) (g : Auth → Auth) : (onAuth s g).pending = s.pending := rfl

/-! ## onAsh -/

@[simp] theorem onAsh_clk (s : State) (g : Ash → Ash) : (onAsh s g).clk = s.clk := rfl
@[simp] theorem onAsh_pins (s : State) (g : Ash → Ash) : (onAsh s g).pins = s.pins := rfl
@[simp] theorem onAsh_boot (s : State) (g : Ash → Ash) : (onAsh s g).boot = s.boot := rfl
@[simp] theorem onAsh_cfg (s : State) (g : Ash → Ash) : (onAsh s g).cfg = s.cfg := rfl
@[simp] theorem onAsh_fuse (s : State) (g : Ash → Ash) : (onAsh s g).fuse = s.fuse := rfl
@[simp] theorem onAsh_auth (s : State) (g : Ash → Ash) : (onAsh s g).auth = s.auth := rfl
@[simp] theorem onAsh_ash (s : State) (g : Ash → Ash) : (onAsh s g).ash = g s.ash := rfl
@[simp] theorem onAsh_hlth (s : State) (g : Ash → Ash) : (onAsh s g).hlth = s.hlth := rfl
@[simp] theorem onAsh_mtr (s : State) (g : Ash → Ash) : (onAsh s g).mtr = s.mtr := rfl
@[simp] theorem onAsh_pwr (s : State) (g : Ash → Ash) : (onAsh s g).pwr = s.pwr := rfl
@[simp] theorem onAsh_mem (s : State) (g : Ash → Ash) : (onAsh s g).mem = s.mem := rfl
@[simp] theorem onAsh_sites (s : State) (g : Ash → Ash) : (onAsh s g).sites = s.sites := rfl
@[simp] theorem onAsh_t0 (s : State) (g : Ash → Ash) : (onAsh s g).t0 = s.t0 := rfl
@[simp] theorem onAsh_home (s : State) (g : Ash → Ash) : (onAsh s g).home = s.home := rfl
@[simp] theorem onAsh_ctx (s : State) (g : Ash → Ash) : (onAsh s g).ctx = s.ctx := rfl
@[simp] theorem onAsh_sched (s : State) (g : Ash → Ash) : (onAsh s g).sched = s.sched := rfl
@[simp] theorem onAsh_stv (s : State) (g : Ash → Ash) : (onAsh s g).stv = s.stv := rfl
@[simp] theorem onAsh_net (s : State) (g : Ash → Ash) : (onAsh s g).net = s.net := rfl
@[simp] theorem onAsh_links (s : State) (g : Ash → Ash) : (onAsh s g).links = s.links := rfl
@[simp] theorem onAsh_chim (s : State) (g : Ash → Ash) : (onAsh s g).chim = s.chim := rfl
@[simp] theorem onAsh_trn (s : State) (g : Ash → Ash) : (onAsh s g).trn = s.trn := rfl
@[simp] theorem onAsh_ext (s : State) (g : Ash → Ash) : (onAsh s g).ext = s.ext := rfl
@[simp] theorem onAsh_cell (s : State) (g : Ash → Ash) : (onAsh s g).cell = s.cell := rfl
@[simp] theorem onAsh_draws (s : State) (g : Ash → Ash) : (onAsh s g).draws = s.draws := rfl
@[simp] theorem onAsh_pending (s : State) (g : Ash → Ash) : (onAsh s g).pending = s.pending := rfl

/-! ## onHlth -/

@[simp] theorem onHlth_clk (s : State) (g : Hlth → Hlth) : (onHlth s g).clk = s.clk := rfl
@[simp] theorem onHlth_pins (s : State) (g : Hlth → Hlth) : (onHlth s g).pins = s.pins := rfl
@[simp] theorem onHlth_boot (s : State) (g : Hlth → Hlth) : (onHlth s g).boot = s.boot := rfl
@[simp] theorem onHlth_cfg (s : State) (g : Hlth → Hlth) : (onHlth s g).cfg = s.cfg := rfl
@[simp] theorem onHlth_fuse (s : State) (g : Hlth → Hlth) : (onHlth s g).fuse = s.fuse := rfl
@[simp] theorem onHlth_auth (s : State) (g : Hlth → Hlth) : (onHlth s g).auth = s.auth := rfl
@[simp] theorem onHlth_ash (s : State) (g : Hlth → Hlth) : (onHlth s g).ash = s.ash := rfl
@[simp] theorem onHlth_hlth (s : State) (g : Hlth → Hlth) : (onHlth s g).hlth = g s.hlth := rfl
@[simp] theorem onHlth_mtr (s : State) (g : Hlth → Hlth) : (onHlth s g).mtr = s.mtr := rfl
@[simp] theorem onHlth_pwr (s : State) (g : Hlth → Hlth) : (onHlth s g).pwr = s.pwr := rfl
@[simp] theorem onHlth_mem (s : State) (g : Hlth → Hlth) : (onHlth s g).mem = s.mem := rfl
@[simp] theorem onHlth_sites (s : State) (g : Hlth → Hlth) : (onHlth s g).sites = s.sites := rfl
@[simp] theorem onHlth_t0 (s : State) (g : Hlth → Hlth) : (onHlth s g).t0 = s.t0 := rfl
@[simp] theorem onHlth_home (s : State) (g : Hlth → Hlth) : (onHlth s g).home = s.home := rfl
@[simp] theorem onHlth_ctx (s : State) (g : Hlth → Hlth) : (onHlth s g).ctx = s.ctx := rfl
@[simp] theorem onHlth_sched (s : State) (g : Hlth → Hlth) : (onHlth s g).sched = s.sched := rfl
@[simp] theorem onHlth_stv (s : State) (g : Hlth → Hlth) : (onHlth s g).stv = s.stv := rfl
@[simp] theorem onHlth_net (s : State) (g : Hlth → Hlth) : (onHlth s g).net = s.net := rfl
@[simp] theorem onHlth_links (s : State) (g : Hlth → Hlth) : (onHlth s g).links = s.links := rfl
@[simp] theorem onHlth_chim (s : State) (g : Hlth → Hlth) : (onHlth s g).chim = s.chim := rfl
@[simp] theorem onHlth_trn (s : State) (g : Hlth → Hlth) : (onHlth s g).trn = s.trn := rfl
@[simp] theorem onHlth_ext (s : State) (g : Hlth → Hlth) : (onHlth s g).ext = s.ext := rfl
@[simp] theorem onHlth_cell (s : State) (g : Hlth → Hlth) : (onHlth s g).cell = s.cell := rfl
@[simp] theorem onHlth_draws (s : State) (g : Hlth → Hlth) : (onHlth s g).draws = s.draws := rfl
@[simp] theorem onHlth_pending (s : State) (g : Hlth → Hlth) : (onHlth s g).pending = s.pending := rfl

/-! ## onMtr -/

@[simp] theorem onMtr_clk (s : State) (g : Mtr → Mtr) : (onMtr s g).clk = s.clk := rfl
@[simp] theorem onMtr_pins (s : State) (g : Mtr → Mtr) : (onMtr s g).pins = s.pins := rfl
@[simp] theorem onMtr_boot (s : State) (g : Mtr → Mtr) : (onMtr s g).boot = s.boot := rfl
@[simp] theorem onMtr_cfg (s : State) (g : Mtr → Mtr) : (onMtr s g).cfg = s.cfg := rfl
@[simp] theorem onMtr_fuse (s : State) (g : Mtr → Mtr) : (onMtr s g).fuse = s.fuse := rfl
@[simp] theorem onMtr_auth (s : State) (g : Mtr → Mtr) : (onMtr s g).auth = s.auth := rfl
@[simp] theorem onMtr_ash (s : State) (g : Mtr → Mtr) : (onMtr s g).ash = s.ash := rfl
@[simp] theorem onMtr_hlth (s : State) (g : Mtr → Mtr) : (onMtr s g).hlth = s.hlth := rfl
@[simp] theorem onMtr_mtr (s : State) (g : Mtr → Mtr) : (onMtr s g).mtr = g s.mtr := rfl
@[simp] theorem onMtr_pwr (s : State) (g : Mtr → Mtr) : (onMtr s g).pwr = s.pwr := rfl
@[simp] theorem onMtr_mem (s : State) (g : Mtr → Mtr) : (onMtr s g).mem = s.mem := rfl
@[simp] theorem onMtr_sites (s : State) (g : Mtr → Mtr) : (onMtr s g).sites = s.sites := rfl
@[simp] theorem onMtr_t0 (s : State) (g : Mtr → Mtr) : (onMtr s g).t0 = s.t0 := rfl
@[simp] theorem onMtr_home (s : State) (g : Mtr → Mtr) : (onMtr s g).home = s.home := rfl
@[simp] theorem onMtr_ctx (s : State) (g : Mtr → Mtr) : (onMtr s g).ctx = s.ctx := rfl
@[simp] theorem onMtr_sched (s : State) (g : Mtr → Mtr) : (onMtr s g).sched = s.sched := rfl
@[simp] theorem onMtr_stv (s : State) (g : Mtr → Mtr) : (onMtr s g).stv = s.stv := rfl
@[simp] theorem onMtr_net (s : State) (g : Mtr → Mtr) : (onMtr s g).net = s.net := rfl
@[simp] theorem onMtr_links (s : State) (g : Mtr → Mtr) : (onMtr s g).links = s.links := rfl
@[simp] theorem onMtr_chim (s : State) (g : Mtr → Mtr) : (onMtr s g).chim = s.chim := rfl
@[simp] theorem onMtr_trn (s : State) (g : Mtr → Mtr) : (onMtr s g).trn = s.trn := rfl
@[simp] theorem onMtr_ext (s : State) (g : Mtr → Mtr) : (onMtr s g).ext = s.ext := rfl
@[simp] theorem onMtr_cell (s : State) (g : Mtr → Mtr) : (onMtr s g).cell = s.cell := rfl
@[simp] theorem onMtr_draws (s : State) (g : Mtr → Mtr) : (onMtr s g).draws = s.draws := rfl
@[simp] theorem onMtr_pending (s : State) (g : Mtr → Mtr) : (onMtr s g).pending = s.pending := rfl

/-! ## onPwr -/

@[simp] theorem onPwr_clk (s : State) (g : Pwr → Pwr) : (onPwr s g).clk = s.clk := rfl
@[simp] theorem onPwr_pins (s : State) (g : Pwr → Pwr) : (onPwr s g).pins = s.pins := rfl
@[simp] theorem onPwr_boot (s : State) (g : Pwr → Pwr) : (onPwr s g).boot = s.boot := rfl
@[simp] theorem onPwr_cfg (s : State) (g : Pwr → Pwr) : (onPwr s g).cfg = s.cfg := rfl
@[simp] theorem onPwr_fuse (s : State) (g : Pwr → Pwr) : (onPwr s g).fuse = s.fuse := rfl
@[simp] theorem onPwr_auth (s : State) (g : Pwr → Pwr) : (onPwr s g).auth = s.auth := rfl
@[simp] theorem onPwr_ash (s : State) (g : Pwr → Pwr) : (onPwr s g).ash = s.ash := rfl
@[simp] theorem onPwr_hlth (s : State) (g : Pwr → Pwr) : (onPwr s g).hlth = s.hlth := rfl
@[simp] theorem onPwr_mtr (s : State) (g : Pwr → Pwr) : (onPwr s g).mtr = s.mtr := rfl
@[simp] theorem onPwr_pwr (s : State) (g : Pwr → Pwr) : (onPwr s g).pwr = g s.pwr := rfl
@[simp] theorem onPwr_mem (s : State) (g : Pwr → Pwr) : (onPwr s g).mem = s.mem := rfl
@[simp] theorem onPwr_sites (s : State) (g : Pwr → Pwr) : (onPwr s g).sites = s.sites := rfl
@[simp] theorem onPwr_t0 (s : State) (g : Pwr → Pwr) : (onPwr s g).t0 = s.t0 := rfl
@[simp] theorem onPwr_home (s : State) (g : Pwr → Pwr) : (onPwr s g).home = s.home := rfl
@[simp] theorem onPwr_ctx (s : State) (g : Pwr → Pwr) : (onPwr s g).ctx = s.ctx := rfl
@[simp] theorem onPwr_sched (s : State) (g : Pwr → Pwr) : (onPwr s g).sched = s.sched := rfl
@[simp] theorem onPwr_stv (s : State) (g : Pwr → Pwr) : (onPwr s g).stv = s.stv := rfl
@[simp] theorem onPwr_net (s : State) (g : Pwr → Pwr) : (onPwr s g).net = s.net := rfl
@[simp] theorem onPwr_links (s : State) (g : Pwr → Pwr) : (onPwr s g).links = s.links := rfl
@[simp] theorem onPwr_chim (s : State) (g : Pwr → Pwr) : (onPwr s g).chim = s.chim := rfl
@[simp] theorem onPwr_trn (s : State) (g : Pwr → Pwr) : (onPwr s g).trn = s.trn := rfl
@[simp] theorem onPwr_ext (s : State) (g : Pwr → Pwr) : (onPwr s g).ext = s.ext := rfl
@[simp] theorem onPwr_cell (s : State) (g : Pwr → Pwr) : (onPwr s g).cell = s.cell := rfl
@[simp] theorem onPwr_draws (s : State) (g : Pwr → Pwr) : (onPwr s g).draws = s.draws := rfl
@[simp] theorem onPwr_pending (s : State) (g : Pwr → Pwr) : (onPwr s g).pending = s.pending := rfl

/-! ## onMem -/

@[simp] theorem onMem_clk (s : State) (g : Mem → Mem) : (onMem s g).clk = s.clk := rfl
@[simp] theorem onMem_pins (s : State) (g : Mem → Mem) : (onMem s g).pins = s.pins := rfl
@[simp] theorem onMem_boot (s : State) (g : Mem → Mem) : (onMem s g).boot = s.boot := rfl
@[simp] theorem onMem_cfg (s : State) (g : Mem → Mem) : (onMem s g).cfg = s.cfg := rfl
@[simp] theorem onMem_fuse (s : State) (g : Mem → Mem) : (onMem s g).fuse = s.fuse := rfl
@[simp] theorem onMem_auth (s : State) (g : Mem → Mem) : (onMem s g).auth = s.auth := rfl
@[simp] theorem onMem_ash (s : State) (g : Mem → Mem) : (onMem s g).ash = s.ash := rfl
@[simp] theorem onMem_hlth (s : State) (g : Mem → Mem) : (onMem s g).hlth = s.hlth := rfl
@[simp] theorem onMem_mtr (s : State) (g : Mem → Mem) : (onMem s g).mtr = s.mtr := rfl
@[simp] theorem onMem_pwr (s : State) (g : Mem → Mem) : (onMem s g).pwr = s.pwr := rfl
@[simp] theorem onMem_mem (s : State) (g : Mem → Mem) : (onMem s g).mem = g s.mem := rfl
@[simp] theorem onMem_sites (s : State) (g : Mem → Mem) : (onMem s g).sites = s.sites := rfl
@[simp] theorem onMem_t0 (s : State) (g : Mem → Mem) : (onMem s g).t0 = s.t0 := rfl
@[simp] theorem onMem_home (s : State) (g : Mem → Mem) : (onMem s g).home = s.home := rfl
@[simp] theorem onMem_ctx (s : State) (g : Mem → Mem) : (onMem s g).ctx = s.ctx := rfl
@[simp] theorem onMem_sched (s : State) (g : Mem → Mem) : (onMem s g).sched = s.sched := rfl
@[simp] theorem onMem_stv (s : State) (g : Mem → Mem) : (onMem s g).stv = s.stv := rfl
@[simp] theorem onMem_net (s : State) (g : Mem → Mem) : (onMem s g).net = s.net := rfl
@[simp] theorem onMem_links (s : State) (g : Mem → Mem) : (onMem s g).links = s.links := rfl
@[simp] theorem onMem_chim (s : State) (g : Mem → Mem) : (onMem s g).chim = s.chim := rfl
@[simp] theorem onMem_trn (s : State) (g : Mem → Mem) : (onMem s g).trn = s.trn := rfl
@[simp] theorem onMem_ext (s : State) (g : Mem → Mem) : (onMem s g).ext = s.ext := rfl
@[simp] theorem onMem_cell (s : State) (g : Mem → Mem) : (onMem s g).cell = s.cell := rfl
@[simp] theorem onMem_draws (s : State) (g : Mem → Mem) : (onMem s g).draws = s.draws := rfl
@[simp] theorem onMem_pending (s : State) (g : Mem → Mem) : (onMem s g).pending = s.pending := rfl

/-! ## onSites -/

@[simp] theorem onSites_clk (s : State) (g : Sites → Sites) : (onSites s g).clk = s.clk := rfl
@[simp] theorem onSites_pins (s : State) (g : Sites → Sites) : (onSites s g).pins = s.pins := rfl
@[simp] theorem onSites_boot (s : State) (g : Sites → Sites) : (onSites s g).boot = s.boot := rfl
@[simp] theorem onSites_cfg (s : State) (g : Sites → Sites) : (onSites s g).cfg = s.cfg := rfl
@[simp] theorem onSites_fuse (s : State) (g : Sites → Sites) : (onSites s g).fuse = s.fuse := rfl
@[simp] theorem onSites_auth (s : State) (g : Sites → Sites) : (onSites s g).auth = s.auth := rfl
@[simp] theorem onSites_ash (s : State) (g : Sites → Sites) : (onSites s g).ash = s.ash := rfl
@[simp] theorem onSites_hlth (s : State) (g : Sites → Sites) : (onSites s g).hlth = s.hlth := rfl
@[simp] theorem onSites_mtr (s : State) (g : Sites → Sites) : (onSites s g).mtr = s.mtr := rfl
@[simp] theorem onSites_pwr (s : State) (g : Sites → Sites) : (onSites s g).pwr = s.pwr := rfl
@[simp] theorem onSites_mem (s : State) (g : Sites → Sites) : (onSites s g).mem = s.mem := rfl
@[simp] theorem onSites_sites (s : State) (g : Sites → Sites) : (onSites s g).sites = g s.sites := rfl
@[simp] theorem onSites_t0 (s : State) (g : Sites → Sites) : (onSites s g).t0 = s.t0 := rfl
@[simp] theorem onSites_home (s : State) (g : Sites → Sites) : (onSites s g).home = s.home := rfl
@[simp] theorem onSites_ctx (s : State) (g : Sites → Sites) : (onSites s g).ctx = s.ctx := rfl
@[simp] theorem onSites_sched (s : State) (g : Sites → Sites) : (onSites s g).sched = s.sched := rfl
@[simp] theorem onSites_stv (s : State) (g : Sites → Sites) : (onSites s g).stv = s.stv := rfl
@[simp] theorem onSites_net (s : State) (g : Sites → Sites) : (onSites s g).net = s.net := rfl
@[simp] theorem onSites_links (s : State) (g : Sites → Sites) : (onSites s g).links = s.links := rfl
@[simp] theorem onSites_chim (s : State) (g : Sites → Sites) : (onSites s g).chim = s.chim := rfl
@[simp] theorem onSites_trn (s : State) (g : Sites → Sites) : (onSites s g).trn = s.trn := rfl
@[simp] theorem onSites_ext (s : State) (g : Sites → Sites) : (onSites s g).ext = s.ext := rfl
@[simp] theorem onSites_cell (s : State) (g : Sites → Sites) : (onSites s g).cell = s.cell := rfl
@[simp] theorem onSites_draws (s : State) (g : Sites → Sites) : (onSites s g).draws = s.draws := rfl
@[simp] theorem onSites_pending (s : State) (g : Sites → Sites) : (onSites s g).pending = s.pending := rfl

/-! ## onT0 -/

@[simp] theorem onT0_clk (s : State) (g : T0 → T0) : (onT0 s g).clk = s.clk := rfl
@[simp] theorem onT0_pins (s : State) (g : T0 → T0) : (onT0 s g).pins = s.pins := rfl
@[simp] theorem onT0_boot (s : State) (g : T0 → T0) : (onT0 s g).boot = s.boot := rfl
@[simp] theorem onT0_cfg (s : State) (g : T0 → T0) : (onT0 s g).cfg = s.cfg := rfl
@[simp] theorem onT0_fuse (s : State) (g : T0 → T0) : (onT0 s g).fuse = s.fuse := rfl
@[simp] theorem onT0_auth (s : State) (g : T0 → T0) : (onT0 s g).auth = s.auth := rfl
@[simp] theorem onT0_ash (s : State) (g : T0 → T0) : (onT0 s g).ash = s.ash := rfl
@[simp] theorem onT0_hlth (s : State) (g : T0 → T0) : (onT0 s g).hlth = s.hlth := rfl
@[simp] theorem onT0_mtr (s : State) (g : T0 → T0) : (onT0 s g).mtr = s.mtr := rfl
@[simp] theorem onT0_pwr (s : State) (g : T0 → T0) : (onT0 s g).pwr = s.pwr := rfl
@[simp] theorem onT0_mem (s : State) (g : T0 → T0) : (onT0 s g).mem = s.mem := rfl
@[simp] theorem onT0_sites (s : State) (g : T0 → T0) : (onT0 s g).sites = s.sites := rfl
@[simp] theorem onT0_t0 (s : State) (g : T0 → T0) : (onT0 s g).t0 = g s.t0 := rfl
@[simp] theorem onT0_home (s : State) (g : T0 → T0) : (onT0 s g).home = s.home := rfl
@[simp] theorem onT0_ctx (s : State) (g : T0 → T0) : (onT0 s g).ctx = s.ctx := rfl
@[simp] theorem onT0_sched (s : State) (g : T0 → T0) : (onT0 s g).sched = s.sched := rfl
@[simp] theorem onT0_stv (s : State) (g : T0 → T0) : (onT0 s g).stv = s.stv := rfl
@[simp] theorem onT0_net (s : State) (g : T0 → T0) : (onT0 s g).net = s.net := rfl
@[simp] theorem onT0_links (s : State) (g : T0 → T0) : (onT0 s g).links = s.links := rfl
@[simp] theorem onT0_chim (s : State) (g : T0 → T0) : (onT0 s g).chim = s.chim := rfl
@[simp] theorem onT0_trn (s : State) (g : T0 → T0) : (onT0 s g).trn = s.trn := rfl
@[simp] theorem onT0_ext (s : State) (g : T0 → T0) : (onT0 s g).ext = s.ext := rfl
@[simp] theorem onT0_cell (s : State) (g : T0 → T0) : (onT0 s g).cell = s.cell := rfl
@[simp] theorem onT0_draws (s : State) (g : T0 → T0) : (onT0 s g).draws = s.draws := rfl
@[simp] theorem onT0_pending (s : State) (g : T0 → T0) : (onT0 s g).pending = s.pending := rfl

/-! ## onHome -/

@[simp] theorem onHome_clk (s : State) (g : Homes → Homes) : (onHome s g).clk = s.clk := rfl
@[simp] theorem onHome_pins (s : State) (g : Homes → Homes) : (onHome s g).pins = s.pins := rfl
@[simp] theorem onHome_boot (s : State) (g : Homes → Homes) : (onHome s g).boot = s.boot := rfl
@[simp] theorem onHome_cfg (s : State) (g : Homes → Homes) : (onHome s g).cfg = s.cfg := rfl
@[simp] theorem onHome_fuse (s : State) (g : Homes → Homes) : (onHome s g).fuse = s.fuse := rfl
@[simp] theorem onHome_auth (s : State) (g : Homes → Homes) : (onHome s g).auth = s.auth := rfl
@[simp] theorem onHome_ash (s : State) (g : Homes → Homes) : (onHome s g).ash = s.ash := rfl
@[simp] theorem onHome_hlth (s : State) (g : Homes → Homes) : (onHome s g).hlth = s.hlth := rfl
@[simp] theorem onHome_mtr (s : State) (g : Homes → Homes) : (onHome s g).mtr = s.mtr := rfl
@[simp] theorem onHome_pwr (s : State) (g : Homes → Homes) : (onHome s g).pwr = s.pwr := rfl
@[simp] theorem onHome_mem (s : State) (g : Homes → Homes) : (onHome s g).mem = s.mem := rfl
@[simp] theorem onHome_sites (s : State) (g : Homes → Homes) : (onHome s g).sites = s.sites := rfl
@[simp] theorem onHome_t0 (s : State) (g : Homes → Homes) : (onHome s g).t0 = s.t0 := rfl
@[simp] theorem onHome_home (s : State) (g : Homes → Homes) : (onHome s g).home = g s.home := rfl
@[simp] theorem onHome_ctx (s : State) (g : Homes → Homes) : (onHome s g).ctx = s.ctx := rfl
@[simp] theorem onHome_sched (s : State) (g : Homes → Homes) : (onHome s g).sched = s.sched := rfl
@[simp] theorem onHome_stv (s : State) (g : Homes → Homes) : (onHome s g).stv = s.stv := rfl
@[simp] theorem onHome_net (s : State) (g : Homes → Homes) : (onHome s g).net = s.net := rfl
@[simp] theorem onHome_links (s : State) (g : Homes → Homes) : (onHome s g).links = s.links := rfl
@[simp] theorem onHome_chim (s : State) (g : Homes → Homes) : (onHome s g).chim = s.chim := rfl
@[simp] theorem onHome_trn (s : State) (g : Homes → Homes) : (onHome s g).trn = s.trn := rfl
@[simp] theorem onHome_ext (s : State) (g : Homes → Homes) : (onHome s g).ext = s.ext := rfl
@[simp] theorem onHome_cell (s : State) (g : Homes → Homes) : (onHome s g).cell = s.cell := rfl
@[simp] theorem onHome_draws (s : State) (g : Homes → Homes) : (onHome s g).draws = s.draws := rfl
@[simp] theorem onHome_pending (s : State) (g : Homes → Homes) : (onHome s g).pending = s.pending := rfl

/-! ## onCtx -/

@[simp] theorem onCtx_clk (s : State) (g : Tab Ctx → Tab Ctx) : (onCtx s g).clk = s.clk := rfl
@[simp] theorem onCtx_pins (s : State) (g : Tab Ctx → Tab Ctx) : (onCtx s g).pins = s.pins := rfl
@[simp] theorem onCtx_boot (s : State) (g : Tab Ctx → Tab Ctx) : (onCtx s g).boot = s.boot := rfl
@[simp] theorem onCtx_cfg (s : State) (g : Tab Ctx → Tab Ctx) : (onCtx s g).cfg = s.cfg := rfl
@[simp] theorem onCtx_fuse (s : State) (g : Tab Ctx → Tab Ctx) : (onCtx s g).fuse = s.fuse := rfl
@[simp] theorem onCtx_auth (s : State) (g : Tab Ctx → Tab Ctx) : (onCtx s g).auth = s.auth := rfl
@[simp] theorem onCtx_ash (s : State) (g : Tab Ctx → Tab Ctx) : (onCtx s g).ash = s.ash := rfl
@[simp] theorem onCtx_hlth (s : State) (g : Tab Ctx → Tab Ctx) : (onCtx s g).hlth = s.hlth := rfl
@[simp] theorem onCtx_mtr (s : State) (g : Tab Ctx → Tab Ctx) : (onCtx s g).mtr = s.mtr := rfl
@[simp] theorem onCtx_pwr (s : State) (g : Tab Ctx → Tab Ctx) : (onCtx s g).pwr = s.pwr := rfl
@[simp] theorem onCtx_mem (s : State) (g : Tab Ctx → Tab Ctx) : (onCtx s g).mem = s.mem := rfl
@[simp] theorem onCtx_sites (s : State) (g : Tab Ctx → Tab Ctx) : (onCtx s g).sites = s.sites := rfl
@[simp] theorem onCtx_t0 (s : State) (g : Tab Ctx → Tab Ctx) : (onCtx s g).t0 = s.t0 := rfl
@[simp] theorem onCtx_home (s : State) (g : Tab Ctx → Tab Ctx) : (onCtx s g).home = s.home := rfl
@[simp] theorem onCtx_ctx (s : State) (g : Tab Ctx → Tab Ctx) : (onCtx s g).ctx = g s.ctx := rfl
@[simp] theorem onCtx_sched (s : State) (g : Tab Ctx → Tab Ctx) : (onCtx s g).sched = s.sched := rfl
@[simp] theorem onCtx_stv (s : State) (g : Tab Ctx → Tab Ctx) : (onCtx s g).stv = s.stv := rfl
@[simp] theorem onCtx_net (s : State) (g : Tab Ctx → Tab Ctx) : (onCtx s g).net = s.net := rfl
@[simp] theorem onCtx_links (s : State) (g : Tab Ctx → Tab Ctx) : (onCtx s g).links = s.links := rfl
@[simp] theorem onCtx_chim (s : State) (g : Tab Ctx → Tab Ctx) : (onCtx s g).chim = s.chim := rfl
@[simp] theorem onCtx_trn (s : State) (g : Tab Ctx → Tab Ctx) : (onCtx s g).trn = s.trn := rfl
@[simp] theorem onCtx_ext (s : State) (g : Tab Ctx → Tab Ctx) : (onCtx s g).ext = s.ext := rfl
@[simp] theorem onCtx_cell (s : State) (g : Tab Ctx → Tab Ctx) : (onCtx s g).cell = s.cell := rfl
@[simp] theorem onCtx_draws (s : State) (g : Tab Ctx → Tab Ctx) : (onCtx s g).draws = s.draws := rfl
@[simp] theorem onCtx_pending (s : State) (g : Tab Ctx → Tab Ctx) : (onCtx s g).pending = s.pending := rfl

/-! ## onSched -/

@[simp] theorem onSched_clk (s : State) (g : Tab Sched → Tab Sched) : (onSched s g).clk = s.clk := rfl
@[simp] theorem onSched_pins (s : State) (g : Tab Sched → Tab Sched) : (onSched s g).pins = s.pins := rfl
@[simp] theorem onSched_boot (s : State) (g : Tab Sched → Tab Sched) : (onSched s g).boot = s.boot := rfl
@[simp] theorem onSched_cfg (s : State) (g : Tab Sched → Tab Sched) : (onSched s g).cfg = s.cfg := rfl
@[simp] theorem onSched_fuse (s : State) (g : Tab Sched → Tab Sched) : (onSched s g).fuse = s.fuse := rfl
@[simp] theorem onSched_auth (s : State) (g : Tab Sched → Tab Sched) : (onSched s g).auth = s.auth := rfl
@[simp] theorem onSched_ash (s : State) (g : Tab Sched → Tab Sched) : (onSched s g).ash = s.ash := rfl
@[simp] theorem onSched_hlth (s : State) (g : Tab Sched → Tab Sched) : (onSched s g).hlth = s.hlth := rfl
@[simp] theorem onSched_mtr (s : State) (g : Tab Sched → Tab Sched) : (onSched s g).mtr = s.mtr := rfl
@[simp] theorem onSched_pwr (s : State) (g : Tab Sched → Tab Sched) : (onSched s g).pwr = s.pwr := rfl
@[simp] theorem onSched_mem (s : State) (g : Tab Sched → Tab Sched) : (onSched s g).mem = s.mem := rfl
@[simp] theorem onSched_sites (s : State) (g : Tab Sched → Tab Sched) : (onSched s g).sites = s.sites := rfl
@[simp] theorem onSched_t0 (s : State) (g : Tab Sched → Tab Sched) : (onSched s g).t0 = s.t0 := rfl
@[simp] theorem onSched_home (s : State) (g : Tab Sched → Tab Sched) : (onSched s g).home = s.home := rfl
@[simp] theorem onSched_ctx (s : State) (g : Tab Sched → Tab Sched) : (onSched s g).ctx = s.ctx := rfl
@[simp] theorem onSched_sched (s : State) (g : Tab Sched → Tab Sched) : (onSched s g).sched = g s.sched := rfl
@[simp] theorem onSched_stv (s : State) (g : Tab Sched → Tab Sched) : (onSched s g).stv = s.stv := rfl
@[simp] theorem onSched_net (s : State) (g : Tab Sched → Tab Sched) : (onSched s g).net = s.net := rfl
@[simp] theorem onSched_links (s : State) (g : Tab Sched → Tab Sched) : (onSched s g).links = s.links := rfl
@[simp] theorem onSched_chim (s : State) (g : Tab Sched → Tab Sched) : (onSched s g).chim = s.chim := rfl
@[simp] theorem onSched_trn (s : State) (g : Tab Sched → Tab Sched) : (onSched s g).trn = s.trn := rfl
@[simp] theorem onSched_ext (s : State) (g : Tab Sched → Tab Sched) : (onSched s g).ext = s.ext := rfl
@[simp] theorem onSched_cell (s : State) (g : Tab Sched → Tab Sched) : (onSched s g).cell = s.cell := rfl
@[simp] theorem onSched_draws (s : State) (g : Tab Sched → Tab Sched) : (onSched s g).draws = s.draws := rfl
@[simp] theorem onSched_pending (s : State) (g : Tab Sched → Tab Sched) : (onSched s g).pending = s.pending := rfl

/-! ## onStv -/

@[simp] theorem onStv_clk (s : State) (g : Stv → Stv) : (onStv s g).clk = s.clk := rfl
@[simp] theorem onStv_pins (s : State) (g : Stv → Stv) : (onStv s g).pins = s.pins := rfl
@[simp] theorem onStv_boot (s : State) (g : Stv → Stv) : (onStv s g).boot = s.boot := rfl
@[simp] theorem onStv_cfg (s : State) (g : Stv → Stv) : (onStv s g).cfg = s.cfg := rfl
@[simp] theorem onStv_fuse (s : State) (g : Stv → Stv) : (onStv s g).fuse = s.fuse := rfl
@[simp] theorem onStv_auth (s : State) (g : Stv → Stv) : (onStv s g).auth = s.auth := rfl
@[simp] theorem onStv_ash (s : State) (g : Stv → Stv) : (onStv s g).ash = s.ash := rfl
@[simp] theorem onStv_hlth (s : State) (g : Stv → Stv) : (onStv s g).hlth = s.hlth := rfl
@[simp] theorem onStv_mtr (s : State) (g : Stv → Stv) : (onStv s g).mtr = s.mtr := rfl
@[simp] theorem onStv_pwr (s : State) (g : Stv → Stv) : (onStv s g).pwr = s.pwr := rfl
@[simp] theorem onStv_mem (s : State) (g : Stv → Stv) : (onStv s g).mem = s.mem := rfl
@[simp] theorem onStv_sites (s : State) (g : Stv → Stv) : (onStv s g).sites = s.sites := rfl
@[simp] theorem onStv_t0 (s : State) (g : Stv → Stv) : (onStv s g).t0 = s.t0 := rfl
@[simp] theorem onStv_home (s : State) (g : Stv → Stv) : (onStv s g).home = s.home := rfl
@[simp] theorem onStv_ctx (s : State) (g : Stv → Stv) : (onStv s g).ctx = s.ctx := rfl
@[simp] theorem onStv_sched (s : State) (g : Stv → Stv) : (onStv s g).sched = s.sched := rfl
@[simp] theorem onStv_stv (s : State) (g : Stv → Stv) : (onStv s g).stv = g s.stv := rfl
@[simp] theorem onStv_net (s : State) (g : Stv → Stv) : (onStv s g).net = s.net := rfl
@[simp] theorem onStv_links (s : State) (g : Stv → Stv) : (onStv s g).links = s.links := rfl
@[simp] theorem onStv_chim (s : State) (g : Stv → Stv) : (onStv s g).chim = s.chim := rfl
@[simp] theorem onStv_trn (s : State) (g : Stv → Stv) : (onStv s g).trn = s.trn := rfl
@[simp] theorem onStv_ext (s : State) (g : Stv → Stv) : (onStv s g).ext = s.ext := rfl
@[simp] theorem onStv_cell (s : State) (g : Stv → Stv) : (onStv s g).cell = s.cell := rfl
@[simp] theorem onStv_draws (s : State) (g : Stv → Stv) : (onStv s g).draws = s.draws := rfl
@[simp] theorem onStv_pending (s : State) (g : Stv → Stv) : (onStv s g).pending = s.pending := rfl

/-! ## onNet -/

@[simp] theorem onNet_clk (s : State) (g : Net → Net) : (onNet s g).clk = s.clk := rfl
@[simp] theorem onNet_pins (s : State) (g : Net → Net) : (onNet s g).pins = s.pins := rfl
@[simp] theorem onNet_boot (s : State) (g : Net → Net) : (onNet s g).boot = s.boot := rfl
@[simp] theorem onNet_cfg (s : State) (g : Net → Net) : (onNet s g).cfg = s.cfg := rfl
@[simp] theorem onNet_fuse (s : State) (g : Net → Net) : (onNet s g).fuse = s.fuse := rfl
@[simp] theorem onNet_auth (s : State) (g : Net → Net) : (onNet s g).auth = s.auth := rfl
@[simp] theorem onNet_ash (s : State) (g : Net → Net) : (onNet s g).ash = s.ash := rfl
@[simp] theorem onNet_hlth (s : State) (g : Net → Net) : (onNet s g).hlth = s.hlth := rfl
@[simp] theorem onNet_mtr (s : State) (g : Net → Net) : (onNet s g).mtr = s.mtr := rfl
@[simp] theorem onNet_pwr (s : State) (g : Net → Net) : (onNet s g).pwr = s.pwr := rfl
@[simp] theorem onNet_mem (s : State) (g : Net → Net) : (onNet s g).mem = s.mem := rfl
@[simp] theorem onNet_sites (s : State) (g : Net → Net) : (onNet s g).sites = s.sites := rfl
@[simp] theorem onNet_t0 (s : State) (g : Net → Net) : (onNet s g).t0 = s.t0 := rfl
@[simp] theorem onNet_home (s : State) (g : Net → Net) : (onNet s g).home = s.home := rfl
@[simp] theorem onNet_ctx (s : State) (g : Net → Net) : (onNet s g).ctx = s.ctx := rfl
@[simp] theorem onNet_sched (s : State) (g : Net → Net) : (onNet s g).sched = s.sched := rfl
@[simp] theorem onNet_stv (s : State) (g : Net → Net) : (onNet s g).stv = s.stv := rfl
@[simp] theorem onNet_net (s : State) (g : Net → Net) : (onNet s g).net = g s.net := rfl
@[simp] theorem onNet_links (s : State) (g : Net → Net) : (onNet s g).links = s.links := rfl
@[simp] theorem onNet_chim (s : State) (g : Net → Net) : (onNet s g).chim = s.chim := rfl
@[simp] theorem onNet_trn (s : State) (g : Net → Net) : (onNet s g).trn = s.trn := rfl
@[simp] theorem onNet_ext (s : State) (g : Net → Net) : (onNet s g).ext = s.ext := rfl
@[simp] theorem onNet_cell (s : State) (g : Net → Net) : (onNet s g).cell = s.cell := rfl
@[simp] theorem onNet_draws (s : State) (g : Net → Net) : (onNet s g).draws = s.draws := rfl
@[simp] theorem onNet_pending (s : State) (g : Net → Net) : (onNet s g).pending = s.pending := rfl

/-! ## onLinks -/

@[simp] theorem onLinks_clk (s : State) (g : Links → Links) : (onLinks s g).clk = s.clk := rfl
@[simp] theorem onLinks_pins (s : State) (g : Links → Links) : (onLinks s g).pins = s.pins := rfl
@[simp] theorem onLinks_boot (s : State) (g : Links → Links) : (onLinks s g).boot = s.boot := rfl
@[simp] theorem onLinks_cfg (s : State) (g : Links → Links) : (onLinks s g).cfg = s.cfg := rfl
@[simp] theorem onLinks_fuse (s : State) (g : Links → Links) : (onLinks s g).fuse = s.fuse := rfl
@[simp] theorem onLinks_auth (s : State) (g : Links → Links) : (onLinks s g).auth = s.auth := rfl
@[simp] theorem onLinks_ash (s : State) (g : Links → Links) : (onLinks s g).ash = s.ash := rfl
@[simp] theorem onLinks_hlth (s : State) (g : Links → Links) : (onLinks s g).hlth = s.hlth := rfl
@[simp] theorem onLinks_mtr (s : State) (g : Links → Links) : (onLinks s g).mtr = s.mtr := rfl
@[simp] theorem onLinks_pwr (s : State) (g : Links → Links) : (onLinks s g).pwr = s.pwr := rfl
@[simp] theorem onLinks_mem (s : State) (g : Links → Links) : (onLinks s g).mem = s.mem := rfl
@[simp] theorem onLinks_sites (s : State) (g : Links → Links) : (onLinks s g).sites = s.sites := rfl
@[simp] theorem onLinks_t0 (s : State) (g : Links → Links) : (onLinks s g).t0 = s.t0 := rfl
@[simp] theorem onLinks_home (s : State) (g : Links → Links) : (onLinks s g).home = s.home := rfl
@[simp] theorem onLinks_ctx (s : State) (g : Links → Links) : (onLinks s g).ctx = s.ctx := rfl
@[simp] theorem onLinks_sched (s : State) (g : Links → Links) : (onLinks s g).sched = s.sched := rfl
@[simp] theorem onLinks_stv (s : State) (g : Links → Links) : (onLinks s g).stv = s.stv := rfl
@[simp] theorem onLinks_net (s : State) (g : Links → Links) : (onLinks s g).net = s.net := rfl
@[simp] theorem onLinks_links (s : State) (g : Links → Links) : (onLinks s g).links = g s.links := rfl
@[simp] theorem onLinks_chim (s : State) (g : Links → Links) : (onLinks s g).chim = s.chim := rfl
@[simp] theorem onLinks_trn (s : State) (g : Links → Links) : (onLinks s g).trn = s.trn := rfl
@[simp] theorem onLinks_ext (s : State) (g : Links → Links) : (onLinks s g).ext = s.ext := rfl
@[simp] theorem onLinks_cell (s : State) (g : Links → Links) : (onLinks s g).cell = s.cell := rfl
@[simp] theorem onLinks_draws (s : State) (g : Links → Links) : (onLinks s g).draws = s.draws := rfl
@[simp] theorem onLinks_pending (s : State) (g : Links → Links) : (onLinks s g).pending = s.pending := rfl

/-! ## onChim -/

@[simp] theorem onChim_clk (s : State) (g : Chim → Chim) : (onChim s g).clk = s.clk := rfl
@[simp] theorem onChim_pins (s : State) (g : Chim → Chim) : (onChim s g).pins = s.pins := rfl
@[simp] theorem onChim_boot (s : State) (g : Chim → Chim) : (onChim s g).boot = s.boot := rfl
@[simp] theorem onChim_cfg (s : State) (g : Chim → Chim) : (onChim s g).cfg = s.cfg := rfl
@[simp] theorem onChim_fuse (s : State) (g : Chim → Chim) : (onChim s g).fuse = s.fuse := rfl
@[simp] theorem onChim_auth (s : State) (g : Chim → Chim) : (onChim s g).auth = s.auth := rfl
@[simp] theorem onChim_ash (s : State) (g : Chim → Chim) : (onChim s g).ash = s.ash := rfl
@[simp] theorem onChim_hlth (s : State) (g : Chim → Chim) : (onChim s g).hlth = s.hlth := rfl
@[simp] theorem onChim_mtr (s : State) (g : Chim → Chim) : (onChim s g).mtr = s.mtr := rfl
@[simp] theorem onChim_pwr (s : State) (g : Chim → Chim) : (onChim s g).pwr = s.pwr := rfl
@[simp] theorem onChim_mem (s : State) (g : Chim → Chim) : (onChim s g).mem = s.mem := rfl
@[simp] theorem onChim_sites (s : State) (g : Chim → Chim) : (onChim s g).sites = s.sites := rfl
@[simp] theorem onChim_t0 (s : State) (g : Chim → Chim) : (onChim s g).t0 = s.t0 := rfl
@[simp] theorem onChim_home (s : State) (g : Chim → Chim) : (onChim s g).home = s.home := rfl
@[simp] theorem onChim_ctx (s : State) (g : Chim → Chim) : (onChim s g).ctx = s.ctx := rfl
@[simp] theorem onChim_sched (s : State) (g : Chim → Chim) : (onChim s g).sched = s.sched := rfl
@[simp] theorem onChim_stv (s : State) (g : Chim → Chim) : (onChim s g).stv = s.stv := rfl
@[simp] theorem onChim_net (s : State) (g : Chim → Chim) : (onChim s g).net = s.net := rfl
@[simp] theorem onChim_links (s : State) (g : Chim → Chim) : (onChim s g).links = s.links := rfl
@[simp] theorem onChim_chim (s : State) (g : Chim → Chim) : (onChim s g).chim = g s.chim := rfl
@[simp] theorem onChim_trn (s : State) (g : Chim → Chim) : (onChim s g).trn = s.trn := rfl
@[simp] theorem onChim_ext (s : State) (g : Chim → Chim) : (onChim s g).ext = s.ext := rfl
@[simp] theorem onChim_cell (s : State) (g : Chim → Chim) : (onChim s g).cell = s.cell := rfl
@[simp] theorem onChim_draws (s : State) (g : Chim → Chim) : (onChim s g).draws = s.draws := rfl
@[simp] theorem onChim_pending (s : State) (g : Chim → Chim) : (onChim s g).pending = s.pending := rfl

/-! ## onTrn -/

@[simp] theorem onTrn_clk (s : State) (g : Trn → Trn) : (onTrn s g).clk = s.clk := rfl
@[simp] theorem onTrn_pins (s : State) (g : Trn → Trn) : (onTrn s g).pins = s.pins := rfl
@[simp] theorem onTrn_boot (s : State) (g : Trn → Trn) : (onTrn s g).boot = s.boot := rfl
@[simp] theorem onTrn_cfg (s : State) (g : Trn → Trn) : (onTrn s g).cfg = s.cfg := rfl
@[simp] theorem onTrn_fuse (s : State) (g : Trn → Trn) : (onTrn s g).fuse = s.fuse := rfl
@[simp] theorem onTrn_auth (s : State) (g : Trn → Trn) : (onTrn s g).auth = s.auth := rfl
@[simp] theorem onTrn_ash (s : State) (g : Trn → Trn) : (onTrn s g).ash = s.ash := rfl
@[simp] theorem onTrn_hlth (s : State) (g : Trn → Trn) : (onTrn s g).hlth = s.hlth := rfl
@[simp] theorem onTrn_mtr (s : State) (g : Trn → Trn) : (onTrn s g).mtr = s.mtr := rfl
@[simp] theorem onTrn_pwr (s : State) (g : Trn → Trn) : (onTrn s g).pwr = s.pwr := rfl
@[simp] theorem onTrn_mem (s : State) (g : Trn → Trn) : (onTrn s g).mem = s.mem := rfl
@[simp] theorem onTrn_sites (s : State) (g : Trn → Trn) : (onTrn s g).sites = s.sites := rfl
@[simp] theorem onTrn_t0 (s : State) (g : Trn → Trn) : (onTrn s g).t0 = s.t0 := rfl
@[simp] theorem onTrn_home (s : State) (g : Trn → Trn) : (onTrn s g).home = s.home := rfl
@[simp] theorem onTrn_ctx (s : State) (g : Trn → Trn) : (onTrn s g).ctx = s.ctx := rfl
@[simp] theorem onTrn_sched (s : State) (g : Trn → Trn) : (onTrn s g).sched = s.sched := rfl
@[simp] theorem onTrn_stv (s : State) (g : Trn → Trn) : (onTrn s g).stv = s.stv := rfl
@[simp] theorem onTrn_net (s : State) (g : Trn → Trn) : (onTrn s g).net = s.net := rfl
@[simp] theorem onTrn_links (s : State) (g : Trn → Trn) : (onTrn s g).links = s.links := rfl
@[simp] theorem onTrn_chim (s : State) (g : Trn → Trn) : (onTrn s g).chim = s.chim := rfl
@[simp] theorem onTrn_trn (s : State) (g : Trn → Trn) : (onTrn s g).trn = g s.trn := rfl
@[simp] theorem onTrn_ext (s : State) (g : Trn → Trn) : (onTrn s g).ext = s.ext := rfl
@[simp] theorem onTrn_cell (s : State) (g : Trn → Trn) : (onTrn s g).cell = s.cell := rfl
@[simp] theorem onTrn_draws (s : State) (g : Trn → Trn) : (onTrn s g).draws = s.draws := rfl
@[simp] theorem onTrn_pending (s : State) (g : Trn → Trn) : (onTrn s g).pending = s.pending := rfl

/-! ## onExt -/

@[simp] theorem onExt_clk (s : State) (g : Exts → Exts) : (onExt s g).clk = s.clk := rfl
@[simp] theorem onExt_pins (s : State) (g : Exts → Exts) : (onExt s g).pins = s.pins := rfl
@[simp] theorem onExt_boot (s : State) (g : Exts → Exts) : (onExt s g).boot = s.boot := rfl
@[simp] theorem onExt_cfg (s : State) (g : Exts → Exts) : (onExt s g).cfg = s.cfg := rfl
@[simp] theorem onExt_fuse (s : State) (g : Exts → Exts) : (onExt s g).fuse = s.fuse := rfl
@[simp] theorem onExt_auth (s : State) (g : Exts → Exts) : (onExt s g).auth = s.auth := rfl
@[simp] theorem onExt_ash (s : State) (g : Exts → Exts) : (onExt s g).ash = s.ash := rfl
@[simp] theorem onExt_hlth (s : State) (g : Exts → Exts) : (onExt s g).hlth = s.hlth := rfl
@[simp] theorem onExt_mtr (s : State) (g : Exts → Exts) : (onExt s g).mtr = s.mtr := rfl
@[simp] theorem onExt_pwr (s : State) (g : Exts → Exts) : (onExt s g).pwr = s.pwr := rfl
@[simp] theorem onExt_mem (s : State) (g : Exts → Exts) : (onExt s g).mem = s.mem := rfl
@[simp] theorem onExt_sites (s : State) (g : Exts → Exts) : (onExt s g).sites = s.sites := rfl
@[simp] theorem onExt_t0 (s : State) (g : Exts → Exts) : (onExt s g).t0 = s.t0 := rfl
@[simp] theorem onExt_home (s : State) (g : Exts → Exts) : (onExt s g).home = s.home := rfl
@[simp] theorem onExt_ctx (s : State) (g : Exts → Exts) : (onExt s g).ctx = s.ctx := rfl
@[simp] theorem onExt_sched (s : State) (g : Exts → Exts) : (onExt s g).sched = s.sched := rfl
@[simp] theorem onExt_stv (s : State) (g : Exts → Exts) : (onExt s g).stv = s.stv := rfl
@[simp] theorem onExt_net (s : State) (g : Exts → Exts) : (onExt s g).net = s.net := rfl
@[simp] theorem onExt_links (s : State) (g : Exts → Exts) : (onExt s g).links = s.links := rfl
@[simp] theorem onExt_chim (s : State) (g : Exts → Exts) : (onExt s g).chim = s.chim := rfl
@[simp] theorem onExt_trn (s : State) (g : Exts → Exts) : (onExt s g).trn = s.trn := rfl
@[simp] theorem onExt_ext (s : State) (g : Exts → Exts) : (onExt s g).ext = g s.ext := rfl
@[simp] theorem onExt_cell (s : State) (g : Exts → Exts) : (onExt s g).cell = s.cell := rfl
@[simp] theorem onExt_draws (s : State) (g : Exts → Exts) : (onExt s g).draws = s.draws := rfl
@[simp] theorem onExt_pending (s : State) (g : Exts → Exts) : (onExt s g).pending = s.pending := rfl

/-! ## onCell -/

@[simp] theorem onCell_clk (s : State) (g : Cell → Cell) : (onCell s g).clk = s.clk := rfl
@[simp] theorem onCell_pins (s : State) (g : Cell → Cell) : (onCell s g).pins = s.pins := rfl
@[simp] theorem onCell_boot (s : State) (g : Cell → Cell) : (onCell s g).boot = s.boot := rfl
@[simp] theorem onCell_cfg (s : State) (g : Cell → Cell) : (onCell s g).cfg = s.cfg := rfl
@[simp] theorem onCell_fuse (s : State) (g : Cell → Cell) : (onCell s g).fuse = s.fuse := rfl
@[simp] theorem onCell_auth (s : State) (g : Cell → Cell) : (onCell s g).auth = s.auth := rfl
@[simp] theorem onCell_ash (s : State) (g : Cell → Cell) : (onCell s g).ash = s.ash := rfl
@[simp] theorem onCell_hlth (s : State) (g : Cell → Cell) : (onCell s g).hlth = s.hlth := rfl
@[simp] theorem onCell_mtr (s : State) (g : Cell → Cell) : (onCell s g).mtr = s.mtr := rfl
@[simp] theorem onCell_pwr (s : State) (g : Cell → Cell) : (onCell s g).pwr = s.pwr := rfl
@[simp] theorem onCell_mem (s : State) (g : Cell → Cell) : (onCell s g).mem = s.mem := rfl
@[simp] theorem onCell_sites (s : State) (g : Cell → Cell) : (onCell s g).sites = s.sites := rfl
@[simp] theorem onCell_t0 (s : State) (g : Cell → Cell) : (onCell s g).t0 = s.t0 := rfl
@[simp] theorem onCell_home (s : State) (g : Cell → Cell) : (onCell s g).home = s.home := rfl
@[simp] theorem onCell_ctx (s : State) (g : Cell → Cell) : (onCell s g).ctx = s.ctx := rfl
@[simp] theorem onCell_sched (s : State) (g : Cell → Cell) : (onCell s g).sched = s.sched := rfl
@[simp] theorem onCell_stv (s : State) (g : Cell → Cell) : (onCell s g).stv = s.stv := rfl
@[simp] theorem onCell_net (s : State) (g : Cell → Cell) : (onCell s g).net = s.net := rfl
@[simp] theorem onCell_links (s : State) (g : Cell → Cell) : (onCell s g).links = s.links := rfl
@[simp] theorem onCell_chim (s : State) (g : Cell → Cell) : (onCell s g).chim = s.chim := rfl
@[simp] theorem onCell_trn (s : State) (g : Cell → Cell) : (onCell s g).trn = s.trn := rfl
@[simp] theorem onCell_ext (s : State) (g : Cell → Cell) : (onCell s g).ext = s.ext := rfl
@[simp] theorem onCell_cell (s : State) (g : Cell → Cell) : (onCell s g).cell = g s.cell := rfl
@[simp] theorem onCell_draws (s : State) (g : Cell → Cell) : (onCell s g).draws = s.draws := rfl
@[simp] theorem onCell_pending (s : State) (g : Cell → Cell) : (onCell s g).pending = s.pending := rfl

/-! ## draw -/

@[simp] theorem draw_clk (s : State) : (draw s).1.clk = s.clk := rfl
@[simp] theorem draw_pins (s : State) : (draw s).1.pins = s.pins := rfl
@[simp] theorem draw_boot (s : State) : (draw s).1.boot = s.boot := rfl
@[simp] theorem draw_cfg (s : State) : (draw s).1.cfg = s.cfg := rfl
@[simp] theorem draw_fuse (s : State) : (draw s).1.fuse = s.fuse := rfl
@[simp] theorem draw_auth (s : State) : (draw s).1.auth = s.auth := rfl
@[simp] theorem draw_ash (s : State) : (draw s).1.ash = s.ash := rfl
@[simp] theorem draw_hlth (s : State) : (draw s).1.hlth = s.hlth := rfl
@[simp] theorem draw_mtr (s : State) : (draw s).1.mtr = s.mtr := rfl
@[simp] theorem draw_pwr (s : State) : (draw s).1.pwr = s.pwr := rfl
@[simp] theorem draw_mem (s : State) : (draw s).1.mem = s.mem := rfl
@[simp] theorem draw_sites (s : State) : (draw s).1.sites = s.sites := rfl
@[simp] theorem draw_t0 (s : State) : (draw s).1.t0 = s.t0 := rfl
@[simp] theorem draw_home (s : State) : (draw s).1.home = s.home := rfl
@[simp] theorem draw_ctx (s : State) : (draw s).1.ctx = s.ctx := rfl
@[simp] theorem draw_sched (s : State) : (draw s).1.sched = s.sched := rfl
@[simp] theorem draw_stv (s : State) : (draw s).1.stv = s.stv := rfl
@[simp] theorem draw_net (s : State) : (draw s).1.net = s.net := rfl
@[simp] theorem draw_links (s : State) : (draw s).1.links = s.links := rfl
@[simp] theorem draw_chim (s : State) : (draw s).1.chim = s.chim := rfl
@[simp] theorem draw_trn (s : State) : (draw s).1.trn = s.trn := rfl
@[simp] theorem draw_ext (s : State) : (draw s).1.ext = s.ext := rfl
@[simp] theorem draw_cell (s : State) : (draw s).1.cell = s.cell := rfl
@[simp] theorem draw_draws (s : State) : (draw s).1.draws = s.draws + 1 := rfl
@[simp] theorem draw_pending (s : State) : (draw s).1.pending = s.pending := rfl
@[simp] theorem draw_taken (s : State) : (draw s).2 = s.draws := rfl

end Sys2Proof.Machine
end

