-- ==== Sys2Proof/Tests/Slice0.lean ====
section
/-! SUPPORT. The model's own tests: ill-formed commands refused, values from the spec, and for every statement of the certificates
a state and operands that meet its hypotheses. -/

open Sys2Proof Sys2Proof.Machine

section
set_option Elab.async false

/-! ## A small module at work -/

namespace Slice0

/-- A job table entry: VALID, Sv48, REMOTE, the job, the given enables from bit 40 up. -/
def jobRow (job : Nat) (funcs : Nat := 0x7F) : BitVec 512 := BitVec.ofNat 512 (2 + 2 ^ 4 + 9 * 2 ^ 8 + 2 ^ 13 + job * 2 ^ 16 + funcs * 2 ^ 40 + 64 * 2 ^ 48)

/-- A leaf that maps the job's first GiB to extent 0 of device 0, with every right. -/
def leaf0 : Leaf := { job := 5, lg := 30, vpn := 0, page := 0, r := true, w := true, x := true, u := true, a := true, d := true }

/-- A leaf that maps its second GiB to extent 0 of device 1. -/
def leaf1 : Leaf := { leaf0 with vpn := 1, page := 2 ^ 42 }

/-- Device 0, Ready, in Run: job 5 holds extent 0 under a lease, and its first GiB is mapped there, its second to
device 1. -/
def run0 : State := { State.reset with
  clk := { pilot := 5000 }
  pins := { vaux := true, vin54 := true, powerFail := false }
  boot := { phase := 11, device := 0 }
  pwr := { domains := BitVec.allOnes 30 }
  sites := { sites := (List.range 32).map fun k => (k, { trained := true }) }
  trn := { jobs := [(0, jobRow 5)], leaves := [leaf0, leaf1] }
  ext := { tab := [(0, { state := 3, job := 5, leaseNo := 1, leaseEnd := 9000000 })] } }

/-- That module with one kernel item whose only thread stands before word `w`. -/
def kern (w : BitVec 64) (th : Thread := { s := [(1, 64), (2, 9)] }) : State := onStv run0 fun v => { v with
  items := [{ id := 0, job := 5, op := 0x70, kernel := true, validated := true, code := some [w, w], crew := 1, scratch := 4, threads := [(0, th)] }] }

/-- Thread 0 of item 0. -/
def t0 : ThreadRef := { item := 0, n := 0 }

/-- An instruction word from its fields (R112). -/
def word (cls opc : Nat) (dst sa sb sc fmt cvt imm : Nat := 0) (w ge gn gp : Nat := 0) : BitVec 64 :=
  BitVec.ofNat 64 (cls * 2 ^ 60 + opc * 2 ^ 54 + ge * 2 ^ 53 + gn * 2 ^ 52 + gp * 2 ^ 49 + dst * 2 ^ 44 + sa * 2 ^ 39 + sb * 2 ^ 34 +
    w * 2 ^ 32 + sc * 2 ^ 27 + fmt * 2 ^ 23 + cvt * 2 ^ 19 + imm)

/-- An access answers with a value. -/
def good {α : Type} (x : State × Got α) : Bool := match x.2 with | .ok _ => true | _ => false

/-- A command answers a next state of which `p` holds. -/
def goes (c : Instr) (s : State) (p : State → Bool := fun _ => true) : Bool := match exec c s with | .next t => p t | _ => false

end Slice0

open Slice0

/-! ## Instructions of a thread -/

/-- The thread of `kern`. -/
def Slice0.th0 : Thread := { s := [(1, 64), (2, 9)] }

/-- The item of `kern`. -/
def Slice0.it0 (w : BitVec 64) (th : Thread := th0) : Item := (itemOf (kern w th) 0).getD {}

/-- The thread may issue the word as that operation, and its guard holds. -/
def Slice0.ready (k o : Nat) (w : BitVec 64) (th : Thread := th0) : Bool :=
  canIssue (kern w th) t0 w k o == some (it0 w th, th) && guardHolds th w

theorem test_RegisterInstructionsComplete_scalar : ∀ k < 20, ready 0 k (word 0 k 3 1 2) = true := by decide +kernel

theorem test_RegisterInstructionsComplete_others : ∀ x ∈ [(4, 0), (4, 3), (5, 0), (5, 1), (5, 2), (5, 3), (5, 4), (5, 5), (5, 6), (5, 7), (5, 8),
    (5, 9), (5, 10), (5, 18), (5, 19), (9, 0), (9, 1), (10, 4), (10, 7)], ready x.1 x.2 (word x.1 x.2 3 1 2) = true := by decide +kernel

/-- 64 + 9 (R114), at the guard's other value too. -/
theorem test_add : goes (.add t0 (word 0 0 3 1 2)) (kern (word 0 0 3 1 2)) (fun t => sReg (threadOf t t0) 3 == 73) = true := by decide +kernel

/-- Division by zero gives all ones (R114). -/
theorem test_divu_by_zero : goes (.divu t0 (word 0 16 3 1 4)) (kern (word 0 16 3 1 4))
    (fun t => sReg (threadOf t t0) 3 == BitVec.allOnes 64) = true := by decide +kernel

/-- A guard that reads p0, which is 1, with GN = 1 is false. -/
theorem test_FalseGuardPasses : (canIssue (kern (word 0 0 3 1 2 0 0 0 0 0 1 1)) t0 (word 0 0 3 1 2 0 0 0 0 0 1 1) 0 0).isSome = true ∧
    wGe (word 0 0 3 1 2 0 0 0 0 0 1 1) = true ∧ (pReg th0 (wGp (word 0 0 3 1 2 0 0 0 0 0 1 1)) ^^ wGn (word 0 0 3 1 2 0 0 0 0 0 1 1)) = false := by
  decide +kernel

theorem test_ThreadFrame : (itemOf (kern 0) t0.item).isSome = true ∧ tok ({} : Thread) (it0 0).threads = true := by decide +kernel

theorem test_LoadsComplete : ∀ x ∈ [(0, 8), (1, 8), (3, 512)], ready 1 x.1 (word 1 x.1 3 1 0 0 0 0 0 3) = true ∧
    addrI th0 (word 1 x.1 3 1 0 0 0 0 0 3) = 64 ∧ good (readJva (kern (word 1 x.1 3 1 0 0 0 0 0 3)) 0 0 0 64 x.2) = true := by decide +kernel

/-- A line of this module that decodes cleanly is delivered. -/
theorem test_LoadsComplete_decode : good (stoveDecode (kern 0) 1 .clean) = true := by decide +kernel

/-- A byte with its top bit set is zero-extended by LD and sign-extended by LDSX. -/
theorem test_ld_ldsx : goes (.ld t0 (word 1 0 3 1) .clean) (onMem (kern (word 1 0 3 1)) fun m => { m with cells := [(64, 0x80)] })
      (fun t => sReg (threadOf t t0) 3 == 0x80) = true ∧
    goes (.ldsx t0 (word 1 1 3 1)) (onMem (kern (word 1 1 3 1)) fun m => { m with cells := [(64, 0x80)] })
      (fun t => sReg (threadOf t t0) 3 == 0xFFFFFFFFFFFFFF80) = true := by decide +kernel

theorem test_StoresComplete : ∀ x ∈ [(2, 8), (4, 512), (5, 256)], ready 1 x.1 (word 1 x.1 3 1 2 0 0 0 0 3) = true ∧
    addrI th0 (word 1 x.1 3 1 2 0 0 0 0 3) = 64 ∧
    good (storeJva (kern (word 1 x.1 3 1 2 0 0 0 0 3)) 0 0 (.store t0) 64 (List.replicate x.2 1)) = true := by decide +kernel

theorem test_StoresComplete_param : ready 1 6 (word 1 6 3) = true ∧ ready 1 7 (word 1 7 0 0 2) = true := by decide +kernel

/-- The low two bytes of sSB, least significant first (R6). -/
theorem test_st : goes (.st t0 (word 1 2 0 1 2 0 0 0 0 1)) (kern (word 1 2 0 1 2 0 0 0 0 1) { s := [(1, 64), (2, 0x12345)] })
    (fun t => t.mem.cells == [(64, 0x45), (65, 0x23)]) = true := by decide +kernel

/-- Address 65 is aligned to no width above one byte. -/
theorem test_MisalignedFaults : (∀ x ∈ [(1, 0), (1, 1), (1, 2), (1, 3), (1, 4), (1, 5), (6, 0), (6, 8), (6, 10)],
      ready x.1 x.2 (word x.1 x.2 3 1 2 0 0 0 1 1) = true ∧ addrI th0 (word x.1 x.2 3 1 2 0 0 0 1 1) % widthBytes (wW (word x.1 x.2 3 1 2 0 0 0 1 1)) ≠ 0) ∧
    ready 6 9 (word 6 9 3 1 2 0 0 0 1 1) = true ∧ addrT th0 (word 6 9 3 1 2 0 0 0 1 1) % widthBytes (wW (word 6 9 3 1 2 0 0 0 1 1)) ≠ 0 := by
  decide +kernel

/-- A thread that holds scratch handle 0, a tile of format 0 with the byte 1 at offset 0. -/
def Slice0.thH : Thread := { s := [(1, 0), (2, 2 ^ 30)], handles := [{ num := 0, data := { tag := 0, cells := [(0, 1)] } }] }

theorem test_TileInstructionsComplete_tld : ready 2 0 (word 2 0 3 1) { s := [(1, 2 ^ 31)] } = true ∧ freeHandle { s := [(1, 2 ^ 31)] } = some 0 ∧
    heldInHearth (kern 0) 0 < poolSize (t0Slice (kern 0) 0) ∧ cachedLeaf (kern 0) 5 (2 ^ 31) = none := by decide +kernel

theorem test_TileInstructionsComplete_talloc : ready 2 1 (word 2 1 3) thH = true ∧ freeHandle thH = some 1 ∧ scratchUsed (it0 (word 2 1 3) thH) < 4 := by
  decide +kernel

theorem test_TileInstructionsComplete_tst : ready 2 2 (word 2 2 0 2 1) thH = true ∧
    good (wholeTile (kern (word 2 2 0 2 1) thH) (it0 (word 2 2 0 2 1) thH) thH 0) = true ∧
    good (storeTile (kern (word 2 2 0 2 1) thH) 0 0 (.store t0) (2 ^ 30) 0 []) = true := by decide +kernel

theorem test_TileInstructionsComplete_handles : (∀ o ∈ [3, 4, 5, 6, 7], ready 2 o (word 2 o 3 1 1) thH = true) ∧ ready 3 0 (word 3 0 3 1) thH = true ∧
    (liveHandle thH 0).isSome = true ∧ useHandle (it0 0 thH) thH 0 = .ok (thH.handles.getD 0 {}) ∧ useScratch thH 0 = .ok (thH.handles.getD 0 {}) ∧
    good (readHandle (kern 0 thH) (it0 0 thH) { num := 0, data := { tag := 0, cells := [(0, 1)] } } 0 512) = true ∧
    handleTag (kern 0 thH) (thH.handles.getD 0 {}) = .ok 0 := by decide +kernel

theorem test_TileInstructionsComplete_tcvt : ready 2 8 (word 2 8 3 1) thH = true ∧ freeHandle thH = some 1 ∧ scratchUsed (it0 (word 2 8 3 1) thH) < 4 ∧
    wFmt (word 2 8 3 1) = 0 := by decide +kernel

theorem test_VectorInstructionsComplete : (∀ o < 10, 3 ≤ o → ready 3 o (word 3 o 3 1 2) = true) ∧ (∀ o ∈ [16, 17], ready 5 o (word 5 o 3 1 2) = true) ∧
    (∀ o ∈ [10, 11, 12], ready 3 o (word 3 o 3 1 2) = true) ∧ wImm19 (word 3 11 3 1 2) < vLen (wFmt (word 3 11 3 1 2)) := by decide +kernel

/-- A vector compare writes all ones where it holds: every element of two zero registers is equal. -/
theorem test_vcmpeq : goes (.vcmpeq t0 (word 5 17 3 1 2)) (kern (word 5 17 3 1 2)) (fun t => vReg (threadOf t t0) 3 == BitVec.allOnes 4096) = true := by
  decide +kernel

/-- A thread whose a0 is unclassed, with no stationary, and one with a stationary of format 0. -/
def Slice0.thS : Thread := { thH with stat := some (0, {}) }

theorem test_AccumulatorInstructionsComplete_mmv : ready 3 1 (word 3 1 0 1) = true ∧ th0.stat = none ∧ ready 3 1 (word 3 1 0 1) thS = true ∧
    thS.stat = some (0, {}) ∧ takeClass (aReg thS 0) false = some { cls := .b32 } ∧
    laneOver (mapLanes { cls := .b32 } fun _ l => l) = false := by decide +kernel

theorem test_AccumulatorInstructionsComplete_others : ready 3 2 (word 3 2 0 1) thH = true ∧ (∀ o ∈ [1, 2, 4, 5], ready 4 o (word 4 o 0 1 1) thH = true) ∧
    takeClass (aReg thH 0) true = some { cls := .long } ∧ useScratch thH (sReg thH (wSb (word 4 4 0 1 1))) = .ok (thH.handles.getD 0 {}) ∧
    ((upTo 64 fun i => leAt (List.replicate 768 (0 : Byte)) (12 * i) 12).any extBad) = false := by decide +kernel

theorem test_AccumulatorInstructionsComplete_lanes : laneOver (mapLanes { cls := .b32 } fun _ l => { l with n := 2 ^ 32 }) = false := by decide +kernel

/-- 2^32 products are allowed and one more is not (R123). -/
theorem test_AccumulateAnswers : laneOver (mapLanes { cls := .b32 } fun _ l => { l with n := 2 ^ 32 + 1 }) = true ∧
    takeClass { cls := .b32 } true = none ∧ takeClass { cls := .long } false = none ∧ (takeClass {} true).isSome = true := by decide +kernel

theorem test_AtomicInstructionsComplete : (∀ o < 11, ready 6 o (word 6 o 3 1 2) = true) ∧ ready 7 4 (word 7 4 3 1 2) = true ∧
    addrI th0 (word 6 0 3 1 2) % widthBytes (wW (word 6 0 3 1 2)) = 0 ∧ addrT th0 (word 6 9 3 1 2) % widthBytes (wW (word 6 9 3 1 2)) = 0 ∧
    (match (tryStore (kern 0) 0 2 64 false).2 with | .ok (.here a) => a == 64 | _ => false) = true ∧
    isPoisoned (tryStore (kern 0) 0 2 64 false).1 1 = false := by decide +kernel

/-- The answer of another module's atomic. -/
theorem test_AtomicInstructionsComplete_reply : ready 6 0 (word 6 0 3 1 2) { th0 with reply := some (stOk, 5) } = true := by decide +kernel

/-- AMADD adds sSB at the line's home and gives the old value. -/
theorem test_amadd : goes (.amadd t0 (word 6 0 3 1 2 0 0 0 0 3)) (onMem (kern (word 6 0 3 1 2 0 0 0 0 3)) fun m => { m with cells := [(64, 5)] })
    (fun t => sReg (threadOf t t0) 3 == 5 && t.mem.cells == [(64, 14)]) = true := by decide +kernel

theorem test_WaitsAndFencesComplete : (∀ o < 4, ready 7 o (word 7 o 3 1 4) = true) ∧ (∀ o < 2, ready 11 o (word 11 o 3 1) = true) ∧
    (match (readJva (kern 0) 0 0 0 64 1).2 with | .ok (bs, _) => (bs.headD 0).toNat == 0 | _ => false) = true ∧
    fenceOpen (kern 0) t0 none = false ∧ fenceOpen (kern 0) t0 (some 64) = false := by decide +kernel

/-- A thread in FLAGWAIT since pt 0 with a limit of 5,000 pt, one poll made, and one in a fence. -/
theorem test_WaitsAndFencesComplete_waiting :
    (threadOf (kern 0 { wait := .flag 64 0 1 0 5000 (some 1) }) t0).wait = .flag 64 0 1 0 5000 (some 1) ∧ usPassed 0 5000 (pollUs 1) = true ∧
    (kern 0).clk.pilot = 5000 ∧ good (readJva (kern 0 { wait := .flag 64 0 1 0 5000 (some 1) }) 0 0 0 64 1) = true ∧
    (threadOf (kern 0 { wait := .fence 1 none }) t0).wait = .fence 1 none ∧ fenceOpen (kern 0 { wait := .fence 1 none }) t0 none = false := by
  decide +kernel

theorem test_ControlInstructionsComplete : (∀ o ∈ [0, 1, 2, 3, 5, 6, 8], ready 10 o (word 10 o 3 1) = true) ∧
    (sReg { s := [(1, 1)] } 1).toNat < ((it0 0).code.getD []).length ∧ ((it0 0).code.getD []).length ≤ (sReg th0 1).toNat := by decide +kernel

/-- LOOP counts down and falls through at zero (R114). -/
theorem test_loop_ends : goes (.loop t0 (word 10 3 3 0)) (kern (word 10 3 3 0) { s := [(3, 1)] }) (fun t => (threadOf t t0).pc == 1) = true := by
  decide +kernel

theorem test_HelperInstructionsComplete : (∀ o < 5, ready 8 o (word 8 o 3 3 3) thH = true) ∧ (∀ o ∈ [2, 3], ready 9 o (word 9 o 3 1) thH = true) ∧
    useScratch thH (sReg thH 3) = .ok (thH.handles.getD 0 {}) ∧ useHandle (it0 0 thH) thH (sReg thH 3) = .ok (thH.handles.getD 0 {}) ∧
    good (readJva (kern 0) 0 0 0 (64 + 64 / 8) 65) = true ∧ (it0 0 thH).coal.findIdx? (· = sReg thH 1) = none ∧ (it0 0 thH).coal.length < coalSize := by
  decide +kernel

/-- A tile that holds a list of K = 4 entries, none found: KIND 6, K in bytes 2 and 3 of its head (R175). -/
theorem test_HelperInstructionsComplete_lists : ∃ h : List Byte, listBad (h ++ List.replicate (16384 - h.length) 0) = false ∧
    64 + 16 * (listHead (h ++ List.replicate (16384 - h.length) 0)).k ≤ 16384 := ⟨natLe 4 (0x62 + 4 * 2 ^ 16), by decide +kernel⟩

theorem test_HelperInstructionsComplete_coalesced : ([7, 9] : List W64).findIdx? (· = 9) = some 1 := by decide

/-! ## Operators -/

/-- The module with one item that runs operator `op` on slot bits `bits`. -/
def Slice0.oper (op bits : Nat) (it : Item := {}) (s : State := run0) : State := onStv s fun v => { v with
  items := [{ it with id := 0, job := 5, op := op, slotBits := BitVec.ofNat 2048 bits }] }

/-- Item 0 runs that operator. -/
def Slice0.runsB (s : State) (op : Nat) : Bool := (itemOf s 0).any fun it => it.op == op && it.result.isNone && !it.cancelled

/-- Item 0 runs operator `op`, and the command answers a next state in which it has the outcome that `p` says. -/
def Slice0.ends (c : Instr) (op : Nat) (s : State) (p : Result → Bool) : Bool :=
  runsB s op && goes c s fun t => (itemOf t 0).any fun it => it.result.any p

/-- Item 0 runs operator `op`, and the command answers a next state in which `p` holds of it. -/
def Slice0.moves (c : Instr) (op : Nat) (s : State) (p : Item → Bool) : Bool := runsB s op && goes c s fun t => (itemOf t 0).any p

theorem test_OperatorsEnd : ends (.nop 0) 1 (oper 1 0) (fun r => r.status == stOk) = true ∧
    ends (.copy 0) 0x10 (oper 0x10 (2 * 2 ^ 384) { prog := 2 }) (fun r => r.status == stOk && r.count == 2) = true ∧
    ends (.fill 0) 0x11 (oper 0x11 (2 * 2 ^ 320) { prog := 2 }) (fun r => r.count == 2) = true ∧
    ends (.reduceLocal 0) 0x42 (oper 0x42 (2 * 2 ^ 384) { prog := 2 }) (fun r => r.count == 2) = true ∧
    ends (.reduceGroup 0) 0x42 (oper 0x42 (2 * 2 ^ 384 + 64 * 2 ^ 512) { prog := 2 }) (fun r => r.count == 2) = true ∧
    ends (.prefetchTranslate 0) 0x50 (oper 0x50 (2 * 2 ^ 320) { prog := 2, cnts := [(0, 2)] }) (fun r => r.count == 2) = true ∧
    ends (.prefetchTier0 0) 0x50 (oper 0x50 (2 * 2 ^ 320 + 2 ^ 352) { prog := 2, cnts := [(1, 2)] }) (fun r => r.detail == 2) = true := by
  decide +kernel

theorem test_OperatorsEnd_advise : ends (.advisePin 0) 0x51 (oper 0x51 (2 * 2 ^ 320 + 2 ^ 352) { prog := 2 }) (fun r => r.status == stOk) = true ∧
    ends (.advisePin 0) 0x51 (oper 0x51 (2 * 2 ^ 320 + 2 ^ 352) { prog := 2, cnts := [(2, 1)] }) (fun r => r.status == stShort) = true ∧
    ends (.adviseUnpin 0) 0x51 (oper 0x51 (2 * 2 ^ 320 + 2 * 2 ^ 352) { prog := 2 }) (fun r => r.status == stOk) = true ∧
    ends (.adviseRemap 0) 0x51 (oper 0x51 (2 ^ 320 + 5 * 2 ^ 352) { prog := 16384, cnts := [(4, 1)] }) (fun r => r.status == stOk) = true ∧
    moves (.adviseRemap 0) 0x51 (oper 0x51 (2 ^ 320 + 5 * 2 ^ 352) { prog := 16384 }) (fun it => it.prog == 0 && itCnt it 4 == 1) = true ∧
    ends (.attend 0) 0x41 (oper 0x41 0 { prog := 2 }) (fun r => r.count == 1) = true := by decide +kernel

/-- An item that holds the tile at JVA 0 whole, of format 0. -/
def Slice0.holder : Item := { threads := [(0, { handles := [{ num := 0, jva := 0, data := { tag := 0, cells := [(0, 7)] } }] })], fetches := [{ st := .whole }] }

theorem test_GeneralOperatorUnits : good (needTile (oper 0x10 (2 ^ 384 + 2 ^ (320 + 30)) holder) 0 0) = true ∧
    good (itemStoreTile (oper 0x10 (2 ^ 384 + 2 ^ (320 + 30)) holder) 0 (2 ^ 30) 0 []) = true ∧
    moves (.fill 0) 0x11 (oper 0x11 (2 ^ (256 + 30) + 2 ^ 320 + 2 ^ 360)) (fun it => it.prog == 1) = true := by decide +kernel

theorem test_GeneralOperatorUnits_copy : moves (.copy 0) 0x10 (oper 0x10 (2 ^ 384 + 2 ^ (320 + 30)) holder) (fun it => it.prog == 1) = true := by
  decide +kernel

/-- One element of each array of binary32. -/
theorem test_GeneralOperatorUnits_reduce : moves (.reduceLocal 0) 0x42 (oper 0x42 (0 * 2 ^ 256 + 64 * 2 ^ 320 + 2 ^ 384)) (fun it => it.prog == 1) = true := by
  decide +kernel

/-- Units of the operators that prepare memory, on the tile at JVA 0, which maps to tile 0 of this module. -/
theorem test_PreparingOperatorUnits_prefetch : moves (.prefetchTranslate 0) 0x50 (oper 0x50 (2 ^ 320)) (fun it => it.prog == 1 && itCnt it 0 == 1) = true ∧
    moves (.prefetchTier0 0) 0x50 (oper 0x50 (2 ^ 320 + 2 ^ 352)) (fun it => it.prog == 1 && itCnt it 0 == 1) = true := by decide +kernel

theorem test_PreparingOperatorUnits_pin : moves (.advisePin 0) 0x51 (oper 0x51 (2 ^ 320 + 2 ^ 352)) (fun it => it.prog == 1 && itCnt it 0 == 1) = true ∧
    moves (.adviseUnpin 0) 0x51 (onT0 (oper 0x51 (2 ^ 320 + 2 * 2 ^ 352)) fun t => { t with
      slices := [(0, { tiles := [{ tile := 0, status := .whole, pinned := true }] })] }) (fun it => it.prog == 1 && itCnt it 0 == 1) = true := by
  decide +kernel

/-- A pairing of primary tile 0 with shadow tile 65,536 of a Dense extent 1. -/
theorem test_PreparingOperatorUnits_pair : runsB (onExt (oper 0x51 (2 ^ 320 + 3 * 2 ^ 352 + 2 ^ (384 + 31)) { prog := 1, coal := [0, 2 ^ 63 + 65536] })
      fun x => { x with tab := x.tab ++ [(1, { state := 3, job := 5, dense := true })] }) 0x51 = true ∧
    goes (.advisePair 0) (onExt (oper 0x51 (2 ^ 320 + 3 * 2 ^ 352 + 2 ^ (384 + 31)) { prog := 1, coal := [0, 2 ^ 63 + 65536] })
      fun x => { x with tab := x.tab ++ [(1, { state := 3, job := 5, dense := true })] }) (fun t => t.t0.pairs.length == 1) = true ∧
    ends (.adviseUnpair 0) 0x51 (onT0 (oper 0x51 (2 ^ 320 + 4 * 2 ^ 352)) fun t => { t with pairs := [{ job := 5, addr := 0, tiles := 1 }] })
      (fun r => r.count == 1) = true := by decide +kernel

/-- A page table at 1 MiB whose first leaf maps a page of 4 KiB at 0: each level's entry 0 names the next table. -/
def Slice0.tables : Tab Byte := putBytes (putBytes (putBytes (putBytes [] 0x100000 (natLe 8 (0x101 * 2 ^ 10 + 1))) 0x101000 (natLe 8 (0x102 * 2 ^ 10 + 1)))
  0x102000 (natLe 8 (0x103 * 2 ^ 10 + 1))) 0x103000 (natLe 8 0xDF)

/-- The module of `oper` with that page table as job 5's. -/
def Slice0.tabled (s : State) : State := onMem (onTrn s fun t => { t with jobs := [(0, jobRow 5 + BitVec.ofNat 512 (0x100 * 2 ^ 64))] }) fun m => { m with
  cells := tables }

/-- A leaf of 4 KiB moved from 0 to 2 MiB in the second pass. -/
theorem test_PreparingOperatorUnits_remap : moves (.adviseRemap 0) 0x51 (tabled (oper 0x51 (2 ^ 320 + 5 * 2 ^ 352 + 2 ^ (384 + 21)) { cnts := [(4, 1)] }))
    (fun it => it.prog == 4096 && itCnt it 0 == 1) = true := by decide +kernel

/-- A region of version 1 whose next version is 2. -/
theorem test_PreparingOperatorUnits_publish : ends (.publish 0) 0x60 (onExt (oper 0x60 (2 ^ 320)) fun x => { x with
    regions := [(0, some { job := 5, current := 1, versions := [{ num := 1 }] })] }) (fun r => r.status == stOk && r.detail == 2) = true := by decide +kernel

/-- A table descriptor: 64 rows of 16 binary32 elements at 64 KiB, 64 bytes each. -/
def Slice0.tbl : List Byte := natLe 64 (2 + 2 * 2 ^ 4 + 6 * 2 ^ 16 + 16 * 2 ^ 24 + 65536 * 2 ^ 64 + 64 * 2 ^ 256)

theorem test_SearchOperatorUnits_gather : moves (.gather 0) 0x20 (oper 0x20 (4096 * 2 ^ 320 + 2 * 2 ^ 384 + 8192 * 2 ^ 576)
    { prog := 2, buf := tbl, got := [(ringKey [(false, 0)], List.replicate 64 1)] }) (fun it => itCnt it 0 == 1) = true := by decide +kernel

/-- The optimizer descriptor is plain SGD with learning rate 1.0, its state at offset 64 of a row. -/
theorem test_SearchOperatorUnits_scatter : tblStatus (tbl.take 64) 0 true = none ∧
    moves (.scatterUpdate 0) 0x21 (onMem (oper 0x21 (4096 * 2 ^ 512) { prog := 1, buf := tbl }) fun m => { m with
      cells := putBytes [] 4096 (natLe 64 (2 + 3 * 2 ^ 4 + 4 * 2 ^ 16 + 0x3F800000 * 2 ^ 32)) }) (fun it => it.prog == 2) = true := by decide +kernel

theorem test_SearchOperatorUnits_ivf : ends (.ivfProbe 0) 0x30 (oper 0x30 (2 ^ 384 + 8 * 2 ^ 400 + 4096 * 2 ^ 448) { prog := 1, cnts := [(0, 1)] })
    (fun r => r.count == 1) = true := by decide +kernel

theorem test_SearchOperatorUnits_merge : moves (.topkMerge 0) 0x32 (onMem (oper 0x32 (2 ^ 320 + 4 * 2 ^ 336 + 4096 * 2 ^ 576)) fun m => { m with
      cells := putBytes [] 0 (natLe 4 (0x62 + 4 * 2 ^ 16)) }) (fun it => it.prog == 1) = true ∧
    ends (.topkMerge 0) 0x32 (oper 0x32 (2 ^ 320) { prog := 1, buf := List.replicate 64 0 }) (fun r => r.count == 1) = true := by decide +kernel

/-- A weight run of one segment of one tile, gated on the word at 64, at 4 KiB. -/
def Slice0.weights (s : State) : State := onMem s fun m => { m with
  cells := putBytes (putBytes [] 4096 (natLe 8 (2 + 9 * 2 ^ 4 + 2 ^ 8 + 2 ^ 32))) 4160 (natLe 40 (2 ^ 64 + 2 ^ 80 + 64 * 2 ^ 192)) }

/-- An item in that run: its gate closed, or its segment's stores sent. -/
def Slice0.inRun (opened sent : Bool) (pass seg : Nat := 0) (n : Nat := 1) : Item := { run := some {
  segs := List.replicate n { rt := 1, ct := 1, rdy := 64 }, passes := 1, gateLimit := 100, pass := pass, seg := seg, opened := opened, sent := sent } }

theorem test_RunOperatorUnits_matvec : moves (.matvec 0) 0x40 (weights (oper 0x40 (4096 * 2 ^ 256 + 8192 * 2 ^ 320 + 12288 * 2 ^ 448)))
    (fun it => it.run.any fun r => r.segs.length == 1 && !r.opened) = true := by decide +kernel

theorem test_RunOperatorUnits_gate : moves (.gateOpen 0) 0x40 (oper 0x40 0 (inRun false false)) (fun it => it.run.any (·.opened)) = true ∧
    ends (.gateExpired 0) 0x40 (oper 0x40 0 (inRun false false)) (fun r => r.status == 0xC0) = true := by decide +kernel

theorem test_RunOperatorUnits_segment : moves (.segmentComplete 0) 0x40 (oper 0x40 0 (inRun true true 0 0 2)) (fun it => it.run.any (·.seg == 1)) = true ∧
    ends (.segmentComplete 0) 0x40 (oper 0x40 0 (inRun true true)) (fun r => r.status == stOk) = true := by decide +kernel

/-- A key-value cache of binary32 with one head of 16 elements, scale 1.0, capacity 256, position 1. -/
theorem test_RunOperatorUnits_attend : moves (.attend 0) 0x41 (onMem (oper 0x41 (4096 * 2 ^ 256 + 2 ^ 416 + 8192 * 2 ^ 448)) fun m => { m with
    cells := putBytes [] 4096 (natLe 24 (2 + 10 * 2 ^ 4 + 16 * 2 ^ 32 + 0x3F800000 * 2 ^ 64 + 256 * 2 ^ 96)) }) (fun it => it.prog == 1) = true := by
  decide +kernel

/-! ## Sites, tier 0, slots -/

theorem test_SiteWorkCompletes : siteRuns run0 0 = true ∧
    goes (.scrubRead 0 []) run0 (fun t => (siteAt t 0).row == 1) = true ∧
    goes (.scrubWriteBack 0 64) (onSite run0 0 fun v => { v with scrubbed := [1] }) (fun t => (siteAt t 0).scrubbed == []) = true ∧
    (siteAt (onSite run0 0 fun v => { v with scrubbed := [1] }) 0).scrubbed.contains (lineOf 64) = true ∧ extPresent run0 64 = true ∧
    (prepWrite (onSite run0 0 fun v => { v with scrubbed := [1] }) 1 true).2 = true := by decide +kernel

theorem test_SiteWorkCompletes_commands : goes (.refreshRateRead []) run0 = true ∧ goes (.perBankRefresh 31 7 1 15) run0 = true ∧
    siteRuns run0 31 = true ∧ goes (.channelIssue 0 7) run0 = true ∧ goes .aggressorTableClear run0 = true := by decide +kernel

/-- One read queued at pt 4998: two pt old at pt 5000. -/
def Slice0.aged : State := onSites run0 fun x => { x with chans := [(0, ({ reads := [{ line := 1, sincePt := 4998 }], nextNo := 1 } : Chan))] }

theorem test_SiteWorkCompletes_aged : (tget {} aged.sites.chans 0).reads = [{ line := 1, sincePt := 4998 }] ∧ (tget {} aged.sites.chans 0).writes = [] ∧
    (tget {} aged.sites.chans 0).urgent = none ∧ goes (.requestAgeExpire 0 0) aged (fun t => (tget {} t.sites.chans 0).urgent == some 0) = true := by
  decide +kernel

/-- Tile 0 in Hearth 0's slice, in the given status. -/
def Slice0.tier (st : T0Status) : State := onT0 run0 fun t => { t with slices := [(0, { tiles := [{ tile := 0, status := st, job := 5 }] })] }

theorem test_TierZeroMovesComplete : goes (.tileFillComplete 0 0) (tier (.filling 4998)) (fun t => (t0Tile t 0).any (·.status == .whole)) = true ∧
    goes (.tileFillAbandon 0 0) (tier (.filling 4998)) (fun t => (t0Tile t 0).isNone && t.t0.abandoned == 1) = true ∧
    goes (.hotTilePeriod 0) (tier .whole) = true := by decide +kernel

theorem test_TierZeroMovesComplete_evict : ((t0Slice (tier .evicting) 0).tiles.find? (·.tile = 0)).any (·.status == .evicting) = true ∧ tileHearth 0 = 0 := by
  decide +kernel

/-- An item whose fetch 0 of the tile at JVA 0 runs under a budget of 100 pt. -/
def Slice0.fetching : State := oper 0x70 0 { fetches := [{ issued := 4000, budget := some 100 }] }

theorem test_TileFetchesComplete : (nth {} (((itemOf fetching 0).getD {}).fetches) 0).st = .fetching ∧ good (readTile fetching 0 0 0) = true ∧
    goes (.fetchBudgetLapse 0 0) fetching (fun t => (itemOf t 0).any fun it => it.fetches.any (·.budget.isNone)) = true := by decide +kernel

/-- A thread that has waited for the promotion pool since pt 0. -/
theorem test_TileFetchesComplete_pool : goes (.tldPoolTimeout t0) (onClk (kern (word 2 0 3 1) { th0 with wait := .pool 0 }) fun c => { c with pilot := 20000 })
      (fun t => (threadOf t t0).wait == .none) = true ∧ usPassed 0 20000 10000 = true := by decide +kernel

/-- The window at 64 KiB with one slot, whose flag byte is `flag`, of operator NOP, generation 7, placement 1, under context 0. -/
def Slice0.windowed (flag : Byte) (s : State := run0) : State := onMem (onSched (onCtx s fun _ =>
    [(0, { isOpen := true, job := 5, link := 96, win := some { base := 0x10000, nslots := 1, pages := [0x10000], changed := true } })])
    fun _ => [(0, { queue := [{ ctx := 0, slot := 0, detect := 4000 }], running := true })]) fun m => { m with
  cells := putBytes [] 0x10100 [flag, 0, 1, 0, 7, 0, 0, 0, 0, 0, 0, 0, 0, 0, 0, 0, 0, 0, 0, 0, 0, 0, 1] }

/-- A NOP item that runs for that slot. -/
def Slice0.taken : Item := { gen := 7, place := 1, hearth := 0, stove := 0, crew := 1, result := some {} }

theorem test_SlotsAndItemsComplete_take : (choose (windowed 1) 0 (ranked (windowed 1) 0) []).2.isSome = true ∧
    goes (.slotTake 0) (onPwr (windowed 1) fun p => { p with domains := BitVec.allOnes 30 }) (fun t => t.stv.items.length == 1) = true := by decide +kernel

theorem test_SlotsAndItemsComplete_end : goes (.itemComplete 0) (oper 1 0 taken (windowed 2)) (fun t => (tget 0 t.mem.cells 0x10100) == 3) = true ∧
    goes (.cancelDrainDone 0) (oper 1 0 { taken with result := none, cancelled := true } (windowed 5)) (fun t => (tget 0 t.mem.cells 0x10100) == 4) = true := by
  decide +kernel

theorem test_SlotsAndItemsComplete_move : goes (.itemMove 0 31) (oper 1 0 { taken with result := none } (windowed 2))
      (fun t => (itemOf t 0).any fun it => it.stove == 31 && it.place == 2) = true ∧
    goes (.windowCounterUpdate 0) (windowed 1) (fun t => (ctxOf t 0).win.any fun w => !w.changed) = true ∧
    goes (.stoveDomainPowered 7) (onPwr run0 fun p => { p with domains := p.domains &&& ~~~(BitVec.ofNat 30 128), returning := [(7, some 4000)] })
      (fun t => t.pwr.domains.getLsbD 7) = true := by decide +kernel

/-- A code object of one word, EXIT 0, at 8 KiB. -/
def Slice0.coded : State := onMem (oper 0x70 (8192 * 2 ^ 256 + 100 * 2 ^ 320) { crew := 1, codeTiles := 1 }) fun m => { m with
  cells := putBytes [] 8192 (natLe 64 (2 + 2 ^ 4 + 2 ^ 16 + 2 ^ 64 + 2 ^ 106 + crc32c (natLe 8 (word 10 5).toNat) * 2 ^ 128) ++ natLe 8 (word 10 5).toNat) }

theorem test_KernelsComplete_read : moves (.kernelCodeRead 0) 0x70 coded (fun it => it.code == some [word 10 5]) = true := by decide +kernel

/-- The crew starts with its thread number, its size, the JVA of its slot and its job (R110). -/
theorem test_KernelsComplete_start : moves (.kernel 0) 0x70 (oper 0x70 0 { crew := 2, code := some [word 10 5] } (windowed 2))
    (fun it => it.validated && it.threads == [(0, { s := [(1, 2), (2, 0x10100), (3, 5)] }), (1, { s := [(0, 1), (1, 2), (2, 0x10100), (3, 5)] })]) = true := by
  decide +kernel

theorem test_KernelsComplete_limit : goes (.runLimitExpire 0) (onStv coded fun v => { v with
    items := v.items.map fun it => { it with kernel := true, validated := true, prog := 4900 } }) (fun t => (itemOf t 0).any fun it => it.result.any (·.status == stTimeout)) = true := by
  decide +kernel

/-! ## Requests: what Safety.lean says of their way, computed -/

/-- `admitted`, computed. -/
def Slice0.admittedOf (s : State) (a : Arrival) (f : Frame) : Option (State × Req) :=
  match arrive s a f with
  | (s0, some r0) => if notServing s0 then none else match assemble s0 r0 with
    | (s1, some r) => some (s1, r)
    | _ => none
  | _ => none

theorem Slice0.admittedOf_sound {s s1 : State} {a : Arrival} {f : Frame} {r : Req} (h : admittedOf s a f = some (s1, r)) : admitted s a f s1 r := by
  unfold admittedOf at h
  split at h
  · rename_i s0 r0 h0
    split at h
    · cases h
    · rename_i hn
      split at h
      · rename_i s2 r2 h2
        cases h
        exact ⟨s0, r0, h0, by simpa using hn, h2⟩
      · cases h
  · cases h

/-- `atOwner`, computed. -/
def Slice0.atOwnerOf (s : State) (a : Arrival) (f : Frame) : Option (State × Req) :=
  match admittedOf s a f with
  | some (s0, r) =>
    if r.f.leg = true ∧ (r.f.typ = tContrib ∨ r.f.typ = tDeliver ∨ (r.f.typ = tCoh ∧ cohRequest r.f = false) ∨ ownerEarly s0 r.f = none) ∧
      (r.f.cell = s0.boot.cell → epochDist s0 r.f ≤ 128) ∧ judgeFabric s0 r.f = .run ∧ (enterWindow s0 r.f).2 = true
    then some ((enterWindow s0 r.f).1, r) else none
  | none => none

theorem Slice0.atOwnerOf_sound {s s1 : State} {a : Arrival} {f : Frame} {r : Req} (h : atOwnerOf s a f = some (s1, r)) : atOwner s a f s1 r := by
  unfold atOwnerOf at h
  split at h
  · rename_i s0 r0 h0
    split at h
    · rename_i c
      cases h
      exact ⟨s0, admittedOf_sound h0, c.1, c.2.1, c.2.2.1, c.2.2.2.1, by rw [← c.2.2.2.2]⟩
    · cases h
  · cases h

/-- `atEntry`, computed. -/
def Slice0.atEntryOf (s : State) (a : Arrival) (f : Frame) : Option (State × Req) :=
  match admittedOf s a f with
  | some (s0, r) =>
    if r.f.leg = false ∧ r.f.typ ≠ tCtxOpen ∧ r.f.typ ≠ tCtxClose ∧ ctxStatus s0 r.a r.f = none ∧
      (r.f.typ = tCoh → isService r.a.link = false ∧ hasAgent s0 r.a.link = true ∧ memberCutNow s0 r.a.link = false ∧
        ((cohCtx s0 r.a.link).any fun c => c.1 ≠ r.f.srcCtx) = false) ∧
      judgePartner s0 r.f = .run ∧ (ctxOf s0 r.f.srcCtx).closing = none ∧ (enterWindow s0 r.f).2 = true
    then some (addLeg (enterWindow s0 r.f).1 r.f, entered (enterWindow s0 r.f).1 r) else none
  | none => none

theorem Slice0.atEntryOf_sound {s s1 : State} {a : Arrival} {f : Frame} {r : Req} (h : atEntryOf s a f = some (s1, r)) : atEntry s a f s1 r := by
  unfold atEntryOf at h
  split at h
  · rename_i s0 r0 h0
    split at h
    · rename_i c
      cases h
      exact ⟨s0, r0, _, admittedOf_sound h0, c.1, c.2.1, c.2.2.1, c.2.2.2.1, c.2.2.2.2.1, c.2.2.2.2.2.1, c.2.2.2.2.2.2.1,
        by rw [← c.2.2.2.2.2.2.2], rfl, rfl⟩
    · cases h
  · cases h

/-- The state and leaf of a translation that answers. -/
def Slice0.xlated (x : State × Xr) : Option (State × Nat × Leaf) := match x with | (s, .ok m l) => some (s, m, l) | _ => none

/-- `mapsHere` of a request that is not for a tile, computed. -/
def Slice0.mapsOf (s : State) (r : Req) : Option (State × Req) :=
  match xlated (translate s (.req r) r.f.job r.f.jva.toNat (if r.f.typ = tLease || r.f.typ = tSnap then 0 else reqAcc r.f) s.clk.pilot) with
  | some (s2, m, l) =>
    let r1 : Req := { r with f := { r.f with mpa := BitVec.ofNat 64 m }, nc := decide (l.pbmt = 1) }
    let s1 := legDest s2 r.f (selfDev s2)
    if isTileReq r.f = false ∧ mpaDev m = selfDev s2 ∧ slotCheck s1 r1.f = .serve ∧ (ownRules r.f.typ = true ∨ admitCheck s1 r1.f = none)
    then some (s1, r1) else none
  | none => none

theorem Slice0.mapsOf_sound {s s1 : State} {r r1 : Req} (h : mapsOf s r = some (s1, r1)) : mapsHere s r s1 r1 := by
  unfold mapsOf at h
  split at h
  · rename_i s2 m l h0
    simp only at h
    split at h
    · rename_i c
      cases h
      have ht : translate s (.req r) r.f.job r.f.jva.toNat (if r.f.typ = tLease || r.f.typ = tSnap then 0 else reqAcc r.f) s.clk.pilot =
          (s2, .ok m l) := by
        unfold xlated at h0; split at h0
        · rename_i e; cases h0; exact e
        · cases h0
      refine ⟨s2, m, decide (l.pbmt = 1), ?_, c.2.1, rfl, rfl, c.2.2.1, c.2.2.2⟩
      rw [if_neg (by simp [c.1])]
      exact ⟨l, ht, rfl⟩
    · cases h
  · cases h

/-- `comesHome` of a partner's request that is not for a tile, computed. -/
def Slice0.partnerOf (s : State) (a : Arrival) (f : Frame) : Option (State × Req) :=
  match atEntryOf s a f with
  | some (s0, r) => if fieldsBad r.f then none else mapsOf s0 r
  | none => none

theorem Slice0.partnerOf_sound {s s1 : State} {a : Arrival} {f : Frame} {r : Req} (h : partnerOf s a f = some (s1, r)) : comesHome s a f s1 r := by
  unfold partnerOf at h
  split at h
  · rename_i s0 r0 h0
    split at h
    · cases h
    · rename_i c
      exact .inr ⟨s0, r0, atEntryOf_sound h0, by simpa using c, mapsOf_sound h⟩
  · cases h

/-- `comesHome` of another module's request, computed. -/
def Slice0.fabricOf (s : State) (a : Arrival) (f : Frame) : Option (State × Req) :=
  match atOwnerOf s a f with
  | some (s0, r) =>
    match confirm s0 r.f with
    | (.passed nc, s2) =>
      if slotCheck s0 r.f = .serve ∧ (ownRules r.f.typ = true ∨ admitCheck s0 r.f = none) ∧ isWalker r.f = false ∧ functionOk (dropTables s2) r.f = true
      then some (dropTables s2, { r with nc := nc }) else none
    | _ => none
  | none => none

theorem Slice0.fabricOf_sound {s s1 : State} {a : Arrival} {f : Frame} {r : Req} (h : fabricOf s a f = some (s1, r)) : comesHome s a f s1 r := by
  unfold fabricOf at h
  split at h
  · rename_i s0 r0 h0
    split at h
    · rename_i nc s2 h2
      split at h
      · rename_i c
        cases h
        exact .inl ⟨s0, r0, atOwnerOf_sound h0, c.1, c.2.1, .inr ⟨s2, nc, c.2.2.1, h2, rfl, c.2.2.2, rfl⟩⟩
      · cases h
    · cases h
  · cases h

/-- `servedAt` of a request that comes home, computed. -/
def Slice0.servedOf (h : Option (State × Req)) : Option (Nat × State × Req) :=
  match h with
  | some (s0, r0) =>
    let b := beginAdmitted s0 r0
    let l := reqLine b.1 b.2
    let o := orderReq b.1 b.2 l
    if txOf b.1 l = none ∧ lockOf b.1 l = none ∧ trackerFree b.1 l = true ∧ beforeServe o.1 o.2 [] l (decide (o.2.stage = 2)) = .nothing ∧
      (r0.f.typ = tCoh → ((agentOf b.1 b.2.f).any fun k => !isCutOff b.1 k) = true ∧ b.1.home.devWait = [])
    then some (l, o.1, o.2) else none
  | none => none

theorem Slice0.servedOf_sound {s s1 : State} {a : Arrival} {f : Frame} {l : Nat} {r : Req} {x : Option (State × Req)}
    (hx : ∀ s0 r0, x = some (s0, r0) → comesHome s a f s0 r0) (h : servedOf x = some (l, s1, r)) : servedAt s a f l s1 r := by
  unfold servedOf at h
  split at h
  · rename_i s0 r0
    simp only at h
    split at h
    · rename_i c
      cases h
      refine ⟨s0, r0, hx s0 r0 rfl, ⟨c.1, c.2.1, c.2.2.1, rfl, c.2.2.2.1⟩, rfl, fun ht => ?_⟩
      obtain ⟨h1, h2⟩ := c.2.2.2.2 ht
      cases hk : agentOf (beginAdmitted s0 r0).1 (beginAdmitted s0 r0).2.f with
      | none => rw [hk] at h1; cases h1
      | some k => rw [hk] at h1; exact ⟨k, rfl, by simpa using h1, h2⟩
    · cases h
  · cases h

/-- `messageAt` of another module's message, computed. -/
def Slice0.messageOf (s : State) (a : Arrival) (f : Frame) : Option (Nat × State × Req) :=
  match atOwnerOf s a f with
  | some (s1, r) =>
    match agentOf s1 r.f with
    | some k =>
      if cohRequest r.f = false ∧ listedMsg (cohMsg r.f) = true ∧ cohMsg r.f < 0x20 ∧ (cohData (cohMsg r.f) = true → r.f.payload.length = 64) ∧
        r.f.mpa.toNat % 64 = 0 ∧ mpaDev r.f.mpa.toNat = selfDev s1 ∧ isCutOff s1 k = false then some (k, s1, r) else none
    | none => none
  | none => none

theorem Slice0.messageOf_sound {s s1 : State} {a : Arrival} {f : Frame} {k : Nat} {r : Req} (h : messageOf s a f = some (k, s1, r)) :
    messageAt s a f k s1 r := by
  unfold messageOf at h
  split at h
  · rename_i s0 r0 h0
    split at h
    · rename_i k0 hk
      split at h
      · rename_i c
        cases h
        exact ⟨.inl (atOwnerOf_sound h0), c.1, c.2.1, c.2.2.1, c.2.2.2.1, c.2.2.2.2.1, c.2.2.2.2.2.1, hk, c.2.2.2.2.2.2⟩
      · cases h
    · cases h
  · cases h

/-- The module with a partner's agent on link 0 (context 0, coherent) and another module of the cell on link 1. -/
def Slice0.net0 : State := { run0 with
  cfg := { flues := [(0, { en := true, roles := 3 + 1 * 4 })] }
  ctx := [(0, { isOpen := true, job := 5, link := 0, coh := true })]
  links := { tab := [(0, { up := true, hello := some { maxrev := 2, role := 2, maxpay := 4096, features := 0xFF } }),
                     (1, { up := true, hello := some { maxrev := 2, dev := 1, pos := 1, maxpay := 4096, features := 0xFF } })] } }

/-- A request of the partner, and one of the other module, each the first of its window. -/
def Slice0.ask (typ : Nat) (f : Frame := {}) : Frame := { f with typ := typ, job := 5, seq := 1, len := f.payload.length }
def Slice0.far (typ : Nat) (f : Frame := {}) : Frame := { f with typ := typ, leg := true, srcDev := 1, job := 5, seq := 1, sync := true, len := f.payload.length }

/-- Where each comes in. -/
def Slice0.on0 : Arrival := { link := 0 }
def Slice0.on1 : Arrival := { link := 1 }

/-- The partner's request, or the other module's, is served at line `l`, in a state and as a request of which `p` holds. -/
def Slice0.mine (f : Frame) (p : State → Req → Bool := fun _ _ => true) (s : State := net0) : Bool :=
  (servedOf (partnerOf s on0 f)).any (fun x => x.1 == 0 && p x.2.1 x.2.2) && !inTransit s f
def Slice0.theirs (f : Frame) (p : State → Req → Bool := fun _ _ => true) (s : State := net0) : Bool :=
  (servedOf (fabricOf s on1 f)).any (fun x => x.1 == 0 && p x.2.1 x.2.2) && !inTransit s f

/-- Sixty-four bytes. -/
def Slice0.line64 : List Byte := List.replicate 64 0xA5

theorem test_MemoryRequestsServed : mine (ask tRead) (fun s _ => !isPoisoned s 0) = true ∧
    mine (ask tRead) (fun s _ => isPoisoned s 0) (setPoison net0 0) = true ∧
    mine (ask tWrite { opa := 1, payload := line64 }) (fun s _ => !isPoisoned s 0) = true ∧
    mine (ask tWrite { opa := BitVec.allOnes 64, payload := line64 }) (fun s _ => isPoisoned s 0) (setPoison net0 0) = true ∧
    mine (ask tWritePush { payload := line64 }) = true := by decide +kernel

theorem test_MemoryRequestsServed_others : mine (ask tAtomic { opa := 3 * 2 ^ 8 }) (fun s _ => !isPoisoned s 0) = true ∧
    theirs (far tTileRead) (fun s r => !isPoisoned s 0 && r.part == 0 && (txOf s 1).isNone && (lockOf s 1).isNone) = true ∧
    theirs (far tTileWrite { fragsM1 := 0, payload := [] }) = true := by decide +kernel

/-- A WRITE that names byte 0 changes byte 0 alone (R204). -/
theorem test_write_mask : goes (.write on0 (ask tWrite { opa := 1, payload := line64 })) net0 (fun t => t.mem.cells == [(0, 0xA5)]) = true := by decide +kernel

/-- A READ of the partner is answered OK with the line. -/
theorem test_read_answer : goes (.read on0 (ask tRead)) (onMem net0 fun m => { m with cells := [(63, 9)] }) (fun t =>
    ((tget {} t.links.tab 0).tx.any fun x => x.2.f.typ == tRead + 128 && x.2.f.status == stOk && x.2.f.payload == List.replicate 63 0 ++ [9])) = true := by
  decide +kernel

/-- The agent of link 0 holds line 0 shared, and exclusive. -/
def Slice0.held (h : HomeSt) : State := setHome net0 0 (some h)

theorem test_CoherenceRequestsServed : (∀ m ∈ [1, 2, 3, 4], mine (ask tCoh { opa := BitVec.ofNat 64 (m + 3 * 2 ^ 16) })
      (fun s r => !isPoisoned s 0 && !r.nc && (homeOf (countCoh s 0 0) 0).isNone) = true) ∧
    cohMsg (ask tCoh { opa := BitVec.ofNat 64 (4 + 3 * 2 ^ 16) }) = 4 := by decide +kernel

theorem test_CoherenceRequestsServed_upgrade : mine (ask tCoh { opa := 3 }) (fun s r => !isPoisoned s 0 && !r.nc &&
      (ownAgents s r []).any (fun k => k == 0) && homeOf (countCoh s 0 0) 0 == some (.s [{ agent := 0 }])) (held (.s [{ agent := 0 }])) = true := by
  decide +kernel

/-- An ATOM near, and one far, as the line's predictor stands. -/
theorem test_CoherenceRequestsServed_atom : mine (ask tCoh { opa := BitVec.ofNat 64 (4 + 3 * 2 ^ 16) }) (fun _ r => r.stage ≠ 2) = true ∧
    mine (ask tCoh { opa := BitVec.ofNat 64 (4 + 3 * 2 ^ 16) }) (fun _ r => r.stage = 2)
      (onHome net0 fun h => { h with pred := [(0, 3)] }) = true := by decide +kernel

/-- A message of the agent on link 3 of the other module (agent 131) comes to the home, in a state and as a request of which `p` holds. -/
def Slice0.tells (m : Nat) (s : State) (p : State → Req → Bool := fun _ _ => true) (f : Frame := {}) : Bool :=
  (messageOf s on1 (far tCoh { f with opa := BitVec.ofNat 64 m, srcLink := 3 })).any (fun x => x.1 == 131 && p x.2.1 x.2.2) &&
    !inTransit s (far tCoh { f with opa := BitVec.ofNat 64 m, srcLink := 3 })

/-- Nothing stands before that request at line 0. -/
def Slice0.turn (s : State) (r : Req) (p : State → Req → Bool) : Bool :=
  (txOf s 0).isNone && (lockOf s 0).isNone && trackerFree s 0 && reqLine s r == 0 &&
    beforeServe (orderReq s r 0).1 (orderReq s r 0).2 [] 0 (decide ((orderReq s r 0).2.stage = 2)) == .nothing && p (orderReq s r 0).1 (orderReq s r 0).2

theorem test_CoherenceMessagesServed_shared : tells 5 (held (.s [{ agent := 131 }])) (fun s r => turn s r fun t q =>
      agentOf t q.f == some 131 && homeOf t 0 == some (.s [{ agent := 131 }])) = true ∧
    tells 8 (held (.x { agent := 131 })) (fun s r => (txOf s 0).isNone && (holdersOf (homeOf s 0)).any fun h => some h.agent == agentOf s r.f) = true := by
  decide +kernel

theorem test_CoherenceMessagesServed_owned : (∀ m ∈ [6, 7], tells m (held (.x { agent := 131 })) (fun s r => !snoopedNow s 0 131 && turn s r fun t q =>
      (ownerOf t 0).any fun o => decide (some o.agent = agentOf t q.f)) { payload := line64 } = true) := by decide +kernel

/-- The home has sent the agent snoop 1 for line 0. -/
def Slice0.snooping : State := onSlice (held (.x { agent := 131 })) 0 fun x => { x with
  txs := [{ line := 0, snoops := [{ agent := 131, msg := 0x20, id := 1, sentPt := 4000 }] }] }

theorem test_CoherenceMessagesServed_acks : ∀ m ∈ [0x10, 0x11, 0x12, 0x13, 0x14], tells (m + 2 ^ 32) snooping
    (fun s r => (answeredSnoop s r.f 0).isSome && !r.f.opb.getLsbD 32) { payload := if cohData m then line64 else [] } = true := by decide +kernel

/-! ## Leases and regions -/

/-- Extent 0 in the given entry, with the given regions. -/
def Slice0.ext0 (e : Ext) (rs : Tab (Option Region) := []) (snaps : List SLease := []) : State := onExt net0 fun x => { x with
  tab := [(0, e)], regions := rs, snaps := snaps }

/-- A partner's LEASE, SNAP or PUBLISH request comes home, in a state and as a request of which `p` holds. -/
def Slice0.home (f : Frame) (s : State) (p : State → Req → Bool) : Bool :=
  (partnerOf s on0 f).any (fun x => !recordNames x.1 (mpaLpa x.2.f.mpa.toNat) && p x.1 x.2) && !inTransit s f

theorem test_LeaseRequestsServed_acquire : home (ask tLease { opa := 1 }) (ext0 { state := 2, job := 5 }) (fun s r => lopOf r.f == 1 &&
      (extN s 0).state == 2 && !(extN s 0).vpool && (extN s 0).job == r.f.job && !movingOut s 0 && (liveLeases s).length < 131072) = true ∧
    goes (.leaseAcquire on0 (ask tLease { opa := 1, opb := 1024000 })) (ext0 { state := 2, job := 5 }) (fun t => (extN t 0).state == 3) = true := by
  decide +kernel

theorem test_LeaseRequestsServed_others : (∀ o ∈ [2, 3, 4], home (ask tLease { opa := BitVec.ofNat 64 (o + 2 ^ 32) })
      (ext0 { state := 3, job := 5, leaseNo := 1, leaseEnd := 9000 }) (fun s r => match namedLease s r.f with | .extent k _ => k == 0 | _ => false) = true) ∧
    goes (.leaseRenew on0 (ask tLease { opa := 2, opb := 0 })) (ext0 { state := 3, job := 5, leaseNo := 1, leaseEnd := 9000 }) = true := by
  decide +kernel

/-- Region 0 of job 5 at version 1, and a snapshot lease of context 0 on it. -/
def Slice0.reg1 : Region := { job := 5, current := 1, versions := [{ num := 1 }] }
def Slice0.snap1 : SLease := { no := 7, job := 5, region := 0, version := 1, endPt := 9000 }
def Slice0.leased : Ext := { state := 3, job := 5, leaseNo := 1, leaseEnd := 9000000 }

theorem test_SnapRequestsServed_create : home (ask tSnap { opa := 1 }) (ext0 leased) (fun s r => sopOf r.f == 1 && (regionAt s 0).isNone &&
      (admission s 0 r.f.job r.f.srcDev 0xFFFF false).isNone && s.ext.regions.length < 65536) = true ∧
    goes (.snapCreate on0 (ask tSnap { opa := 1 })) (ext0 leased) (fun t => (liveRegion t 0).any (·.current == 1)) = true := by decide +kernel

theorem test_SnapRequestsServed_open : home (ask tSnap { opa := 0x12 }) (ext0 leased [(0, some reg1)]) (fun s r => sopOf r.f == 2 && r.f.opa.getLsbD 4 &&
      (liveRegion s 0).any (fun g => g.job == r.f.job && (g.versions.find? (·.num = g.current)).any (fun v => !v.lost)) &&
      (viewLease s 0 r.f.job r.f.srcDev r.f.srcCtx).isNone && (liveLeases s).length < 131072) = true ∧
    goes (.snapOpen on0 (ask tSnap { opa := 0x12 })) (ext0 leased [(0, some reg1)]) (fun t => t.ext.snaps.any (·.version == 1)) = true := by decide +kernel

theorem test_SnapRequestsServed_others : home (ask tSnap { opa := 3 }) (ext0 leased [(0, some reg1)] [snap1]) (fun s r => sopOf r.f == 3 &&
      (regionAt s 0).isSome && (viewLease s 0 r.f.job r.f.srcDev r.f.srcCtx).isSome) = true ∧
    (∀ o ∈ [4, 5], home (ask tSnap { opa := BitVec.ofNat 64 o }) (ext0 leased [(0, some reg1)]) (fun s r => sopOf r.f == o &&
      (liveRegion s 0).any (·.job == r.f.job)) = true) ∧
    goes (.snapClose on0 (ask tSnap { opa := 3 })) (ext0 leased [(0, some reg1)] [snap1]) (fun t => t.ext.snaps.isEmpty) = true := by decide +kernel

/-- A lease named by a snapshot's number (R319). -/
theorem test_LeaseRequestsServed_snap : home (ask tLease { opa := BitVec.ofNat 64 (4 + 7 * 2 ^ 32) }) (ext0 leased [(0, some reg1)] [snap1])
    (fun s r => namedLease s r.f == .snap snap1) = true := by decide +kernel

/-- Another module's request comes home, in a state and as a request of which `p` holds. -/
def Slice0.homeFar (f : Frame) (s : State) (p : State → Req → Bool) : Bool :=
  (fabricOf s on1 f).any (fun x => !recordNames x.1 (mpaLpa x.2.f.mpa.toNat) && p x.1 x.2) && !inTransit s f

theorem test_PublishAndScatterServed_publish : homeFar (far tPublish { opa := 1 }) (ext0 leased [(0, some reg1)]) (fun s r =>
      (tget none s.ext.regions 0).any (fun g => g.copying.isNone && !g.destroying && g.job == r.f.job) && (publishStop s 0 1 r.f.job).isNone &&
      (prepReads s (ownedLines s 0)).2) = true ∧
    homeFar (far tPublish { opa := 9 }) (ext0 leased [(0, some reg1)]) (fun s r => (tget none s.ext.regions 0).any (fun g => g.copying.isNone &&
      !g.destroying && g.job == r.f.job && g.current ≠ 9) && (extOf s 0).state == 3) = true ∧
    goes (.publishRequest on1 (far tPublish { opa := 1 })) (ext0 leased [(0, some reg1)]) (fun t => (liveRegion t 0).any (·.current == 2)) = true := by
  decide +kernel

/-- A row of 16 binary32 elements at LPA 0, plain SGD with learning rate 1.0, a Dense gradient of zeros, from the other module. -/
def Slice0.scatter : Frame := far tScatter { opa := BitVec.ofNat 64 (2 ^ 8 + 16 * 2 ^ 16), payload := natLe 64 (2 + 3 * 2 ^ 4 + 4 * 2 ^ 16 + 0x3F800000 * 2 ^ 32) ++ List.replicate 64 0 }

theorem test_PublishAndScatterServed_scatter : ((fabricOf net0 on1 scatter).any fun x =>
      let b := beginAdmitted x.1 x.2
      let j := (scatterJob b.2.f).1
      let lpas := ownerLpas b.1 b.2.f (rowOffs (optOf j.opt) j.dim j.fmt)
      !scatterBad b.2.f && (optStatus j.opt j.dim j.fmt (2 ^ 22) j.step).isNone && (lpas.all fun x => decide (lpaExt x = lpaExt (lpas.headD 0))) &&
        (prepWrites b.1 false (lpas.map lineOf)).2 && !((lpas.map lineOf).any (isPoisoned b.1))) = true := by decide +kernel

/-! ## Groups, fences, contexts, links -/

/-- A group of job 5 (number 9) at JVA 4,096 with one child, device 1, whose Hearth 0 contributes: a root whose delivery slot lies at
8 KiB, or a node below device 1. -/
def Slice0.grp (rounds : List Round) (root : Bool := true) : Reg := {
  job := 5, gid := 9, lpa := 4096, children := [1], rounds := rounds
  desc := BitVec.ofNat 512 (2 + 4 * 2 ^ 4 + b2n root * 2 ^ 11 + 2 ^ 16 + 2 ^ 24 + 9 * 2 ^ 32 + b2n (!root) * 2 ^ 64 + 2 * 2 ^ 80 + 8192 * 2 ^ 128 + 64 * 2 ^ 192) }
def Slice0.grouped (rounds : List Round) (root : Bool := true) (s : State := net0) : State := onChim s fun c => { c with regs := [grp rounds root] }

/-- The last chunk of a sum: 16 binary32 zeros. -/
def Slice0.lastOpa : W64 := BitVec.ofNat 64 (9 + 2 ^ 36)
def Slice0.zeros : List Byte := List.replicate 64 0

/-- Another module's request comes to its owner in a state and as a request of which `p` holds. -/
def Slice0.owned (f : Frame) (s : State) (p : State → Req → Bool) : Bool := (atOwnerOf s on1 f).any (fun x => p x.1 x.2) && !inTransit s f

theorem test_GroupCommandsComplete_contrib : owned (far tContrib { opa := lastOpa, payload := zeros }) (grouped []) (fun s r =>
      (jobEntry s r.f.job).isSome && (s.chim.regs.find? (fun x => decide (x.job = r.f.job) && decide (x.gid = fld r.f.opa.toNat 0 24))) == some (grp []) &&
      (grp []).children.contains r.f.srcDev && !roundOver (grp []) 0 && gOp (grp []) ≠ 3 && !gFine (grp []) && !tbit r.f.opa.toNat 35 &&
      good (absorb s (grp []) 0 { child := true, who := r.f.srcDev, chunk := 0, last := true, opa := r.f.opa, lanes := List.replicate 16 0 })) = true := by
  decide +kernel

/-- The round that a delivery ends at a node below device 1: combined, nothing delivered yet. -/
def Slice0.rd0 : Round := { n := 0, firstPt := 100, combined := true }

theorem test_GroupCommandsComplete_deliver : owned (far tDeliver { opa := lastOpa, payload := zeros }) (grouped [rd0] false) (fun s r =>
      (s.chim.regs.find? (fun x => decide (x.job = r.f.job) && decide (x.gid = fld r.f.opa.toNat 0 24))) == some (grp [rd0] false) &&
      r.f.srcDev == gFld (grp [rd0] false) 64 14 && !roundOver (grp [rd0] false) 0 && roundOf (grp [rd0] false) 0 == some rd0 && !tbit r.f.opa.toNat 35 &&
      good (writeSlot s (grp [rd0] false) 0 0 r.f.opa r.f.payload) && (addRdy s (grp [rd0] false)).2) = true ∧
    goes (.deliver on1 (far tDeliver { opa := lastOpa, payload := zeros })) (grouped [rd0] false) (fun t => (regAt t 4096).any fun g =>
      g.rounds.isEmpty && g.doneUpTo == 1) = true := by decide +kernel

/-- A chunk that is not the last leaves its round open. -/
theorem test_GroupCommandsComplete_deliver_more : owned (far tDeliver { opa := 9, payload := zeros }) (grouped [rd0] false) (fun s r =>
      good (writeSlot s (grp [rd0] false) 0 0 r.f.opa r.f.payload) && rd0.lastChunk.isNone) = true ∧
    goes (.deliver on1 (far tDeliver { opa := 9, payload := zeros })) (grouped [rd0] false) (fun t => (regAt t 4096).any fun g =>
      g.rounds.any (·.delivered == [0])) = true := by decide +kernel

/-- A round that holds what Hearth 0 and the child have given. -/
def Slice0.full0 : Round := {
  n := 0
  firstPt := 100
  parts := [{ who := 0, last := true, lanes := List.replicate 16 0 }, { child := true, who := 1, last := true, lanes := List.replicate 16 0 }] }

theorem test_GroupCommandsComplete_round : roundFull (grp [full0] false) full0 = true ∧ gRoot (grp [full0] false) = false ∧
    regAt (grouped [full0] false) 4096 = some (grp [full0] false) ∧ roundOf (grp [full0] false) 0 = some full0 ∧ full0.combined = false ∧
    goes (.roundComplete 4096 0) (grouped [full0] false) (fun t => (regAt t 4096).any fun g => g.rounds.any (·.combined)) = true := by decide +kernel

/-- A round of 100 pt at 65,636 pt, the default limit. -/
theorem test_GroupCommandsComplete_limit : regAt (grouped [full0]) 4096 = some (grp [full0]) ∧ gFld (grp [full0]) 96 32 = 0 ∧ full0.firstPt + 65536 ≤ 65636 ∧
    goes (.roundLimitExpire 4096 0) (onClk (grouped [full0]) fun c => { c with pilot := 65636 }) (fun t => (regAt t 4096).isNone) = true := by
  decide +kernel

/-- A thread whose s1 names the group's descriptor and whose a0 is of the binary32 class. -/
def Slice0.thC : Thread := { s := [(1, 4096)], a := [(0, { cls := .b32 })] }

theorem test_GroupCommandsComplete_acomb : ready 4 6 (word 4 6 0 0 1) thC = true ∧
    good (contribute (grouped [] true (kern (word 4 6 0 0 1) thC)) (it0 (word 4 6 0 0 1) thC) 0 4096 {
        chunk := 0, last := true, lanes := List.replicate 64 0
        opa := contribOpa 0 0 (decide ((aReg thC 0).cls ≠ .b32)) 0 0 false true 0 }) = true := by decide +kernel

/-- A thread whose s1 is a row at 64 KiB, s2 the number of its scratch handle, s3 an optimizer descriptor at 4,096: plain SGD,
binary32 state at offset 4,096, learning rate 1.0. -/
def Slice0.thR : Thread := { thH with s := [(1, 0x10000), (2, 0), (3, 4096)] }
def Slice0.wR : BitVec 64 := word 9 4 0 1 2 3 3
def Slice0.sgd : List Byte := natLe 64 (2 + 3 * 2 ^ 4 + 256 * 2 ^ 16 + 0x3F800000 * 2 ^ 32)
def Slice0.kernR : State := onMem (kern wR thR) fun m => { m with cells := putBytes [] 4096 sgd }

/-- The state after its tile and its descriptor are read. -/
def Slice0.afterR : State := (readJva (wholeTile kernR (it0 wR thR) thR 0).1 0 0 0 4096 64).1

/-- The lines at those offsets of the row are on this module and whole. -/
def Slice0.rowGood (offs : List Nat) : Bool :=
  match tryRow afterR 0 0x10000 offs with
  | (s4, .ok (.here lpas)) => !(lpas.any fun x => isPoisoned (bump (chargeReads s4 0 [.here 4096]) 3) (lineOf x))
  | _ => false

theorem Slice0.rowGood_lines : ∀ a ∈ List.range 65, rowGood ((List.range a).map (64 * ·)) = true := by decide +kernel

theorem test_GroupCommandsComplete_rowupd_issue : ready 9 4 wR thR = true ∧ good (wholeTile kernR (it0 wR thR) thR 0) = true ∧
    (match (readJva kernR 0 0 0 4096 64).2 with | .ok (bs, srcs) => decide (bs = sgd) && srcs == [.here 4096] | _ => false) = true := by decide +kernel

/-- The row's length is a free value: every length there is meets the rest. -/
theorem test_GroupCommandsComplete_rowupd_row (dim step : Nat) (h : dim ≤ 4096) : optStatus sgd dim 3 (2 ^ 22) step = none ∧
    rowGood (rowOffs (optOf sgd) dim 3) = true := by
  have hr : rowBytesOf dim 3 = dim := by simp [rowBytesOf, elemBytes, elemBits]
  have ho : optOf sgd = { off := 4096, lr := 0x3F800000 } := by decide +kernel
  have hn : leNat sgd = 2 + 3 * 2 ^ 4 + 256 * 2 ^ 16 + 0x3F800000 * 2 ^ 32 := by decide +kernel
  have hb : stateBytes (optOf sgd) dim = 0 := by simp [ho, stateBytes, stateElems]
  constructor
  · have hf : ((fDecode (fspec 0) 0x3F800000).kind == .fin) = true := by decide +kernel
    have hz : ((fDecode (fspec 0) 0).kind == .fin) = true := by decide +kernel
    have hd : descStatus (fld (leNat sgd) 0 4) (fld (leNat sgd) 4 4) 3 = none := by decide +kernel
    simp only [optStatus, hd, ho, fmtStatus, hr]
    simp only [ho] at hb
    simp [hb, hf, hz]
    omega
  · have he : rowOffs (optOf sgd) dim 3 = (List.range ((dim + 63) / 64)).map (64 * ·) := by
      simp [rowOffs, hr, hb]
    rw [he]
    exact rowGood_lines _ (List.mem_range.2 (by omega))

/-- A partner's request enters this module in a state and as a request of which `p` holds. -/
def Slice0.entry (f : Frame) (p : State → Req → Bool := fun _ _ => true) (s : State := net0) : Bool := (atEntryOf s on0 f).any fun x => p x.1 x.2

theorem test_FencesAndInvalServed : entry (ask tFence) (fun s r => fenceDone s { r := r, ctx := r.f.srcCtx, seq := r.f.seq, sincePt := s.clk.pilot }) = true ∧
    entry (ask tInval) (fun _ r => r.f.jva.toNat % 4096 == 0) = true ∧
    entry (ask tInval { jva := 0xFFFFFFFFFFFFF000 }) (fun _ r => r.f.jva.toNat % 4096 == 0) = true := by decide +kernel

/-- A FENCE numbered 3 that came at pt 0, where of context 0 only number 1 has come, and ended. -/
def Slice0.fence3 : Fence := { r := { f := ask tFence { srcCtx := 0 } }, ctx := 0, seq := 3, sincePt := 0 }
def Slice0.fencing (ls : List Leg) : State := onNet net0 fun n => { n with fences := [fence3], legs := [(0, ls)] }

theorem test_FencesAndInvalServed_waiting : fenceDone (fencing [{ seq := 1, ended := true }, { seq := 2, ended := true }, { seq := 3 }]) fence3 = true ∧
    missingBefore (fencing [{ seq := 1, ended := true }, { seq := 3 }]) 0 3 = [2] ∧ usPassed fence3.sincePt 5000 450 = true ∧
    ((fencing []).net.fences.find? fun y => decide (y.ctx = 0) && decide (y.seq = 3)) = some fence3 ∧
    goes (.fenceGapTimeout 0 3) (fencing [{ seq := 1, ended := true }, { seq := 3 }]) (fun t => t.net.fences.isEmpty) = true ∧
    goes (.fenceCountZero (.partner 0 3)) (fencing [{ seq := 1, ended := true }, { seq := 2, ended := true }, { seq := 3 }]) (fun t => t.net.fences.isEmpty) = true := by
  decide +kernel

/-- The module that a sender reaches over service Flue 0, which job 5 admits. -/
def Slice0.net96 : State := onLinks (onTrn net0 fun t => { t with jobs := [(0, jobRow 5 + BitVec.ofNat 512 (2 ^ 416))] }) fun x => { x with
  tab := x.tab ++ [(96, { up := true })] }
def Slice0.on96 : Arrival := { link := 96 }

/-- An open of a window of one slot at 64 KiB, and a close of context 1. -/
def Slice0.opening : Frame := ask tCtxOpen { payload := natLe 64 (7 + 2 * 2 ^ 64 + 0x10000 * 2 ^ 128 + 2 ^ 192) }
def Slice0.closing (c : Nat) : Frame := ask tCtxClose { srcCtx := c }

theorem test_ContextCommandsComplete_open : ((admittedOf net96 on96 opening).any fun x => !x.2.f.leg && !inTransit net96 opening && isService x.2.a.link &&
      (x.1.ctx.find? fun e => (e.2.isOpen && boundTo e.2 x.2.a && decide (e.2.nonce = leAt x.2.f.payload 0 8) && decide (e.2.job = x.2.f.job)) &&
        e.2.closing.isNone) == none && ((jobEntry x.1 x.2.f.job).any fun e => e.2.getLsbD (320 + x.2.a.link)) && x.2.f.payload.length == 64 &&
      leAt x.2.f.payload 8 1 % 16 == 2 && ((List.range 4096).find? fun c => !(ctxOf x.1 c).isOpen) == some 1 &&
      (match (openWindow x.1 x.2.f.job (leAt x.2.f.payload 16 8) (leAt x.2.f.payload 24 2)).1 with | .window w => w.nslots == 1 | _ => false)) = true := by
  decide +kernel

/-- The module after that open. -/
def Slice0.opened : State := match exec (.ctxOpen on96 opening) net96 with | .next t => t | _ => net96

theorem test_ContextCommandsComplete_again : ((admittedOf opened on96 opening).any fun x =>
      (x.1.ctx.find? fun e => (e.2.isOpen && boundTo e.2 x.2.a && decide (e.2.nonce = leAt x.2.f.payload 0 8) && decide (e.2.job = x.2.f.job)) &&
        e.2.closing.isNone).map (·.1) == some 1) = true ∧
    ((admittedOf opened on96 (closing 1)).any fun x => (ctxOf x.1 1).isOpen && (ctxStatus x.1 x.2.a x.2.f).isNone && !(ctxOf x.1 1).coh) = true ∧
    ((admittedOf opened on96 (closing 4095)).any fun x => !(ctxOf x.1 4095).isOpen) = true := by decide +kernel

/-- The module with a route to position 1 by link 1. -/
def Slice0.routed : State := onChim net0 fun c => { c with posTab := tput 0x7F7F7F7F c.posTab 1 0x7F7F7F81 }

/-- A frame for device `d` that comes in on link 0 from another module's side. -/
def Slice0.passing (typ d : Nat) : Frame := { typ := typ, leg := true, dstDev := d, srcDev := 2, job := 5, seq := 1 }

/-- The frame passes the checks of a frame in transit. -/
def Slice0.transits (s : State) (f : Frame) : Bool := inTransit s f && !isService 1 && linkRole s 1 ≠ 3 && f.typ ≠ tCoh && (linkOf s 1).hello.isSome &&
  f.len == f.payload.length && decide (f.len ≤ payloadLimit s 1) && decide (f.hops < s.cfg.hopsMax)

theorem test_OtherFramesComplete : (linkOf net0 0).up = true ∧ (linkOf net0 0).hello.isSome = true ∧ (ask 0x7F).len ≤ payloadLimit net0 0 ∧
    (ask 0x7F).hops < net0.cfg.hopsMax ∧ isResponse (ask 0x7F) = false ∧ (ask 0x7F).typ ∉ listedTypes ∧ inTransit net0 (ask 0x7F) = false ∧
    headStatus net0 0 (ask 0x7F) = none := by decide +kernel

theorem test_OtherFramesComplete_transit : transits routed (passing (tRead + 128) 1) = true ∧ isResponse (passing (tRead + 128) 1) = true ∧
    transits routed (passing tRead 1) = true ∧ isResponse (passing tRead 1) = false ∧
    (police (countLink routed 1 1) { link := 1 } (passing tRead 1)).2 = false ∧
    (route (police (countLink routed 1 1) { link := 1 } (passing tRead 1)).1 (passing tRead 1) (some 1)).2 = .sent := by decide +kernel

/-- Position 2 has no route. -/
theorem test_OtherFramesComplete_noroute : transits routed (passing tRead 2) = true ∧ (police (countLink routed 1 1) { link := 1 } (passing tRead 2)).2 = false ∧
    (route (police (countLink routed 1 1) { link := 1 } (passing tRead 2)).1 (passing tRead 2) (some 1)).2 = .noRoute := by decide +kernel

/-- This module's READ number 1, sent at pt 0, and its response. -/
def Slice0.out0 : Out := { num := 3, f := { typ := tRead, leg := true, dstDev := 1, job := 5, seq := 1 }, issuer := .line 0 0 }
def Slice0.asked : State := onNet net0 fun n => { n with outs := [out0] }
def Slice0.reply (seq : BitVec 32) : Frame := { typ := tRead + 128, leg := true, srcDev := 1, dstDev := 0, job := 5, seq := seq, payload := line64, len := 64 }

theorem test_ResponsesAndTimersComplete : (([1, 2] : List (BitVec 32)).all fun q => isResponse (reply q) && (reply q).typ != tHello + 128 && (linkOf asked 1).up &&
      (reply q).leg && (reply q).dstDev == selfDev asked && (linkOf asked 1).hello.isSome && (reply q).len == (reply q).payload.length &&
      decide ((reply q).len ≤ payloadLimit asked 1) && decide ((reply q).hops < asked.cfg.hopsMax) && (reply q).status == 0 && (reply q).fragsM1 == 0) = true := by
  decide +kernel

theorem test_ResponsesAndTimersComplete_match : (matchOut (countLink asked 1 1) (reply 1) == some out0) = true ∧
    (matchOut (countLink asked 1 1) (reply 2)).isNone = true := by decide +kernel

theorem test_ResponsesAndTimersComplete_timers : asked.net.outs.find? (·.num = 3) = some out0 ∧ retxDue asked out0.sentPt = true ∧
    (onNet net0 fun n => { n with asms := [{ sincePt := 3976 }], held := [({}, 3976)] }).clk.pilot = 3976 + 1024 ∧
    nth none ([({ sincePt := 3976 } : Asm)].map some) 0 = some { sincePt := 3976 } := by decide +kernel

/-- A snoop of device 1 for this module's agent on link 0, and a FWD_DATA. -/
def Slice0.snoop (m : Nat) (link : Nat := 0) : Frame := { typ := tCoh, leg := true, srcDev := 1, dstDev := 0, tc := 7, opa := BitVec.ofNat 64 (m + 9 * 2 ^ 32 + link * 2 ^ 48) }

theorem test_SnoopCommandsComplete : ∀ m ∈ [0x20, 0x21, 0x22, 0x23, 0x24, 0x30], (snoop m).typ = tCoh ∧ cohMsg (snoop m) = m ∧ (snoop m).leg = true ∧
    (snoop m).dstDev = selfDev net0 ∧ (linkOf net0 1).up = true ∧ isService 1 = false ∧ linkRole net0 1 ≠ 3 ∧ (linkOf net0 1).hello.isSome = true ∧
    (snoop m).hops < net0.cfg.hopsMax := by decide +kernel

/-- FWD_DATA of the agent on link 0 for agent 2 on its own module (3), and for one on position 1 (129). -/
theorem test_SnoopCommandsComplete_forward : cohMsg (ask tCoh { opa := 0x30, opb := 3 }) = 0x30 ∧ (ask tCoh { opa := 0x30 }).leg = false ∧
    (linkOf net0 0).up = true ∧ hasAgent net0 0 = true ∧ posDev net0 (agentPos 3) = selfDev net0 ∧ posDev net0 (agentPos 129) ≠ selfDev net0 := by decide +kernel

/-- Line 0 of Hearth 0 with snoop 1 to agent 131, sent at pt 4,000, answered with PEND where `pend`. -/
def Slice0.waiting (pend : Bool) : State := onSlice (held (.x { agent := 131 })) 0 fun x => { x with
  txs := [{ line := 0, snoops := [{ agent := 131, msg := 0x20, id := 1, sentPt := 4000, pend := pend }] }] }

theorem test_SnoopCommandsComplete_timers : lineHearth 0 = 0 ∧
    (txOf (waiting false) 0).any (fun t => (t.snoops.find? fun x => decide (x.agent = 131) && !x.pend && retxDue (waiting false) x.sentPt).isSome) = true ∧
    (txOf (waiting true) 0).any (fun t => (t.snoops.find? fun x => x.pend && usPassed x.sentPt (waiting true).clk.pilot 1).isSome) = true ∧
    tget none (onHome net0 fun h => { h with cutoff := [(131, some 5000)] }).home.cutoff 131 = some 5000 ∧ agentPos 131 ≠ net0.boot.pos ∧
    (lockOf (onSlice net0 0 fun x => { x with locks := [{ lines := [0] }] }) 0).any (·.owner.isNone) = true := by decide +kernel

theorem test_EntryModuleAnswersForAgent : agentPos 5 = net0.boot.pos ∧ (linkOf net0 (5 % 128)).up = false ∧ cohCtx net0 (129 % 128) = none ∧
    (∀ m ∈ [0x20, 0x21, 0x22, 0x23, 0x24], cohMsg (snoop m 2) = m ∧ snoopLink (snoop m 2) ≠ 0x7F ∧
      (linkOf (countLink net0 1 1) (snoopLink (snoop m 2))).up = false ∧ cohCtx (countLink net0 1 1) (snoopLink (snoop m 1)) = none) := by decide +kernel

/-- The peer's HELLO. -/
def Slice0.peer : Hello := { maxrev := 2, role := 2, maxpay := 4096, features := 0xFF }

theorem test_LinkCommandsComplete_hello : (ask tHello { payload := helloBytes peer }).len = 64 ∧ (ask tHello { payload := helloBytes peer }).leg = false ∧
    (ask tHello { payload := helloBytes peer }).rev = 2 ∧ helloBad (helloOf (helloBytes peer)) = false ∧ (linkOf net0 0).up = true ∧ isService 0 = false ∧
    9 ≤ net0.boot.phase ∧ net0.boot.phase ≠ 12 := by decide +kernel

/-- Flue 0 with four links, the third to another module, and the second service Flue. -/
def Slice0.wide : State := onCfg net0 fun c => { c with flues := [(0, { en := true, quartered := true, roles := 3 + 4 + 16 }), (25, { en := true })] }

theorem test_LinkCommandsComplete_up : linkEnabled wide 2 = true ∧ (linkOf wide 2).up = false ∧ isService 97 = true ∧ (linkOf wide 97).up = false ∧
    linkEnabled wide 97 = true ∧
    (linkOf (onLink net0 1 fun x => { x with hello := none, helloSent := some 3976 }) 1).helloSent = some 3976 ∧ 3976 + 1024 ≤ net0.clk.pilot := by
  decide +kernel

/-- Flue 0's links with a frame in class 0, gates in force since cycle 0 and a list for cycle 10. -/
def Slice0.gated : State := onClk (onChim (onLink net0 1 fun x => { x with q := [(0, [{ f := reply 1 }])] }) fun c => { c with
  gates := [(0, { list := [(0xFF, 16)], next := some (10, [(0xFF, 32)]) })] }) fun c => { c with chimney1024 := 16 * 1024 }

theorem test_LinkCommandsComplete_queue : (linkOf (onLink net0 1 fun x => { x with tx := some (0, { f := reply 1 }) }) 1).tx.isSome = true ∧
    (tget {} gated.chim.gates 0).list.isEmpty = false ∧ (tget {} gated.chim.gates 0).curCyc + (nth (0, 0) (tget {} gated.chim.gates 0).list 0).2 ≤ gated.clk.chimney1024 / 1024 ∧
    10 ≤ gated.clk.chimney1024 / 1024 ∧ (linkOf gated 1).tx = none ∧ classReady gated 1 0 = true := by decide +kernel

/-! ## Translation, extents, the cell -/

/-- A state in which `p` holds, and that the command takes to a next state. -/
def Slice0.does (c : Instr) (s : State) (p : Bool) : Bool := p && goes c s

/-- A fault of job 5, and job 5's ring of 64 records at 128 KiB. -/
def Slice0.fault1 (ans : Option Bool := none) (rec : Option Nat := none) : PFault := { id := 1, job := 5, waiters := [{ who := .item 0 0 0, job := 5, since := 0 }], answer := ans, recLpa := rec }
def Slice0.ringed (p : PFault) : State := onTrn (kern 0) fun t => { t with
  jobs := [(0, jobRow 5 + BitVec.ofNat 512 (0x20000 * 2 ^ 128 + 64 * 2 ^ 192))], rings := [(0, some { lpas := [0x20000, 0x21000] })], faults := [p] }

theorem test_TranslationCommandsComplete : (walkOf (onTrn net0 fun t => { t with walks := [{ num := 2, job := 5, level := 3, table := 256 }] }) 2).isSome = true ∧
    unreported (ringed (fault1)) 5 = some (fault1) ∧ ((jobEntry (ringed (fault1)) 5).any fun x => x.1 == 0 &&
      (match ringNow (ringed (fault1)) x.1 x.2 with | .ready r => nth 0 r.lpas (r.next % jobRingSlots x.2) == 0x20000 | _ => false)) = true ∧
    (prepWrite (ringed (fault1)) (lineOf 0x20000) true).2 = true ∧ isPoisoned (ringed (fault1)) (lineOf 0x20000) = false ∧ readNat (ringed (fault1)) 0x20000 1 = 0 ∧
    does (.faultRecordWrite 5) (ringed (fault1)) true = true := by decide +kernel

/-- A fault is answered with its record written, and without one. -/
theorem test_TranslationCommandsComplete_answers : (∀ b ∈ [true, false], answered (ringed (fault1 (some b) (some 0x20000))) 1 b = some (fault1 (some b) (some 0x20000)) ∧
      (freeRecord (ringed (fault1 (some b) (some 0x20000))) (fault1 (some b) (some 0x20000))).2 = true ∧ (freeRecord (ringed (fault1 (some b))) (fault1 (some b))).2 = true) ∧
    (nth none ((allWaiting (ringed (fault1))).map some) 0).any (fun x => x.since + ttoPt (ringed (fault1)) x.job ≤ 30 * 1024) = true := by decide +kernel

/-- Extent 0 in an entry whose lease ended at pt 5,000. -/
theorem test_ExtentCommandsComplete : ((ext0 { leased with leaseEnd := 5000 }).ext.tab.find? fun e => decide (e.2.state = 3) && decide (e.2.leaseNo = 1) &&
      decide (e.2.leaseEnd ≤ net0.clk.pilot)).isSome = true ∧
    ((ext0 leased [] [{ snap1 with endPt := 5000 }]).ext.snaps.find? fun l => decide (l.no = 7) && decide (l.endPt ≤ net0.clk.pilot)).isSome = true ∧
    ((ext0 leased).ext.tab.find? fun e => decide (e.2.state = 3) && decide (e.2.leaseNo = 7) && decide (e.2.leaseEnd ≤ net0.clk.pilot)).isNone = true := by
  decide +kernel

theorem test_ExtentCommandsComplete_ends : does (.revokeDrainDone 0 0) (ext0 { leased with state := 4 }) (drained (ext0 { leased with state := 4 }) (512 * 0 + 0)) = true ∧
    (tget none (ext0 leased [(0, some { reg1 with copying := some 0x400000 })]).ext.regions (regionOf 0)).any (·.copying == some 0x400000) = true ∧
    ((extentRegions (ext0 { leased with state := 5 }) 0).any fun r => r.2.copying.isSome || regionShared r.2) = false ∧
    goes (.extentZeroingDone 0 0) (onExt (ext0 { leased with state := 5 }) fun x => { x with zeroing := [(0, some (6, 5))] })
      (fun t => (extN t 0).state == 2 && (extN t 0).job == 6 && (extN t 0).gen == 1) = true := by decide +kernel

/-- Four live members, epoch 3. -/
def Slice0.map3 : PMap := { nmem := 4, epoch := 3, members := (List.range 4).map fun p => (p, { mstate := 1, serial := 100 + p, mrev := 2 }) }

/-- The module of `net0` as position `p` of that cell. -/
def Slice0.celled (p : Nat := 0) (c : Cell := {}) : State := { net0 with
  boot := { phase := 11, device := p, pos := p }
  cell := { c with map := map3 } }

/-- A CELL frame of position `q` about position `u` for position `p`, that speaks of epoch `e`. -/
def Slice0.cellF (cop : Nat) (p q : Nat) (u : Nat := 2) (e : Nat := 3) (f : Frame := {}) : Frame := { f with
  typ := tCell, leg := true, dstDev := p, srcDev := q, seq := 1, len := f.payload.length
  opa := BitVec.ofNat 64 (cop + q * 2 ^ 8 + u * 2 ^ 14), opb := BitVec.ofNat 64 (e + 2 ^ 32) }

/-- That frame arrives at its member, in a state and as a request of which `p` holds. -/
def Slice0.hears (s : State) (f : Frame) (p : State → Req → Bool := fun _ _ => true) : Bool := f.typ == tCell && !inTransit s f && (linkOf s 1).up &&
  (match cellArrive s on1 f with | (s1, some r) => p s1 r | _ => false)

theorem test_CellMessagesComplete : (∀ m ∈ [1, 2, 3, 0x0A, 0x0B, 0x0C], copOf (cellF m 0 1) = m ∧ hears (celled) (cellF m 0 1) = true) ∧
    hears (celled) (cellF 8 0 1) (fun s _ => s.cell.map.epoch ≠ 0) = true ∧ hears (celled) (cellF 0x0D 0 1) = true := by decide +kernel

/-- Position 0 proposed epoch 4 and hears position 1 accept; position 1 has accepted it and hears the commit and a COLLECT. -/
theorem test_CellMessagesComplete_agree : hears (celled 0 { prop := some { map := { map3 with epoch := 4 } } }) (cellF 5 0 1 2 4) (fun s r =>
      s.cell.prop.any (fun x => x.map.epoch == epochIn r.f && (electors s x.map).contains (fromPosOf r.f))) = true ∧
    hears (celled 1 { accepted := some (0, { map3 with epoch := 4 }) }) (cellF 6 1 0 2 4) (fun s r => s.cell.accepted == some (fromPosOf r.f, { map3 with epoch := 4 }) &&
      epochIn r.f == 4) = true ∧
    hears (celled 1 { accepted := some (0, { map3 with epoch := 4 }) }) (cellF 7 1 0 2 4) (fun s _ => s.cell.accepted.isSome) = true := by decide +kernel

/-- A member that serves position 0 as its spare, and a leader, hear JOIN. -/
theorem test_CellMessagesComplete_join : hears (onBoot (celled) fun b => { b with role := 1 }) (cellF 9 0 1 1 3 { payload := natLe 16 (2 ^ 64) })
      (fun s r => s.boot.role == 1 && (memberFrom (byteSlice r.f.payload 0 16)).mstate ≠ 0 && fromPosOf r.f == subjOf r.f && s.cell.map.epoch ≠ 0) = true ∧
    hears (celled) (cellF 9 0 0x3FFF 1 3 { payload := natLe 16 (7 + 2 ^ 64) }) (fun s r => s.boot.role ≠ 1 && s.cell.map.epoch ≠ 0 && r.f.srcDev == 0x3FFF &&
      leads s) = true := by decide +kernel

/-- Line 0 lies in a parity group of this member. -/
theorem test_CellMessagesComplete_rebuild : hears { celled with cell := { map := { map3 with groups := [{ kind := 2, k := 2, nslots := 1, pos := [0, 1, 2] }] } } } (cellF 0x0E 0 1)
    (fun s r => (groupOf s (mpaLpa r.f.mpa.toNat)).isSome && !isPoisoned s 0 && !notRebuilt s 0 && !siteDown s 0 && (txOf s 0).isNone &&
      lineOf (mpaLpa r.f.mpa.toNat) == 0) = true := by decide +kernel

/-- Probes of position 1 wait since pt 100; its neighbours' last answers were at pt 0 (R347). -/
def Slice0.missing (n : Nat) (p : Nat := 0) : State := celled p { nbrs := [(1, { misses := n, outstanding := some 100 })] }

theorem test_CellTimersComplete : liveMember (celled) = true ∧ (tget {} (missing 0).cell.nbrs 1).outstanding = some 100 ∧ usPassed 100 5000 20 = true ∧
    (tget {} (missing 1).cell.nbrs 1).misses + 1 < 3 ∧ 3 ≤ (tget {} (missing 2 3).cell.nbrs 1).misses + 1 ∧ liveMember (missing 2 3) = true ∧
    leaderOf (missing 2 3).cell.map none = some 0 ∧ (missing 2 3).boot.pos = 3 ∧
    (liveNbrs (celled)).length < 2 * ((liveNbrs (celled)).filter fun p => (tget {} (celled).cell.nbrs p).lastAck + 1024 ≤ (celled).clk.pilot).length := by
  decide +kernel

/-- A proposal sent at pt 100, after one try and after four. -/
def Slice0.prop4 (tries : Nat) : State := celled 0 { prop := some { map := { map3 with epoch := 4 }, sentPt := 100, tries := tries } }

theorem test_CellTimersComplete_proposal : usPassed 100 5000 200 = true ∧ (prop4 3).cell.prop.any (·.tries < 4) = true ∧ (prop4 4).cell.prop.any (4 ≤ ·.tries) = true ∧
    (prop4 4).clk.pilot = 5000 := by decide +kernel

/-- A unit of 1,024 lines, all rebuilt. -/
def Slice0.rebuilt : State := { celled with cell := { map := map3, units := [2], freshLines := (List.range 1024).map (2048 + ·) } }

theorem test_CellTimersComplete_unit : rebuilt.cell.units.head? = some 2 ∧ (((List.range 1024).map (2 * 1024 + ·)).filter (notRebuilt rebuilt)).isEmpty = true := by
  refine ⟨by decide +kernel, List.isEmpty_iff.2 (List.filter_eq_nil_iff.2 fun l hl => ?_)⟩
  have hf : rebuilt.cell.freshLines = (List.range 1024).map (2048 + ·) := by simp only [rebuilt]
  have h : rebuilt.cell.freshLines.contains l = true := by
    rw [hf, List.contains_iff_mem]
    simpa using hl
  simp only [notRebuilt, h]
  simp

/-- A spare that takes over position 1, with its ward's journal read. -/
def Slice0.spare : State := { celled with
  boot := { phase := 11, role := 1, pos := 1 }
  cell := { map := { map3 with serving := true, servePos := 1 }, restored := some [], commitPt := some 2000, ctr := [(7, 1)] } }

theorem test_CellTimersComplete_spare : spare.cell.restored = some [] ∧ spare.cell.commitPt = some 2000 ∧ notServing spare = true ∧ atReady spare = true ∧ spare.pwr.state = 0 ∧
    spare.home.devWait = [] ∧ 2000 + 2048 ≤ spare.clk.pilot := by decide +kernel

theorem test_CellTimersComplete_absent : leads (celled) = true ∧ usPassed 0 7000 6000 = true ∧ (linkOf (celled) 16).up = false ∧ (celled).cell.spareGone = false := by
  decide +kernel

/-- A move of extent 0 that is committed: to slot 1 here, and to slot 1 of position 1, its lines not yet sent and sent. -/
def Slice0.moving (q : Nat) (sent : List Nat) : State := { celled with cell := { sent := sent, map := { map3 with moves := [{ toPos := q, toSlot := 1, stage := 1 }] } } }

theorem test_CellTimersComplete_move : (∀ q ∈ [0, 1], ∀ l ∈ [[], [0]], ((moving q l).cell.map.moves[0]?).any (fun v => v.stage == 1 && v.fromPos == (moving q l).boot.pos &&
      decide ((moving q l).cell.sent.contains (v.fromH * 512 + v.fromSlot) = (l == [0])) && !outstanding (moving q l) (· == .moveLine (v.fromH * 512 + v.fromSlot))) = true) ∧
    atReady (moving 0 []) = true := by decide +kernel

theorem Slice0.natLe_length (n x : Nat) : (natLe n x).length = n := by
  induction n generalizing x with
  | zero => rfl
  | succ n ih => simp [natLe, ih]

theorem Slice0.leNat_natLe (n x : Nat) (h : x < 256 ^ n) : leNat (natLe n x) = x := by
  induction n generalizing x with
  | zero => simp [natLe, leNat]; omega
  | succ n ih =>
    have := ih (x / 256) (by rw [Nat.pow_succ] at h; omega)
    simp only [natLe, leNat, this, BitVec.toNat_ofNat]
    omega

theorem Slice0.crc_lt (bs : List Byte) : crc32c bs < 2 ^ 32 := by
  have hb : ∀ c, c < 2 ^ 32 → crcBit c < 2 ^ 32 := by
    intro c h
    unfold crcBit
    split
    · exact Nat.xor_lt_two_pow (by omega) (by decide)
    · omega
  have hy : ∀ (c : Nat) (b : Byte), c < 2 ^ 32 → crcByte c b < 2 ^ 32 := fun c b h =>
    hb _ (hb _ (hb _ (hb _ (hb _ (hb _ (hb _ (hb _ (Nat.xor_lt_two_pow h (by have := b.isLt; omega)))))))))
  have hf : ∀ (xs : List Byte) c, c < 2 ^ 32 → xs.foldl crcByte c < 2 ^ 32 := by
    intro xs
    induction xs with
    | nil => exact fun _ h => h
    | cons b xs ih => exact fun c h => ih _ (hy c b h)
  exact Nat.xor_lt_two_pow (hf bs _ (by decide)) (by decide)

/-- The map of epoch 4, its member entries, and its bytes but for the last 64. -/
def Slice0.map4 : PMap := { map3 with epoch := 4 }
def Slice0.mem4 : List Byte := (List.range 64).flatMap fun p => memberBytes (tget {} map4.members p)
def Slice0.first4 : List Byte := mapHead map4 (crc32c (mapHead map4 0 ++ mapTail map4)) ++ (mem4 ++ (List.replicate 8192 0 ++ List.replicate 16320 0))

theorem Slice0.head4 (c : Nat) : mapHead map4 c = natLe 8 (2 + 0xC * 2 ^ 4 + 4 * 2 ^ 40) ++ (natLe 4 4 ++ (natLe 4 0 ++ (natLe 8 0 ++ (natLe 4 c ++ List.replicate 36 0)))) := by
  simp [mapHead, map4, map3, b2n]

theorem Slice0.all4 : first4 ++ List.replicate 64 0 = mapBytes map4 := by
  have h : List.replicate 16320 (0 : Byte) ++ List.replicate 64 0 = List.replicate 16384 0 := by rw [List.replicate_append_replicate]
  have hg : map4.groups = [] := rfl
  have hm : map4.moves = [] := rfl
  simp only [first4, mapBytes, mapTail, mem4, padTo, List.append_assoc, h, hg, hm, List.flatMap_nil, List.length_nil, Nat.sub_zero, List.nil_append]

theorem Slice0.mem4_length : mem4.length = 1024 := by
  simp [mem4, memberBytes, natLe_length, List.length_flatMap, List.map_const']

theorem Slice0.first4_length : first4.length = 25600 := by
  simp only [first4, head4, List.length_append, natLe_length, List.length_replicate, mem4_length]

theorem Slice0.part (a b r : List Byte) (n k o : Nat) (hb : b.length = k) (h : a.length = o) (hn : n = k) : leAt (a ++ (b ++ r)) o n = leNat b := by
  subst hn hb h
  simp [leAt]

theorem Slice0.laid (a b r new : List Byte) (o : Nat) (h : a.length = o) (hn : new.length = b.length) : overlay (a ++ (b ++ r)) o new = a ++ (new ++ r) := by
  subst h
  rw [overlay, hn]
  simp

theorem Slice0.read4 (r : List Byte) (c : Nat) (hc : c < 2 ^ 32) : leAt (mapHead map4 c ++ r) 0 1 = 0xC2 ∧ leAt (mapHead map4 c ++ r) 0 8 = 2 + 0xC * 2 ^ 4 + 4 * 2 ^ 40 ∧
    leAt (mapHead map4 c ++ r) 8 4 = 4 ∧ leAt (mapHead map4 c ++ r) 24 4 = c ∧ overlay (mapHead map4 c ++ r) 24 (natLe 4 0) = mapHead map4 0 ++ r := by
  have h8 : ∀ x, natLe 8 x = natLe 1 x ++ natLe 7 (x / 256) := fun x => rfl
  have e : ∀ x, (natLe 8 (2 + 0xC * 2 ^ 4 + 4 * 2 ^ 40) ++ (natLe 4 4 ++ (natLe 4 0 ++ natLe 8 x))).length = 24 := fun x => by simp [natLe_length]
  refine ⟨?_, ?_, ?_, ?_, ?_⟩
  · rw [head4, h8]
    simp only [List.append_assoc]
    rw [← List.nil_append (natLe 1 _ ++ _), part [] _ _ 1 1 0 (natLe_length ..) rfl rfl]
    decide
  · rw [head4]
    simp only [List.append_assoc]
    rw [← List.nil_append (natLe 8 _ ++ _), part [] _ _ 8 8 0 (natLe_length ..) rfl rfl]
    exact leNat_natLe _ _ (by decide)
  · rw [head4]
    simp only [List.append_assoc]
    rw [part _ _ _ 4 4 8 (natLe_length ..) (natLe_length ..) rfl]
    exact leNat_natLe _ _ (by decide)
  · rw [head4]
    have := part (natLe 8 (2 + 0xC * 2 ^ 4 + 4 * 2 ^ 40) ++ (natLe 4 4 ++ (natLe 4 0 ++ natLe 8 0))) (natLe 4 c) (List.replicate 36 0 ++ r) 4 4 24 (natLe_length ..) (e 0) rfl
    simp only [List.append_assoc] at this ⊢
    rw [this, leNat_natLe _ _ (by omega)]
  · rw [head4, head4]
    have := laid (natLe 8 (2 + 0xC * 2 ^ 4 + 4 * 2 ^ 40) ++ (natLe 4 4 ++ (natLe 4 0 ++ natLe 8 0))) (natLe 4 c) (List.replicate 36 0 ++ r) (natLe 4 0) 24
      (e 0) (by simp [natLe_length])
    simp only [List.append_assoc] at this ⊢
    exact this

theorem Slice0.mapFrom4 : ∃ m, mapFrom (first4 ++ List.replicate 64 0) = some m ∧ m.cell = 0 ∧ m.epoch = 4 := by
  have hl : (first4 ++ List.replicate 64 0).length = mapSize := by simp [first4_length, mapSize]
  have hb := all4
  rw [mapBytes] at hb
  obtain ⟨h1, h2, h3, h4, h5⟩ := read4 (mapTail map4) _ (crc_lt (mapHead map4 0 ++ mapTail map4))
  refine ⟨mapFields (first4 ++ List.replicate 64 0), ?_, ?_, ?_⟩
  · rw [mapFrom, hl, hb, h1, h4, h5]
    simp
  · rw [hb]
    simp only [mapFields, h2]
    decide
  · rw [hb]
    simp only [mapFields, h3]

/-- Position 1 holds the first part of a proposal, and position 0 sends the last. -/
def Slice0.last4 : Frame := { cellF 4 1 0 2 4 { payload := zeros } with fragsM1 := 1, frag := 1 }
def Slice0.hearing (bs : List Byte) : State := onNet (celled 1) fun n => { n with asms := [{ key := asmKey last4, frags := [(0, bs)] }] }

theorem Slice0.arrives4 (bs : List Byte) : cellArrive (hearing bs) on1 last4 = assemble (countLink (hearing bs) 1 1) { a := on1, f := last4 } := by
  have c1 : (!isService 1 && (linkOf (countLink (hearing bs) 1 1) 1).hello.isNone) = false := rfl
  have p : payloadLimit (countLink (hearing bs) 1 1) 1 = 4096 := rfl
  have c2 : last4.payload.length = 64 := by decide
  have c3 : (countLink (hearing bs) 1 1).cfg.hopsMax = 24 := rfl
  have c4 : headStatus (countLink (hearing bs) 1 1) 1 last4 = none := rfl
  have c5 : legOk (countLink (hearing bs) 1 1) 1 last4 = true := by
    have r : legOk (countLink (hearing bs) 1 1) 1 last4 = legOk net0 1 last4 := rfl
    rw [r]
    decide +kernel
  have c6 : (countLink (hearing bs) 1 1).boot.phase = 11 := rfl
  have c7 : (countLink (hearing bs) 1 1).pwr.state = 0 := rfl
  have c8 : listedCop (copOf last4) = true := by decide
  have c9 : (countLink (hearing bs) 1 1).boot.cell = 0 := rfl
  have d : last4.srcDev = 0 := rfl
  have e : last4.len = 64 := rfl
  have g : last4.hops = 0 := rfl
  simp [cellArrive, on1, c1, p, c2, c3, c4, c5, c6, c7, c8, c9, d, e, g]

theorem Slice0.heard (bs : List Byte) (h : bs.length = 25600) : ∃ s1, cellArrive (hearing bs) on1 last4 =
      (s1, some { a := on1, f := { last4 with frag := 0, payload := bs ++ List.replicate 64 0 } }) ∧ leads s1 = false ∧ s1.cell.accepted = none ∧
    s1.boot.role ≠ 1 ∧ s1.boot.cell = 0 ∧ s1.cell.map.epoch = 3 := by
  have hf : (countLink (hearing bs) 1 1).net.asms.find? (·.key = asmKey last4) = some { key := asmKey last4, frags := [(0, bs)] } := rfl
  refine ⟨onNet (countLink (hearing bs) 1 1) fun x => { x with asms := x.asms.filter (·.key ≠ asmKey last4) }, ?_, rfl, rfl, by show (0 : Nat) ≠ 1; decide, rfl, rfl⟩
  rw [arrives4, assemble, if_neg (by decide +kernel)]
  simp only [hf]
  rw [if_neg (by simp [h, last4, cellF, zeros])]
  rfl

theorem test_CellMessagesComplete_propose : ∃ s1 r m, last4.typ = tCell ∧ inTransit (hearing first4) last4 = false ∧ (linkOf (hearing first4) 1).up = true ∧
    cellArrive (hearing first4) on1 last4 = (s1, some r) ∧ copOf last4 = 4 ∧ mapFrom r.f.payload = some m ∧ leads s1 = false ∧ s1.cell.accepted = none ∧
    s1.boot.role ≠ 1 ∧ m.cell = s1.boot.cell ∧ m.epoch = s1.cell.map.epoch + 1 := by
  obtain ⟨m, hm, hc, he⟩ := mapFrom4
  obtain ⟨s1, h1, h2, h3, h4, h5, h6⟩ := heard first4 first4_length
  exact ⟨s1, _, m, by decide +kernel, by decide +kernel, by decide +kernel, h1, by decide +kernel, hm, h2, h3, h4, hc.trans h5.symm, by rw [he, h6]⟩

/-! ## Records and the management space -/

/-- Buffer 0 applies a record whose next item is `i`, in a module that `s` says. -/
def Slice0.record (i : Item390) (s : State := net0) : State := onAuth s fun a => { a with bufs := [(0, { state := 3, todo := [i] })] }

/-- That item is next, the state in which it takes effect is one of which `p` holds, and the command answers. -/
def Slice0.applies (c : Nat → Instr) (i : Item390) (p : State → Bool := fun _ => true) (s : State := net0) : Bool :=
  (bufOf (record i s) 0).todo == [i] && (bufOf (record i s) 0).state == 3 && p (onBuf (record i s) 0 fun x => { x with
    todo := [], done := x.done + 1, opsec := if x.done = 0 then (record i s).clk.opSec else x.opsec }) && goes (c 0) (record i s)

theorem test_StateItemsApply_images : applies .imageBegin { ityp := 1, target := 1, payload := natLe 40 4096 } = true ∧
    applies .rollbackTo { ityp := 2, target := 64 } = true ∧ applies .keyProgram { ityp := 3, target := 3, payload := natLe 36 1 } = true ∧
    applies .keyGrant { ityp := 4, target := 3, payload := natLe 4 1 } = true ∧ applies .keyRevoke { ityp := 5, target := 3 } = true ∧
    applies .lock { ityp := 6, target := 3 } = true := by decide +kernel

/-- Entry 1 becomes job 6's, and entry 0, job 5's, gets another table root. -/
theorem test_StateItemsApply_jobs : applies .jobSet { ityp := 0x10, target := 1, payload := natLe 64 (jobRow 6 + BitVec.ofNat 512 (64 * 2 ^ 192)).toNat }
      (fun s => !jobValid (tget 0 s.trn.jobs 1)) = true ∧
    applies .jobSet { ityp := 0x10, target := 0, payload := natLe 64 (jobRow 5 + BitVec.ofNat 512 (9 * 2 ^ 64)).toNat }
      (fun s => jobValid (tget 0 s.trn.jobs 0) && jobRoot (tget 0 s.trn.jobs 0) ≠ 9) = true ∧
    applies .jobDelete { ityp := 0x11, target := 0 } (fun s => jobValid (tget 0 s.trn.jobs 0)) = true := by decide +kernel

theorem test_StateItemsApply_extents : applies .rowgroupMode { ityp := 0x18, target := 47 + 7 * 2 ^ 8, payload := natLe 8 2 } = true ∧
    applies .extentCreate { ityp := 0x19, payload := natLe 8 (7 + 511 * 2 ^ 3) } (fun s => slotRole s.cell.map (decide (s.boot.role = 1)) s.boot.pos (512 * 7 + 511) == (0, false) &&
      512 * 7 + 511 ≠ s.cfg.jslot) = true ∧
    applies .extentRemove { ityp := 0x1A } (fun _ => true) (ext0 { state := 1 }) = true := by decide +kernel

theorem test_StateItemsApply_assign : applies .extentAssign { ityp := 0x20, payload := natLe 8 6 } (fun s => (extN s 0).state == 1) (ext0 { state := 1 }) = true ∧
    applies .extentAssign { ityp := 0x20, payload := natLe 8 6 } (fun s => (extN s 0).state == 2 && (extN s 0).job ≠ 6) (ext0 { state := 2, job := 5 }) = true ∧
    isClear { ityp := 0x20, payload := natLe 8 6 } = false ∧ isClear { ityp := 0x20, payload := natLe 8 (2 ^ 32) } = true ∧
    (∀ n ∈ [1, 2], applies .extentClear { ityp := 0x20, payload := natLe 8 (2 ^ 32) } (fun s => (extN s 0).state == n) (ext0 { state := n }) = true) ∧
    applies .leaseRevoke { ityp := 0x21 } (fun s => (extN s 0).state == 3) = true ∧ applies .leaseBounds { ityp := 0x22, payload := natLe 12 5 } = true := by
  decide +kernel

/-- FUNC_SET with nothing to drain, and with a kernel under way when kernels are disabled. -/
theorem test_ModuleItemsApply_func : applies .funcSet { ityp := 0x28, target := 0x7F } (fun s => ((List.range 7).filter fun f => tbit s.auth.funcs f && !tbit 0x7F f) == []) = true ∧
    applies .funcSet { ityp := 0x28 } (fun s => !((List.range 7).filter fun f => tbit s.auth.funcs f && !tbit 0 f).isEmpty) (kern 0) = true := by decide +kernel

theorem test_ModuleItemsApply_routes : (∀ n ∈ [0, 255], applies .route { ityp := 0x30, target := n, payload := natLe 4 0x7F7F7F81 } = true) ∧
    (∀ n ∈ [256, 319], applies .route { ityp := 0x30, target := n, payload := natLe 4 0x7F7F7F81 } = true) ∧
    applies .policer { ityp := 0x31, target := 2 ^ 31 + 4095, payload := natLe 16 1 } = true ∧ applies .policer { ityp := 0x31, target := 95 + 6 * 2 ^ 8, payload := natLe 16 1 } = true ∧
    applies .overhead { ityp := 0x32, payload := [20] } = true ∧ applies .shaper { ityp := 0x38, target := 1, payload := natLe 16 (1000 + 16384 * 2 ^ 32) } = true ∧
    applies .gateList { ityp := 0x40, payload := natLe 12 10 } = true := by decide +kernel

theorem test_ModuleItemsApply_sites : applies .siteState { ityp := 0x48, target := 31, payload := [1] } = true ∧
    applies .siteState { ityp := 0x48, target := 31, payload := [0] } (fun s => !(siteAt s 31).inService) (onSite net0 31 fun x => { x with inService := false }) = true ∧
    (∀ k ∈ [1, 2, 3], applies .testRun { ityp := 0x50, target := 31, payload := [BitVec.ofNat 8 k] } = true) ∧
    applies .extentMove { ityp := 0x58, payload := natLe 8 0 } = true := by decide +kernel

theorem test_ModuleItemsApply_power : applies .powerSetState { ityp := 0x60, target := 1, payload := natLe 8 2 } = true ∧
    applies .powerSetSection { ityp := 0x60, target := 2, payload := natLe 32 0 } = true ∧ applies .ashpitSet { ityp := 0x68, payload := natLe 64 0 } = true ∧
    applies .moduleParams { ityp := 0x70, payload := natLe 32 0 } = true ∧ applies .flueSet { ityp := 0x78, payload := natLe 16 1 } = true ∧
    applies .reset { ityp := 0x7E } = true := by decide +kernel

/-- A drain of no item, a site's test under way, a reset due. -/
theorem test_BegunChangesEnd : ((onAuth net0 fun a => { a with drains := [(0, 1, [7])] }).auth.drains.find? fun d => decide (drainLeft net0 d = 0)) = some (0, 1, [7]) ∧
    (siteAt (onSite net0 31 fun x => { x with test := some 2 }) 31).test = some 2 ∧ (onAuth net0 fun a => { a with resetAt := some 5000 }).auth.resetAt = some 5000 ∧
    5000 ≤ net0.clk.pilot := by decide +kernel

/-- A management read and a write of `bs` at `o`, on service Flue 0. -/
def Slice0.mread (o n : Nat) : Frame := { typ := tMgmtRead, opa := BitVec.ofNat 64 (o + n * 2 ^ 24) }
def Slice0.mwrite (o : Nat) (bs : List Byte) : Frame := { typ := tMgmtWrite, opa := BitVec.ofNat 64 (o + bs.length * 2 ^ 24), payload := bs, len := bs.length }

/-- The frame passes its checks, in a state and as a request of which `p` holds. -/
def Slice0.manages (f : Frame) (p : State → Req → Bool := fun _ _ => true) : Bool := match arriveMgmt net96 on96 f with | (s, some r) => p s r | _ => false

theorem test_ManagementFramesComplete_read : manages (mread 0x100000 64) = true ∧ spaceBlock (mgmtOff (mread 0x100000 64)) ≠ 4 ∧
    manages (mread 0x300000 1024) = true ∧ spaceBlock (mgmtOff (mread 0x300000 1024)) = 4 := by decide +kernel

/-- A write of data alone, of each operation on the last buffer, and of each on the last cursor, whose holder is the writer. -/
theorem test_ManagementFramesComplete_write : manages (mwrite 0x210000 (natLe 4 1)) (fun s r => !writeDenied s (requester r.a) (mgmtOff r.f) r.f.payload) = true ∧
    firstOp (mwrite 0x210000 (natLe 4 1)) = none ∧ (∀ n ∈ [1, 2, 3, 4, 5], firstOp (mwrite 0x2001C0 (natLe 4 n)) = some ⟨false, 3, n⟩ ∧
      manages (mwrite 0x2001C0 (natLe 4 n)) (fun s r => !writeDenied s (requester r.a) (mgmtOff r.f) r.f.payload) = true) ∧
    (∀ n ∈ [1, 2, 3], firstOp (mwrite 0x2301C0 (natLe 4 n)) = some ⟨true, 7, n⟩) := by decide +kernel

theorem test_ManagementFramesComplete_cursor : manages (mwrite 0x2301C0 (natLe 4 1)) (fun s r => !writeDenied s (requester r.a) (mgmtOff r.f) r.f.payload) = true ∧
    (∀ n ∈ [2, 3], writeDenied (onCursor net96 7 fun x => { x with held := true, who := requester on96 }) (requester on96) 0x2301C0 (natLe 4 n) = false) := by
  decide +kernel

theorem test_BufferAndCursorOperations : (bufOf net0 0).state = 0 ∧ (∀ n ∈ [1, 4, 5, 6], (bufOf (onBuf net0 3 fun x => { x with state := n }) 3).state = n) ∧
    (bufOf (onBuf net0 3 fun x => { x with state := 6, session := some {} }) 3).session = some {} ∧ (cursorOf net0 7).held = false ∧
    (cursorOf (onCursor net0 7 fun x => { x with held := true }) 7).held = true ∧ 0 + idleLimit ≤ 1048576 := by decide +kernel

/-! ## Bring-up, power, pins and health -/

/-- A module in the given phase with its rail up, its sites not trained and its image NVM and fuses erased. -/
def Slice0.bringing (ph : Nat) (f : Boot → Boot := id) : State := { State.reset with
  pins := { vaux := true, vin54 := true, powerFail := false, modResetN := true }
  boot := f { phase := ph }
  pwr := { domains := BitVec.allOnes 30 }
  cfg := { flues := [(0, { en := true, roles := 3 + 1 * 4 }), (24, { en := true }), (25, { en := true })] } }

theorem test_BringUpStepsComplete_rail : State.reset.pins.vaux = false ∧ (onAsh State.reset fun a => { a with blank := false }).ash.blank = false ∧ (bringing 1).pins.vaux = true ∧
    (bringing 1).pwr.tripped = false ∧ (bringing 1).boot.phase = 1 ∧ fld (2 : BitVec 12).toNat 1 2 ≠ 3 ∧ fld (0xFFB : BitVec 12).toNat 1 2 ≠ 3 ∧ (bringing 2).pins.modResetN = true ∧
    (bringing 2).pwr.tripped = false ∧ (bringing 2).boot.phase ≠ 1 := by decide +kernel

theorem test_BringUpStepsComplete_fuses : (bringing 3).fuse.a = (bringing 3).fuse.b ∧ (onFuse (bringing 3) fun f => { f with a := 1 }).fuse.a ≠ (onFuse (bringing 3) fun f => { f with a := 1 }).fuse.b ∧
    (bringing 4).pins.powerFail = false ∧ (bringing 4).pins.vin54 = true ∧ (bringing 4).boot.watchdogs < 2 ∧
    (checkSlot (bringing 4) false).2 = false ∧ (bringing 5).pins.powerFail = false ∧ linkEnabled (bringing 5) 96 = true ∧ linkEnabled (bringing 5) 97 = true := by decide +kernel

/-- Every site trained, every channel's eye measured. -/
def Slice0.trained : List SiteTrain := (List.range 32).map fun k => { site := k }
def Slice0.eyes : List Eye := (List.range 256).map fun c => { chan := c, rw := 40, rh := 50, ww := 40, wh := 50 }

theorem test_BringUpStepsComplete_sites : (bringing 6).cfg.siteOff = 0 ∧ ((List.range 32).all fun k => (trained.filter (·.site = k)).length == 1) = true ∧
    (trained.all fun r => decide (r.site < 32)) = true ∧ (List.range 32).all (fun k => (siteAt { run0 with boot := { phase := 8 } } k).trained) = true ∧
    ((List.range 256).all fun c => eyes.any (·.chan = c)) = true ∧ (eyes.all fun e => decide (e.chan < 256) && (siteAt { run0 with boot := { phase := 8 } } (e.chan / 8)).trained) = true := by
  decide +kernel

/-- The module at step 10, its cell joined, the others not. -/
def Slice0.joined : State := { celled with boot := { phase := 10 } }

theorem test_BringUpStepsComplete_join : hasJoined (bringing 10) = false ∧ usPassed 0 4000000 3900000 = true ∧ (bringing 10).boot.joinRecorded = false ∧ hasJoined joined = true ∧
    idleSpare (onBoot joined fun b => { b with phase := 11 }) = false ∧ goes .ready joined (fun t => t.boot.phase == 11) = true ∧
    (bringing 9).clk.step10Pt = none ∧ goes .watchdogExpire (onClk (bringing 9) fun c => { c with pilot := 18 * 1024000 }) (fun t => t.boot.watchdogs == 1) = true := by decide +kernel

/-- The module asleep, or on its way: power state `n`. -/
def Slice0.asleep (n : Nat) (f : Pwr → Pwr := id) : State := onPwr run0 fun p => f { p with state := n }

theorem test_PowerCommandsComplete_entry : (∀ n ∈ [1, 3], homesDrained (asleep n) = true ∧ (asleep n).pwr.pendingWake = none) ∧ (asleep 5).boot.phase = 11 ∧ idleSpare (asleep 5) = false ∧
    (flueEntry (onCfg run0 fun c => { c with flues := [(0, { en := true })] }) 0).en = true ∧ run0.pwr.state = 0 ∧ (asleep 2).pwr.state ≠ 0 ∧
    idleSpare (onBoot run0 fun b => { b with role := 1 }) = true ∧ atReady (onBoot run0 fun b => { b with role := 1 }) = true ∧ tbit run0.cfg.power.toNat 89 = false := by decide +kernel

theorem test_PowerCommandsComplete_timers : (asleep 2 fun p => { p with wakeTimer := some 5000 }).pwr.wakeTimer = some 5000 ∧ 5000 ≤ run0.clk.pilot ∧
    beyondMaximum (({ temps := [125] } : Sample).temps.take 16) = false ∧ (asleep 0 fun p => { p with spareSince := some 0 }).cell.map.serving = false ∧
    0 + 1048576 ≤ (onClk run0 fun c => { c with pilot := 1048576 }).clk.pilot ∧ (∀ ph ∈ [13, 14], (onBoot run0 fun b => { b with phase := ph }).boot.phase = ph) := by
  decide +kernel

theorem test_PowerCommandsComplete_domains : policyIn run0.cfg.power.toNat 7 = 2 ∧ domainOn run0 7 = true ∧ hearthBusy run0 7 = false ∧
    tget 0 (asleep 0 fun p => { p with idleSince := [(7, 1)] }).pwr.idleSince 7 = 1 ∧ 1 - 1 + powerFld run0 160 21 1024 ≤ run0.clk.pilot ∧
    (tget none (asleep 0 fun p => { p with returning := [(29, some 5000)] }).pwr.returning 29).isSome = true := by decide +kernel

theorem test_PowerCommandsComplete_heat : throttleRate (tget 1 run0.pwr.rate 7) 60 = tget 1 run0.pwr.rate 7 ∧ throttleRate (tget 1 run0.pwr.rate 7) 110 ≠ tget 1 run0.pwr.rate 7 ∧
    run0.pins.vaux = true ∧ run0.pwr.tripped = false ∧ 3 ≤ run0.boot.phase ∧ (List.replicate 16 90).length = 16 ∧ ((List.replicate 16 90).any fun t => decide (90 < t)) = false ∧
    (asleep 0 fun p => { p with tripped := true }).pwr.tripped = true := by decide +kernel

theorem test_BeyondMaximumFaults : beyondMaximum (({ temps := [126] } : Sample).temps.take 16) = true ∧ beyondMaximum ((List.replicate 16 126).take 16) = true ∧
    (asleep 2).pwr.state = 2 ∧ run0.pins.vaux = true ∧ (List.replicate 16 126).length ≤ 48 ∧ run0.pwr.state = 0 ∧ 3 ≤ run0.boot.phase ∧ run0.pwr.tripped = false := by decide +kernel

theorem test_PinCommandsComplete : run0.pins.powerFail = false ∧ run0.pins.vin54 = true ∧ run0.pins.present = true ∧
    inputGood (onPins run0 fun p => { p with powerFail := true }) = false ∧ run0.boot.phase ≠ 12 ∧ smbAnswers run0 = true ∧ (natLe 3 0x10000).length = 3 ∧
    leNat (natLe 3 0x10000) % 4 = 0 ∧ smbLeft run0 (leNat (natLe 3 0x10000)) ≠ 0 ∧ leNat (natLe 3 1) % 4 ≠ 0 ∧ smbLeft run0 (leNat (natLe 3 0xFFFFFC)) = 0 ∧
    (onPins run0 fun p => { p with smbAlert := true }).pins.smbAlert = true ∧ jtagLocked (onFuse run0 fun f => { f with a := BitVec.ofNat 2048 (2 ^ 1161) }) = true := by decide +kernel

/-- One record waits for the NVM. -/
def Slice0.logged (n : Nat) : State := onAsh run0 fun a => { a with backlog := [{}], tries := n }

theorem test_HealthCommandsComplete : run0.ash.waits203 = 0 ∧ run0.ash.waits404 = 0 ∧ (∀ n ∈ [2, 3], recHeld (logged n) = false ∧ (logged n).ash.backlog = [{}]) ∧
    (logged 2).ash.tries < 3 ∧ 3 ≤ (logged 3).ash.tries ∧ (List.replicate 48 125).length ≤ 48 ∧ beyondMaximum ((List.replicate 48 125).take 16) = false ∧
    ashpitFld run0 32 8 50 ≤ 50 ∧ atReady run0 = true ∧ fld run0.cfg.ashpit.toNat 28 4 ≠ 0xF ∧ shadowSite run0 (255 / 8) = true ∧
    eyeLow run0 { chan := 255, rw := 40, rh := 50, ww := 40, wh := 50 } = false ∧ eyeLow run0 { chan := 255 } = true ∧ (linkOf net0 (laneLink net0 3)).up = true ∧
    (linkOf (onLink net0 97 fun x => { x with up := true }) (laneLink net0 103)).up = true ∧ run0.pins.vin54 = true ∧ 5 ≤ run0.boot.phase := by decide +kernel

/-! ## The whole block -/

theorem test_StepRunsFrontCommand : ({ run0 with pending := [.nop 0, .ready] } : State).pending = .nop 0 :: [.ready] ∧ run0.pending = [] := ⟨rfl, rfl⟩

/-- Memory that holds bytes, tags and marks, in a module whose recorder is in use and a key has a LAST_SEQ. -/
def Slice0.inUse : State := { run0 with
  mem := { cells := [(0, 1), (64, 2)], tags := [(3, .fmt 4)], poison := [1, 5] }
  ash := { blank := false, nextRno := 9 }
  auth := { lastSeq := [(3, 9)] }
  pending := [.modWake] }

theorem test_StepKeepsMemoryForm : Mem.wf inUse.mem = true ∧ (match step inUse with | .next t => Mem.wf t.mem | _ => false) = true := by decide +kernel

theorem test_StepKeepsBlownFuses : (onFuse run0 fun f => { f with a := 4 }).fuse.a.getLsbD 2 = true ∧
    (match step (onFuse run0 fun f => { f with a := 4 }) with | .next t => t.fuse.a.getLsbD 2 | _ => false) = true := by decide +kernel

theorem test_StepKeepsRecordNumbers : inUse.ash.blank = false ∧ tok 0 inUse.auth.lastSeq = true ∧
    (match step inUse with | .next t => t.ash.nextRno == 9 && tget 0 t.auth.lastSeq 3 == 9 | _ => false) = true := by decide +kernel

theorem test_ZeroedMemoryReadsZero : (bringing 7).boot.phase = 7 := rfl

theorem test_WriteChangesOneLine : tok (0 : Byte) [(0, 1), (64, 2)] = true ∧ line64.length = 64 := by decide +kernel

/-- Every field at its highest value. -/
def Slice0.most : Hello := {
  maxrev := 15, role := 3, dev := 2 ^ 14 - 1, cell := 2 ^ 12 - 1, pos := 63, flue := 31, link := 3, fec := true
  maxpay := 2 ^ 13 - 1, features := 2 ^ 64 - 1, serial := 2 ^ 64 - 1 }

theorem test_HelloBodyReadsBack : most.maxrev < 2 ^ 4 ∧ most.role < 2 ^ 2 ∧ most.dev < 2 ^ 14 ∧ most.cell < 2 ^ 12 ∧ most.pos < 2 ^ 6 ∧ most.flue < 2 ^ 5 ∧
    most.link < 2 ^ 2 ∧ most.maxpay < 2 ^ 13 ∧ most.features < 2 ^ 64 ∧ most.serial < 2 ^ 64 ∧ helloOf (helloBytes most) = most := by decide +kernel

/-! ## Ill-formed commands are refused -/

/-- Every term of the list is ill-formed. -/
def Slice0.refused (xs : List Instr) : Bool := xs.all fun i => !i.wf

theorem test_wf_sites : refused [.scrubRead 32 [], .scrubWriteBack 32 0, .scrubWriteBack 0 (2 ^ 42), .refreshRateRead (List.replicate 33 0), .perBankRefresh 32 0 0 0,
    .perBankRefresh 0 8 0 0, .perBankRefresh 0 0 2 0, .perBankRefresh 0 0 0 16, .channelIssue 32 0, .channelIssue 0 8, .requestAgeExpire 32 0, .requestAgeExpire 0 8,
    .testComplete 32 0, .siteTraining [{ site := 32 }], .quickShadowTest [{ chan := 256 }], .shadowTest (.dram { chan := 256 }), .shadowTest (.lane 104 0 0 0 0 0)] = true := by
  decide +kernel

theorem test_wf_hearths : refused [.hotTilePeriod 8, .tileFillComplete 8 0, .tileFillComplete 0 (2 ^ 28), .tileFillAbandon 8 0, .tileFillAbandon 0 (2 ^ 28),
    .evictWritebackComplete 8 0 [], .evictWritebackComplete 0 (2 ^ 28) [], .windowCounterUpdate (2 ^ 16), .stoveDomainPowered 8, .slotTake 8, .itemMove 0 32,
    .rowLockRelease 8 0, .rowLockRelease 0 (2 ^ 36), .revokeDrainDone 8 0, .revokeDrainDone 0 512, .cowCopyDone (2 ^ 42), .extentZeroingDone 8 0, .extentZeroingDone 0 512,
    .pendResend 8 0, .pendResend 0 (2 ^ 36), .snoopTimeout 8 0 0, .snoopTimeout 0 (2 ^ 36) 0, .snoopTimeout 0 0 8192, .cutoffExpire 8192, .autoIdleExpire 8, .throttleChange 8 0] = true := by
  decide +kernel

/-- A word of another class or operation, and a thread beyond the last. -/
theorem test_wf_words : refused [.sub t0 (word 0 0), .add t0 (word 1 0), .ld t0 (word 1 1) .clean, .tld t0 (word 2 1) .clean, .mmv t0 (word 3 0), .aclr t0 (word 4 1), .vcmplt t0 (word 5 17),
    .amadd t0 (word 6 1), .cntadd t0 (word 7 1), .pqlut t0 (word 8 1), .hashm t0 (word 9 1), .br t0 (word 10 1), .fenced t0 (word 11 0), .add { item := 0, n := 256 } (word 0 0),
    .tldPoolTimeout { item := 0, n := 256 }, .flagwaitPoll { item := 0, n := 256 }, .flagwaitTimeout { item := 0, n := 256 }] = true := by decide +kernel

/-- Each field of a frame one past its width, and a payload too long. -/
theorem test_wf_frames : ([{ rev := 16 }, { tc := 8 }, { typ := 256 }, { status := 256 }, { dstDev := 2 ^ 14 }, { srcDev := 2 ^ 14 }, { srcCtx := 2 ^ 16 }, { job := 2 ^ 20 },
    { epoch := 256 }, { cell := 256 }, { tag := 2 ^ 16 }, { hops := 256 }, { len := 2 ^ 16 }, { frag := 256 }, { fwdFrom := 2 ^ 14 }, { fragsM1 := 256 }, { srcLink := 128 },
    { payload := List.replicate 4097 0 }] : List Frame).all (fun f => !f.wf) = true ∧
    ([{ link := 98 }, { ip := 2 ^ 128 }, { port := 65536 }] : List Arrival).all (fun a => !a.wf) = true ∧
    refused [.read { link := 98 } {}, .read {} { tc := 8 }, .cohRdS { link := 98 } {}, .ctxOpen {} { rev := 16 }, .transitFrame {} { hops := 256 }, .join {} { len := 2 ^ 16 }] = true := by
  decide +kernel

theorem test_wf_links : refused [.linkTrained 98 true, .helloRepeat 98, .frameDamaged 98 .fcs, .linkDown 98 0, .linkDown 0 256, .dozeNotice 98, .frameTxEnd 98, .gclIntervalEnd 26,
    .gateListAt 26, .wakePattern 98, .signalReturn 2, .shaperEligible 98 0, .shaperEligible 0 9, .serviceFlueLinkUp 98, .pauseFrame 98, .fabricFlueTraining [96], .fenceGapTimeout (2 ^ 16) 0,
    .fenceGapTimeout 0 (2 ^ 32), .faultRecordWrite (2 ^ 20), .probeMiss 64] = true := by decide +kernel

theorem test_wf_management : refused [.claim {} {} 4, .claim { link := 98 } {} 0, .submit {} {} 4, .bufferRelease {} {} 4, .attest {} {} 4, .imageEnd {} {} 4, .bufferIdleTimeout 4, .imageBegin 4, .jobSet 4,
    .extentAssign 4, .funcSet 4, .route 4, .siteState 4, .reset 4, .cursorClaim {} {} 8, .cursorSet {} {} 8, .cursorRelease {} {} 8, .cursorIdleTimeout 8] = true := by decide +kernel

theorem test_wf_health : refused [.domainReturn 30, .overtempTrip 16 0, .overtempClear (List.replicate 15 0), .smoulderSample { temps := [] }, .operatingSecond (List.replicate 49 0),
    .droopDetect 4 0 0, .smbPointerSet (List.replicate 256 0)] = true := by decide +kernel

/-- Commands at the last value of their ranges are well formed. -/
theorem test_wf_accepts : ([.scrubWriteBack 31 (2 ^ 42 - 1), .perBankRefresh 31 7 1 15, .tileFillComplete 7 (2 ^ 28 - 1), .sub t0 (word 0 1), .fenced { item := 0, n := 255 } (word 11 1),
    .read { link := 97, ip := 2 ^ 128 - 1, port := 65535 } { payload := List.replicate 4096 0, len := 4096 }, .linkDown 97 255, .signalReturn 1, .cursorClaim {} {} 7, .claim {} {} 3,
    .operatingSecond (List.replicate 48 0), .overtempClear (List.replicate 16 0), .ready] : List Instr).all (·.wf) = true := by decide +kernel

/-- A word spells no command (log 1). -/
theorem test_decode_none : decodeTableWord 64 (word 0 0).toNat = none ∧ decodeTableWord 0 0 = none := ⟨rfl, rfl⟩

/-- An ill-formed frame's command still answers: a meaning does not rest on the check. -/
theorem test_wf_not_needed : goes (.read { link := 200 } {}) run0 = true := by decide +kernel

end
end

/-! ## Zeroed memory (R41) -/

namespace Sys2Proof.Machine

/-- A number inside a dropped range reads as the default, whatever the table's form. -/
theorem tget_tdropRange_inside {α : Type} (d : α) (t : Tab α) {lo hi k : Nat} (hlo : lo ≤ k) (hhi : k < hi) :
    tget d (tdropRange t lo hi) k = d := by
  induction t with
  | nil => rfl
  | cons e t ih =>
    obtain ⟨n, v⟩ := e
    by_cases hkept : n < lo ∨ hi ≤ n
    · have hcons : tdropRange ((n, v) :: t) lo hi = (n, v) :: tdropRange t lo hi := by simp [tdropRange, hkept]
      rw [hcons, tget, if_neg (by omega), ih, ite_self]
    · have hdrop : tdropRange ((n, v) :: t) lo hi = tdropRange t lo hi := by simp [tdropRange, hkept]
      rw [hdrop, ih]

/-- Under a clean decode only the marks of poison make a line bad. -/
@[simp] theorem badLine_clean (s : State) (l : Nat) : badLine s l .clean = isPoisoned s l := by simp [badLine]

/-! ### Zeros at bring-up -/

@[simp] theorem toPhase_mem (s : State) (n : Nat) : (toPhase s n).mem = s.mem := rfl

/-- In phase 7 zero-initialisation empties the store and brings phase 8. -/
theorem execZeroInitialisation_of_phase {s : State} (h : s.boot.phase = 7) :
    execZeroInitialisation s = .next (toPhase (onMem s fun _ => {}) 8) := by
  simp [execZeroInitialisation, h]

theorem isPoisoned_of_mem_empty {s : State} (h : s.mem = {}) (l : Nat) : isPoisoned s l = false := by
  simp [isPoisoned, h]

/-! ### Zeros over a range -/

theorem tget_cells_zeroRange (s : State) {a n x : Nat} (hlo : a ≤ x) (hhi : x < a + n) :
    tget 0 (zeroRange s a n).mem.cells x = 0 :=
  tget_tdropRange_inside 0 s.mem.cells hlo hhi

/-- The tags of a range of whole tiles go back to that of zeros. -/
theorem tagOf_zeroRange (s : State) {a n tile : Nat} (hn : n % 16384 = 0) (hlo : a / 16384 ≤ tile) (hhi : tile < (a + n) / 16384) :
    tagOf (zeroRange s a n) tile = .fmt 0 := by
  have htags : (zeroRange s a n).mem.tags = tdropRange s.mem.tags (a / 16384) ((a + n) / 16384) := if_pos hn
  rw [tagOf, htags, tget_tdropRange_inside _ _ hlo hhi]

/-- A line of a zeroed extent carries no mark, and its extent is no longer one restored with every line poisoned (R352). -/
theorem isPoisoned_zeroRange_extent (s : State) {k l : Nat} (hl : lineExt l = k) :
    isPoisoned (zeroRange s (k * 2 ^ 30) (2 ^ 30)) l = false := by
  unfold lineExt at hl
  have hmark : (zeroRange s (k * 2 ^ 30) (2 ^ 30)).mem.poison.contains l = false := by
    simp [zeroRange]; omega
  have hvoid : (zeroRange s (k * 2 ^ 30) (2 ^ 30)).mem.void.contains (lineExt l) = false := by
    simp [zeroRange, lineExt]; omega
  rw [isPoisoned, hmark, hvoid, Bool.false_and, Bool.or_false]

/-- Zeroing an extent through its protection ends with the zeros of the extent's own range. -/
theorem zeroThrough_eq_zeroRange (s : State) (lo n : Nat) : ∃ s1, zeroThrough s lo n = zeroRange s1 lo n := ⟨_, rfl⟩

/-- Settles O57: bring-up empties the whole store; reuse drops the extent's bytes, tags and marks, whatever form the store had. -/
theorem zeroedMemoryReadsZero : Obligations.ZeroedMemoryReadsZero := by
  unfold Obligations.ZeroedMemoryReadsZero
  constructor
  · intro s hphase
    refine ⟨_, execZeroInitialisation_of_phase hphase, fun a => rfl, fun tile => rfl, fun l => ?_⟩
    have hok := isPoisoned_of_mem_empty (s := toPhase (onMem s fun _ => {}) 8) rfl l
    exact ⟨hok, (badLine_clean _ l).trans hok⟩
  · rintro s t k rfl
    obtain ⟨s1, hs1⟩ := zeroThrough_eq_zeroRange s (k * 2 ^ 30) (2 ^ 30)
    rw [hs1]
    refine ⟨fun a ha => ?_, fun tile htile => ?_, fun l hl => ?_⟩
    · exact tget_cells_zeroRange s1 (by omega) (by omega)
    · exact tagOf_zeroRange s1 (by omega) (by omega) (by omega)
    · have hok := isPoisoned_zeroRange_extent s1 hl
      exact ⟨hok, (badLine_clean _ l).trans hok⟩

end Sys2Proof.Machine

/-! ## Guarded instructions (R113) -/

namespace Sys2Proof.Machine

/-- The instruction `(k, o, c)` acts only by being issued: whatever `exec` does with it is done by a body under `issue`, as operation `o`
of class `k`. -/
def IssuesAs (x : Nat × Nat × (ThreadRef → BitVec 64 → Instr)) : Prop :=
  ∀ s t w, ∃ body, exec (x.2.2 t w) s = issue s t w x.1 x.2.1 body

/-- R113's condition on a guarded word, p[GP] XOR GN = 0, in terms of the model's guard. -/
theorem guardHolds_eq_false {th : Thread} {w : BitVec 64} (hge : wGe w = true) (hxor : (pReg th (wGp w) ^^ wGn w) = false) :
    guardHolds th w = false := by
  simpa [guardHolds, hge] using hxor

/-- Of an instruction that acts only by being issued, a false guard leaves the pc's advance alone. -/
theorem IssuesAs.exec_of_not_guard {k o : Nat} {c : ThreadRef → BitVec 64 → Instr} (hc : IssuesAs (k, o, c)) {s : State} {t : ThreadRef}
    {w : BitVec 64} {it : Item} {th : Thread} (hcan : canIssue s t w k o = some (it, th)) (hguard : guardHolds th w = false) :
    exec (c t w) s = .next (onThread s t nextPc) := by
  obtain ⟨body, hbody⟩ := hc s t w
  rw [hbody, issue_of_not_guard body hcan hguard]

/-- Settles O2: each instruction of the list, taken one by one, has its whole meaning under `issue`, which passes a false guard by. -/
theorem falseGuardPasses : Obligations.FalseGuardPasses := by
  unfold Obligations.FalseGuardPasses
  intro s t w it th e k o c hmem hcan hge hxor
  have hissues : IssuesAs (k, o, c) := by
    refine (?_ : ∀ x ∈ _, IssuesAs x) _ hmem
    repeat refine List.forall_mem_cons.2 ⟨fun _ _ _ => ⟨_, rfl⟩, ?_⟩
    exact List.forall_mem_nil _
  exact hissues.exec_of_not_guard hcan (guardHolds_eq_false hge hxor)

end Sys2Proof.Machine

/-! ## Snoops for agents that are not there (R298) -/

namespace Sys2Proof.Machine

/-- What R298 says of an absent agent: its link is down, or has no coherence context. -/
theorem answeredFor_of_absent {s : State} {link : Nat} (habsent : (linkOf s link).up = false ∨ cohCtx s link = none) :
    answeredFor s link = true := by
  rcases habsent with hdown | hnone
  · simp [answeredFor, hdown]
  · simp [answeredFor, hnone]

/-- A snoop by name to an agent of the home's own module needs no frame where the module answers for the agent's link. -/
theorem selfAcked_of_answeredFor {s : State} {k : Nat} (hpos : agentPos k = s.boot.pos) (hfor : answeredFor s (k % 128) = true) :
    selfAcked s k false = true := by
  simp [selfAcked, hpos, hfor]

/-- A snoop for this member, on a link that is up between members after HELLO, with hops left, is delivered. -/
theorem snoopArrives_eq_deliverSnoop {s : State} {a : Arrival} {f : Frame} {m : Nat} (htyp : f.typ = tCoh) (hmsg : cohMsg f = m)
    (hleg : f.leg = true) (hdst : f.dstDev = selfDev s) (hup : (linkOf s a.link).up = true) (hservice : isService a.link = false)
    (hrole : linkRole s a.link ≠ 3) (hhello : (linkOf s a.link).hello.isSome = true) (hhops : f.hops < s.cfg.hopsMax) :
    snoopArrives s a f m = .next (deliverSnoop (countLink s a.link 1) { f with hops := f.hops + 1 }) := by
  have hheard : (linkOf s a.link).hello.isNone = false := by rw [Option.isNone_eq_false_iff, hhello]
  rw [snoopArrives, if_neg (by simp [htyp, hmsg, hleg, hdst]), if_neg (by simp [hup, hservice, hrole]), if_neg (by simp [hheard]),
    if_neg (Nat.not_le.mpr hhops)]

/-- A snoop of one link that the member answers for gets the member's ACK_I. -/
theorem deliverSnoop_eq_memberAck {s : State} {f : Frame} (hmsg : cohMsg f ≠ 0x30) (hlink : snoopLink f ≠ 0x7F)
    (hfor : answeredFor s (snoopLink f) = true) : deliverSnoop s f = memberAck s f := by
  simp [deliverSnoop, hmsg, hlink, hfor]

/-- Each of the five snoops is no FWD_DATA, and acts only by arriving as the message of its own. -/
theorem exec_snoop_eq_snoopArrives {m : Nat} {c : Arrival → Frame → Instr}
    (hmem : (m, c) ∈ ([(0x20, .snpInv), (0x21, .snpDown), (0x22, .snpFwdS), (0x23, .snpFwdX), (0x24, .snpDev)] :
      List (Nat × (Arrival → Frame → Instr)))) :
    m ≠ 0x30 ∧ ∀ a f s, exec (c a f) s = snoopArrives s a f m := by
  refine (?_ : ∀ x ∈ _, x.1 ≠ 0x30 ∧ ∀ a f s, exec (x.2 a f) s = snoopArrives s a f x.1) _ hmem
  simp only [List.forall_mem_cons]
  refine ⟨?inv, ?down, ?fwdS, ?fwdX, ?dev, List.forall_mem_nil _⟩
  all_goals exact ⟨by decide, fun _ _ _ => rfl⟩

/-- Settles O60: an absent agent's link is one that its module answers for, which spares the home of the same module the snoop and has
the member of another one send the ACK_I itself. -/
theorem entryModuleAnswersForAgent : Obligations.EntryModuleAnswersForAgent := by
  unfold Obligations.EntryModuleAnswersForAgent
  constructor
  · intro s k hpos habsent
    exact selfAcked_of_answeredFor hpos (answeredFor_of_absent habsent)
  · rintro s s1 a f m c hmem htyp hmsg hleg hdst hup hservice hrole hhello hhops rfl hlink habsent
    obtain ⟨hnotFwd, hexec⟩ := exec_snoop_eq_snoopArrives hmem
    have hack : deliverSnoop (countLink s a.link 1) { f with hops := f.hops + 1 } =
        memberAck (countLink s a.link 1) { f with hops := f.hops + 1 } :=
      deliverSnoop_eq_memberAck (fun hfwd => hnotFwd (hmsg.symm.trans hfwd)) hlink (answeredFor_of_absent habsent)
    refine ⟨0x7F, ?_⟩
    rw [hexec, snoopArrives_eq_deliverSnoop htyp hmsg hleg hdst hup hservice hrole hhello hhops, hack]
    rfl

end Sys2Proof.Machine

/-! ## What every command leaves (log 10, R387, R394, R430, R477) -/

namespace Sys2Proof.Machine

/-- Every command answers with a next state that the law of every operation holds of, or with the one fault. -/
theorem exec_keeps (s : State) (c : Instr) : KeepsAns s (exec c s) :=
  have h : Keeps s s := .refl s
  match c with
  | .scrubRead _ _ => execScrubRead_keeps h
  | .scrubWriteBack _ _ => execScrubWriteBack_keeps h
  | .refreshRateRead _ => execRefreshRateRead_keeps h
  | .perBankRefresh _ _ _ _ => execPerBankRefresh_keeps h
  | .channelIssue _ _ => execChannelIssue_keeps h
  | .requestAgeExpire _ _ => execRequestAgeExpire_keeps h
  | .aggressorTableClear => execAggressorTableClear_keeps h
  | .hotTilePeriod _ => execHotTilePeriod_keeps h
  | .tileFillComplete _ _ => execTileFillComplete_keeps h
  | .tileFillAbandon _ _ => execTileFillAbandon_keeps h
  | .evictWritebackComplete _ _ _ => execEvictWritebackComplete_keeps h
  | .fetchBudgetLapse _ _ => execFetchBudgetLapse_keeps h
  | .tileFetchComplete _ _ => execTileFetchComplete_keeps h
  | .windowCounterUpdate _ => execWindowCounterUpdate_keeps h
  | .stoveDomainPowered _ => execStoveDomainPowered_keeps h
  | .slotTake _ => execSlotTake_keeps h
  | .itemComplete _ => execItemComplete_keeps h
  | .cancelDrainDone _ => execCancelDrainDone_keeps h
  | .itemMove _ _ => execItemMove_keeps h
  | .kernelCodeRead _ => execKernelCodeRead_keeps h
  | .runLimitExpire _ => execRunLimitExpire_keeps h
  | .tldPoolTimeout _ => execTldPoolTimeout_keeps h
  | .add _ _ => execAdd_keeps h
  | .sub _ _ => execSub_keeps h
  | .mul _ _ => execMul_keeps h
  | .mulhu _ _ => execMulhu_keeps h
  | .and _ _ => execAnd_keeps h
  | .or _ _ => execOr_keeps h
  | .xor _ _ => execXor_keeps h
  | .shl _ _ => execShl_keeps h
  | .shr _ _ => execShr_keeps h
  | .sar _ _ => execSar_keeps h
  | .minu _ _ => execMinu_keeps h
  | .maxu _ _ => execMaxu_keeps h
  | .min _ _ => execMin_keeps h
  | .max _ _ => execMax_keeps h
  | .li _ _ => execLi_keeps h
  | .lui _ _ => execLui_keeps h
  | .divu _ _ => execDivu_keeps h
  | .remu _ _ => execRemu_keeps h
  | .popc _ _ => execPopc_keeps h
  | .clz _ _ => execClz_keeps h
  | .ld _ _ _ => execLd_keeps h
  | .ldsx _ _ => execLdsx_keeps h
  | .st _ _ => execSt_keeps h
  | .ldv _ _ => execLdv_keeps h
  | .stv _ _ => execStv_keeps h
  | .stvh _ _ => execStvh_keeps h
  | .param _ _ => execParam_keeps h
  | .resw _ _ => execResw_keeps h
  | .tld _ _ _ => execTld_keeps h
  | .talloc _ _ => execTalloc_keeps h
  | .tst _ _ => execTst_keeps h
  | .trel _ _ => execTrel_keeps h
  | .trv _ _ => execTrv_keeps h
  | .twv _ _ => execTwv_keeps h
  | .ttag _ _ => execTtag_keeps h
  | .twait _ _ => execTwait_keeps h
  | .tcvt _ _ => execTcvt_keeps h
  | .mwld _ _ => execMwld_keeps h
  | .mmv _ _ => execMmv_keeps h
  | .mtv _ _ => execMtv_keeps h
  | .vadd _ _ => execVadd_keeps h
  | .vsub _ _ => execVsub_keeps h
  | .vmul _ _ => execVmul_keeps h
  | .vmax _ _ => execVmax_keeps h
  | .vmin _ _ => execVmin_keeps h
  | .vfma _ _ => execVfma_keeps h
  | .vcvt _ _ => execVcvt_keeps h
  | .vbc _ _ => execVbc_keeps h
  | .vext _ _ => execVext_keeps h
  | .vins _ _ => execVins_keeps h
  | .aclr _ _ => execAclr_keeps h
  | .aout _ _ => execAout_keeps h
  | .aaddv _ _ => execAaddv_keeps h
  | .alsum _ _ => execAlsum_keeps h
  | .axp _ _ => execAxp_keeps h
  | .axi _ _ => execAxi_keeps h
  | .acomb _ _ => execAcomb_keeps h
  | .ceq _ _ => execCeq_keeps h
  | .cne _ _ => execCne_keeps h
  | .cltu _ _ => execCltu_keeps h
  | .clt _ _ => execClt_keeps h
  | .cgeu _ _ => execCgeu_keeps h
  | .cge _ _ => execCge_keeps h
  | .sel _ _ => execSel_keeps h
  | .pand _ _ => execPand_keeps h
  | .por _ _ => execPor_keeps h
  | .pxor _ _ => execPxor_keeps h
  | .pnot _ _ => execPnot_keeps h
  | .vcmplt _ _ => execVcmplt_keeps h
  | .vcmpeq _ _ => execVcmpeq_keeps h
  | .vsel _ _ => execVsel_keeps h
  | .vany _ _ => execVany_keeps h
  | .amadd _ _ => execAmadd_keeps h
  | .amand _ _ => execAmand_keeps h
  | .amor _ _ => execAmor_keeps h
  | .amxor _ _ => execAmxor_keeps h
  | .amminu _ _ => execAmminu_keeps h
  | .ammaxu _ _ => execAmmaxu_keeps h
  | .ammin _ _ => execAmmin_keeps h
  | .ammax _ _ => execAmmax_keeps h
  | .amswp _ _ => execAmswp_keeps h
  | .amcas _ _ => execAmcas_keeps h
  | .amfadd _ _ => execAmfadd_keeps h
  | .cntadd _ _ => execCntadd_keeps h
  | .cntwait _ _ => execCntwait_keeps h
  | .cntrd _ _ => execCntrd_keeps h
  | .flagwait _ _ => execFlagwait_keeps h
  | .flagwaitPoll _ => execFlagwaitPoll_keeps h
  | .flagwaitTimeout _ => execFlagwaitTimeout_keeps h
  | .flagcas _ _ => execFlagcas_keeps h
  | .pqlut _ _ => execPqlut_keeps h
  | .pqscan _ _ => execPqscan_keeps h
  | .topkins _ _ => execTopkins_keeps h
  | .topkmrg _ _ => execTopkmrg_keeps h
  | .bmtest _ _ => execBmtest_keeps h
  | .hashm _ _ => execHashm_keeps h
  | .qr _ _ => execQr_keeps h
  | .coali _ _ => execCoali_keeps h
  | .coaln _ _ => execCoaln_keeps h
  | .rowupd _ _ => execRowupd_keeps h
  | .br _ _ => execBr_keeps h
  | .jal _ _ => execJal_keeps h
  | .jr _ _ => execJr_keeps h
  | .loop _ _ => execLoop_keeps h
  | .yield _ _ => execYield_keeps h
  | .exit _ _ => execExit_keeps h
  | .trap _ _ => execTrap_keeps h
  | .pcnt _ _ => execPcnt_keeps h
  | .ccnt _ _ => execCcnt_keeps h
  | .fenceInstr _ _ => execFenceInstr_keeps h
  | .fenced _ _ => execFenced_keeps h
  | .fenceCountZero _ => execFenceCountZero_keeps h
  | .nop _ => execNop_keeps h
  | .copy _ => execCopy_keeps h
  | .fill _ => execFill_keeps h
  | .gather _ => execGather_keeps h
  | .scatterUpdate _ => execScatterUpdate_keeps h
  | .rowLockRelease _ _ => execRowLockRelease_keeps h
  | .ivfProbe _ => execIvfProbe_keeps h
  | .pqScan _ => execPqScan_keeps h
  | .topkMerge _ => execTopkMerge_keeps h
  | .matvec _ => execMatvec_keeps h
  | .gateOpen _ => execGateOpen_keeps h
  | .gateExpired _ => execGateExpired_keeps h
  | .segmentComplete _ => execSegmentComplete_keeps h
  | .attend _ => execAttend_keeps h
  | .reduceLocal _ => execReduceLocal_keeps h
  | .reduceGroup _ => execReduceGroup_keeps h
  | .prefetchTranslate _ => execPrefetchTranslate_keeps h
  | .prefetchTier0 _ => execPrefetchTier0_keeps h
  | .advisePin _ => execAdvisePin_keeps h
  | .adviseUnpin _ => execAdviseUnpin_keeps h
  | .advisePair _ => execAdvisePair_keeps h
  | .adviseUnpair _ => execAdviseUnpair_keeps h
  | .adviseRemap _ => execAdviseRemap_keeps h
  | .publish _ => execPublish_keeps h
  | .kernel _ => execKernel_keeps h
  | .hello _ _ => execHello_keeps h
  | .linkTrained _ _ => execLinkTrained_keeps h
  | .helloRepeat _ => execHelloRepeat_keeps h
  | .ctxOpen _ _ => execCtxOpen_keeps h
  | .ctxClose _ _ => execCtxClose_keeps h
  | .fence _ _ => execFence_keeps h
  | .fenceGapTimeout _ _ => execFenceGapTimeout_keeps h
  | .read _ _ => execRead_keeps h
  | .write _ _ => execWrite_keeps h
  | .writePush _ _ => execWritePush_keeps h
  | .tileRead _ _ => execTileRead_keeps h
  | .tileWrite _ _ => execTileWrite_keeps h
  | .atomic _ _ => execAtomic_keeps h
  | .scatterUpdateRequest _ _ => execScatterUpdateRequest_keeps h
  | .publishRequest _ _ => execPublishRequest_keeps h
  | .leaseAcquire _ _ => execLeaseAcquire_keeps h
  | .leaseRenew _ _ => execLeaseRenew_keeps h
  | .leaseRelease _ _ => execLeaseRelease_keeps h
  | .leaseQuery _ _ => execLeaseQuery_keeps h
  | .leaseLapse _ => execLeaseLapse_keeps h
  | .revokeDrainDone _ _ => execRevokeDrainDone_keeps h
  | .snapCreate _ _ => execSnapCreate_keeps h
  | .snapOpen _ _ => execSnapOpen_keeps h
  | .snapClose _ _ => execSnapClose_keeps h
  | .snapQuery _ _ => execSnapQuery_keeps h
  | .snapDestroy _ _ => execSnapDestroy_keeps h
  | .cowCopyDone _ => execCowCopyDone_keeps h
  | .extentZeroingDone _ _ => execExtentZeroingDone_keeps h
  | .contrib _ _ => execContrib_keeps h
  | .deliver _ _ => execDeliver_keeps h
  | .roundComplete _ _ => execRoundComplete_keeps h
  | .roundLimitExpire _ _ => execRoundLimitExpire_keeps h
  | .cohRdS _ _ => execCohRdS_keeps h
  | .rdX _ _ => execRdX_keeps h
  | .upgrade _ _ => execUpgrade_keeps h
  | .atom _ _ => execAtom_keeps h
  | .evictS _ _ => execEvictS_keeps h
  | .evictX _ _ => execEvictX_keeps h
  | .wb _ _ => execWb_keeps h
  | .fetch _ _ => execFetch_keeps h
  | .ackI _ _ => execAckI_keeps h
  | .ackS _ _ => execAckS_keeps h
  | .ackDataI _ _ => execAckDataI_keeps h
  | .ackDataS _ _ => execAckDataS_keeps h
  | .ackFwd _ _ => execAckFwd_keeps h
  | .snpInv _ _ => execSnpInv_keeps h
  | .snpDown _ _ => execSnpDown_keeps h
  | .snpFwdS _ _ => execSnpFwdS_keeps h
  | .snpFwdX _ _ => execSnpFwdX_keeps h
  | .snpDev _ _ => execSnpDev_keeps h
  | .fwdData _ _ => execFwdData_keeps h
  | .pendResend _ _ => execPendResend_keeps h
  | .snoopTimeout _ _ _ => execSnoopTimeout_keeps h
  | .cutoffExpire _ => execCutoffExpire_keeps h
  | .inval _ _ => execInval_keeps h
  | .mgmtRead _ _ => execMgmtRead_keeps h
  | .mgmtWrite _ _ => execMgmtWrite_keeps h
  | .responseReceive _ _ => execResponseReceive_keeps h
  | .retransmitTimeout _ => execRetransmitTimeout_keeps h
  | .frameDamaged _ _ => execFrameDamaged_keeps h
  | .assemblyTimeout _ => execAssemblyTimeout_keeps h
  | .epochHoldTimeout _ => execEpochHoldTimeout_keeps h
  | .linkDown _ _ => execLinkDown_keeps h
  | .dozeNotice _ => execDozeNotice_keeps h
  | .frameTxEnd _ => execFrameTxEnd_keeps h
  | .gclIntervalEnd _ => execGclIntervalEnd_keeps h
  | .gateListAt _ => execGateListAt_keeps h
  | .walkReadComplete _ _ => execWalkReadComplete_keeps h
  | .faultRecordWrite _ => execFaultRecordWrite_keeps h
  | .faultRetry _ => execFaultRetry_keeps h
  | .faultDecline _ => execFaultDecline_keeps h
  | .translationTimeout _ => execTranslationTimeout_keeps h
  | .probe _ _ => execProbe_keeps h
  | .probeTimer => execProbeTimer_keeps h
  | .probeAck _ _ => execProbeAck_keeps h
  | .probeMiss _ => execProbeMiss_keeps h
  | .suspect _ _ => execSuspect_keeps h
  | .propose _ _ => execPropose_keeps h
  | .accept _ _ => execAccept_keeps h
  | .commit _ _ => execCommit_keeps h
  | .proposalTimeout => execProposalTimeout_keeps h
  | .collect _ _ => execCollect_keeps h
  | .mapRead _ _ => execMapRead_keeps h
  | .join _ _ => execJoin_keeps h
  | .mirrorWr _ _ => execMirrorWr_keeps h
  | .parityXor _ _ => execParityXor_keeps h
  | .journal _ _ => execJournal_keeps h
  | .journalRead _ _ => execJournalRead_keeps h
  | .rebuildRead _ _ => execRebuildRead_keeps h
  | .selfFence => execSelfFence_keeps h
  | .spareServe _ => execSpareServe_keeps h
  | .spareAbsentTimeout => execSpareAbsentTimeout_keeps h
  | .rebuildUnitDone _ => execRebuildUnitDone_keeps h
  | .moveCopyDone _ => execMoveCopyDone_keeps h
  | .auxRailUp => execAuxRailUp_keeps rfl h
  | .auxRailLoss => execAuxRailLoss_keeps h
  | .internalResetRelease _ => execInternalResetRelease_keeps h
  | .modResetAssert => execModResetAssert_keeps h
  | .firebrickRead => execFirebrickRead_keeps h
  | .imageVerify => execImageVerify_keeps h
  | .serviceFlueTraining _ _ => execServiceFlueTraining_keeps h
  | .siteTraining _ => execSiteTraining_keeps h
  | .zeroInitialisation => execZeroInitialisation_keeps h
  | .quickShadowTest _ => execQuickShadowTest_keeps h
  | .fabricFlueTraining _ => execFabricFlueTraining_keeps h
  | .cellJoin => execCellJoin_keeps h
  | .joinWaitRecord => execJoinWaitRecord_keeps h
  | .ready => execReady_keeps h
  | .watchdogExpire => execWatchdogExpire_keeps h
  | .linkRetrainTimer => execLinkRetrainTimer_keeps h
  | .powerFailAssert => execPowerFailAssert_keeps h
  | .powerFailDeassert => execPowerFailDeassert_keeps h
  | .vinMonitorTrip => execVinMonitorTrip_keeps h
  | .modPresentBreak => execModPresentBreak_keeps h
  | .claim _ _ _ => execClaim_keeps h
  | .submit _ _ _ => execSubmit_keeps h
  | .bufferRelease _ _ _ => execBufferRelease_keeps h
  | .attest _ _ _ => execAttest_keeps h
  | .imageEnd _ _ _ => execImageEnd_keeps h
  | .bufferIdleTimeout _ => execBufferIdleTimeout_keeps h
  | .imageBegin _ => execImageBegin_keeps h
  | .rollbackTo _ => execRollbackTo_keeps h
  | .keyProgram _ => execKeyProgram_keeps h
  | .keyGrant _ => execKeyGrant_keeps h
  | .keyRevoke _ => execKeyRevoke_keeps h
  | .lock _ => execLock_keeps h
  | .jobSet _ => execJobSet_keeps h
  | .jobDelete _ => execJobDelete_keeps h
  | .rowgroupMode _ => execRowgroupMode_keeps h
  | .extentCreate _ => execExtentCreate_keeps h
  | .extentRemove _ => execExtentRemove_keeps h
  | .extentAssign _ => execExtentAssign_keeps h
  | .extentClear _ => execExtentClear_keeps h
  | .leaseRevoke _ => execLeaseRevoke_keeps h
  | .leaseBounds _ => execLeaseBounds_keeps h
  | .funcSet _ => execFuncSet_keeps h
  | .funcDrainDone => execFuncDrainDone_keeps h
  | .route _ => execRoute_keeps h
  | .policer _ => execPolicer_keeps h
  | .overhead _ => execOverhead_keeps h
  | .shaper _ => execShaper_keeps h
  | .gateList _ => execGateList_keeps h
  | .siteState _ => execSiteState_keeps h
  | .testRun _ => execTestRun_keeps h
  | .testComplete _ _ => execTestComplete_keeps h
  | .extentMove _ => execExtentMove_keeps h
  | .powerSetState _ => execPowerSetState_keeps h
  | .powerSetSection _ => execPowerSetSection_keeps h
  | .ashpitSet _ => execAshpitSet_keeps h
  | .moduleParams _ => execModuleParams_keeps h
  | .flueSet _ => execFlueSet_keeps h
  | .reset _ => execReset_keeps h
  | .resetDelayExpire => execResetDelayExpire_keeps h
  | .entryComplete => execEntryComplete_keeps h
  | .exitComplete _ => execExitComplete_keeps h
  | .wakePattern _ => execWakePattern_keeps h
  | .signalReturn _ => execSignalReturn_keeps h
  | .modWake => execModWake_keeps h
  | .wakeTimer => execWakeTimer_keeps h
  | .smoulderSample _ => execSmoulderSample_keeps h
  | .spareReentryTimer => execSpareReentryTimer_keeps h
  | .phaseEmberTimer => execPhaseEmberTimer_keeps h
  | .autoIdleExpire _ => execAutoIdleExpire_keeps h
  | .domainReturn _ => execDomainReturn_keeps h
  | .throttleChange _ _ => execThrottleChange_keeps h
  | .overtempTrip _ _ => execOvertempTrip_keeps h
  | .overtempClear _ => execOvertempClear_keeps h
  | .rateLimitPeriod => execRateLimitPeriod_keeps h
  | .ashNvmWrite _ => execAshNvmWrite_keeps h
  | .ashWindowRead _ _ => execAshWindowRead_keeps h
  | .cursorClaim _ _ _ => execCursorClaim_keeps h
  | .cursorSet _ _ _ => execCursorSet_keeps h
  | .cursorRelease _ _ _ => execCursorRelease_keeps h
  | .cursorIdleTimeout _ => execCursorIdleTimeout_keeps h
  | .operatingSecond _ => execOperatingSecond_keeps h
  | .droopDetect _ _ _ => execDroopDetect_keeps h
  | .shadowTest _ => execShadowTest_keeps h
  | .meteringInterval _ => execMeteringInterval_keeps h
  | .smbPointerSet _ => execSmbPointerSet_keeps h
  | .smbBlockRead => execSmbBlockRead_keeps h
  | .smbQuickStatus => execSmbQuickStatus_keeps h
  | .smbAlertResponse => execSmbAlertResponse_keeps h
  | .smbClockTimeout => execSmbClockTimeout_keeps h
  | .recHoldAssert => execRecHoldAssert_keeps h
  | .recHoldDeassert => execRecHoldDeassert_keeps h
  | .idcode => execIdcode_keeps h
  | .bypass => execBypass_keeps h
  | .extest => execExtest_keeps h
  | .intest => execIntest_keeps h
  | .clamp => execClamp_keeps h
  | .extestPulse => execExtestPulse_keeps h
  | .extestTrain => execExtestTrain_keeps h
  | .shaperEligible _ _ => execShaperEligible_keeps h
  | .serviceFlueLinkUp _ => execServiceFlueLinkUp_keeps h
  | .pauseFrame _ => execPauseFrame_keeps h
  | .unsupportedType _ _ => execUnsupportedType_keeps h
  | .transitFrame _ _ => execTransitFrame_keeps h
  | .testLogicReset => execTestLogicReset_keeps h

/-- Settles O55: the law of every operation bars the refusal, keeps the queue and only uses free values up. -/
theorem everyCommandAnswered : Obligations.EveryCommandAnswered := by
  unfold Obligations.EveryCommandAnswered
  intro c s
  have hanswer := exec_keeps s c
  generalize exec c s = ans at hanswer ⊢
  cases hanswer with
  | next hkeeps => exact .inl ⟨_, rfl, hkeeps.pending, hkeeps.draws⟩
  | fault => exact .inr rfl

/-- A step is a tick of the Pilot or a command that leaves what every operation does. -/
theorem step_keeps {s t : State} (h : step s = .next t) : t = tick s ∨ ∃ rest, Keeps { s with pending := rest } t := by
  cases hqueue : s.pending with
  | nil =>
    rw [step, hqueue] at h
    injection h with htick
    exact .inl htick.symm
  | cons c rest =>
    rw [step, hqueue] at h
    exact .inr ⟨rest, .ofAns h (exec_keeps _ c)⟩

/-- Settles O52: a tick leaves memory as it is, and every command keeps its canonical form. -/
theorem stepKeepsMemoryForm : Obligations.StepKeepsMemoryForm := by
  unfold Obligations.StepKeepsMemoryForm
  intro s t hwf hstep
  rcases step_keeps hstep with rfl | ⟨rest, hkeeps⟩
  · exact hwf
  · exact hkeeps.mem hwf

/-- Settles O53: a tick leaves the fuses as they are, and every command leaves the blown ones blown. -/
theorem stepKeepsBlownFuses : Obligations.StepKeepsBlownFuses := by
  unfold Obligations.StepKeepsBlownFuses
  intro s t i hstep
  rcases step_keeps hstep with rfl | ⟨rest, hkeeps⟩
  · exact ⟨id, id⟩
  · exact hkeeps.fuse i

/-- Settles O54: a tick leaves the numbers as they are, and no command lowers them on a recorder that is not taken as new. -/
theorem stepKeepsRecordNumbers : Obligations.StepKeepsRecordNumbers := by
  unfold Obligations.StepKeepsRecordNumbers
  intro s t k hblank htok hstep
  rcases step_keeps hstep with rfl | ⟨rest, hkeeps⟩
  · exact ⟨Nat.le_refl _, htok, Nat.le_refl _⟩
  · obtain ⟨htok', hle⟩ := hkeeps.seq hblank htok
    exact ⟨hkeeps.rno hblank, htok', hle k⟩

end Sys2Proof.Machine

/-! ## Instructions that change registers alone (R114) -/

namespace Sys2Proof.Machine

/-- Under a true guard an instruction on registers changes them and passes on. -/
theorem regOp_of_guard {s : State} {t : ThreadRef} {w : BitVec 64} {k o : Nat} {it : Item} {th : Thread} (g : Thread → Thread)
    (hcan : canIssue s t w k o = some (it, th)) (hguard : guardHolds th w = true) :
    regOp s t w k o g = .next (onThread s t fun x => nextPc (g x)) := by
  rw [regOp, issue_of_guard _ hcan hguard]

/-- CGEU by the order that CLTU uses. -/
theorem execCgeu_eq (t : ThreadRef) (w : BitVec 64) (s : State) :
    execCgeu t w s = regOp s t w 5 4 fun x => setP x (wDst w) (!(sReg x (wSa w)).ult (opB x w)) := by
  simp [execCgeu, scmp, compareOp, BitVec.ule_eq_not_ult]

/-- CGE by the order that CLT uses. -/
theorem execCge_eq (t : ThreadRef) (w : BitVec 64) (s : State) :
    execCge t w s = regOp s t w 5 5 fun x => setP x (wDst w) (!(sReg x (wSa w)).slt (opB x w)) := by
  simp [execCge, scmp, compareOp, BitVec.sle_eq_not_slt]

/-- Settles O1: each instruction of the two lists, taken one by one, is the operation on registers that stands beside it. -/
theorem registerInstructionsComplete : Obligations.RegisterInstructionsComplete := by
  unfold Obligations.RegisterInstructionsComplete
  constructor
  · intro s t w it th o c g hmem hcan hguard
    have hexec : exec (c t w) s = scalarOp s t w o g := by
      refine (?_ : ∀ x ∈ _, exec (x.2.1 t w) s = scalarOp s t w x.1 x.2.2) _ hmem
      repeat refine List.forall_mem_cons.2 ⟨rfl, ?_⟩
      exact List.forall_mem_nil _
    rw [hexec, scalarOp, regOp_of_guard _ hcan hguard]
  · intro s t w it th k o c g hmem hcan hguard
    have hexec : exec (c t w) s = regOp s t w k o g := by
      refine (?_ : ∀ x ∈ _, exec (x.2.2.1 t w) s = regOp s t w x.1 x.2.1 x.2.2.2) _ hmem
      repeat refine List.forall_mem_cons.2 ⟨rfl, ?_⟩
      refine List.forall_mem_cons.2 ⟨execCgeu_eq t w s, List.forall_mem_cons.2 ⟨execCge_eq t w s, ?_⟩⟩
      repeat refine List.forall_mem_cons.2 ⟨rfl, ?_⟩
      exact List.forall_mem_nil _
    rw [hexec, regOp_of_guard _ hcan hguard]

/-! ## What a thread changes of itself -/

/-- The item of that number that stands first is changed, where the change keeps its number. -/
theorem find?_updFirst_same {xs : List Item} {i : ItemId} {it : Item} {f : Item → Item} (hfind : xs.find? (·.id = i) = some it)
    (hid : (f it).id = it.id) : (updFirst (·.id = i) f xs).find? (·.id = i) = some (f it) := by
  induction xs with
  | nil => cases hfind
  | cons x xs ih =>
    by_cases hx : x.id = i
    · have : x = it := by simpa [hx] using hfind
      subst this
      simp [updFirst, hx, hid]
    · simp only [List.find?_cons, hx, decide_false] at hfind
      simpa [updFirst, hx] using ih hfind

/-- Items of other numbers stay as they are, where the change keeps the number. -/
theorem find?_updFirst_other {xs : List Item} {i j : ItemId} {f : Item → Item} (hne : j ≠ i) (hid : ∀ x, (f x).id = x.id) :
    (updFirst (·.id = i) f xs).find? (·.id = j) = xs.find? (·.id = j) := by
  induction xs with
  | nil => rfl
  | cons x xs ih =>
    by_cases hx : x.id = i
    · simp [updFirst, hx, hid, Ne.symm hne]
    · simp [updFirst, hx, List.find?_cons, ih]

/-- An item that is there reads as changed. -/
theorem itemOf_onItem_same {s : State} {i : ItemId} {it : Item} {f : Item → Item} (hitem : itemOf s i = some it) (hid : (f it).id = it.id) :
    itemOf (onItem s i f) i = some (f it) := find?_updFirst_same hitem hid

/-- The other items read as before. -/
theorem itemOf_onItem_other {s : State} {i j : ItemId} {f : Item → Item} (hne : j ≠ i) (hid : ∀ x, (f x).id = x.id) :
    itemOf (onItem s i f) j = itemOf s j := find?_updFirst_other hne hid

/-- Settles O3: `onThread` changes one item, and of it one entry of its threads. -/
theorem threadFrame : Obligations.ThreadFrame := by
  unfold Obligations.ThreadFrame
  intro s t g
  refine ⟨rfl, rfl, fun i hne => itemOf_onItem_other hne fun _ => rfl, fun it hitem => ?_⟩
  refine ⟨tmod {} it.threads t.n g, itemOf_onItem_same hitem rfl, fun htok => ⟨tget_tput_same htok, fun n hne => ?_⟩⟩
  exact tget_tput_other htok hne

/-! ## Addresses that are not aligned (R131) -/

/-- A load at an address that is not aligned. -/
theorem loadOp_misaligned {s : State} {t : ThreadRef} {w : BitVec 64} {o : Nat} {it : Item} {th : Thread} (e : Ecc) (ext : Nat → Nat → W64)
    (hcan : canIssue s t w 1 o = some (it, th)) (hguard : guardHolds th w = true) (hmis : addrI th w % widthBytes (wW w) ≠ 0) :
    loadOp s t w o e ext = .next (fault s t 0xF0 (addrI th w)) := by
  rw [loadOp, issue_of_guard _ hcan hguard]
  exact if_pos hmis

/-- A store at an address that is not aligned. -/
theorem storeOp_misaligned {s : State} {t : ThreadRef} {w : BitVec 64} {o align : Nat} {it : Item} {th : Thread} (bytes : Thread → List Byte)
    (hcan : canIssue s t w 1 o = some (it, th)) (hguard : guardHolds th w = true) (hmis : addrI th w % align ≠ 0) :
    storeOp s t w o align bytes = .next (fault s t 0xF0 (addrI th w)) := by
  rw [storeOp, issue_of_guard _ hcan hguard]
  exact if_pos hmis

/-- LDV at an address that is not a line's. -/
theorem execLdv_misaligned {s : State} {t : ThreadRef} {w : BitVec 64} {it : Item} {th : Thread}
    (hcan : canIssue s t w 1 3 = some (it, th)) (hguard : guardHolds th w = true) (hmis : addrI th w % 64 ≠ 0) :
    execLdv t w s = .next (fault s t 0xF0 (addrI th w)) := by
  rw [execLdv, issue_of_guard _ hcan hguard]
  exact if_pos hmis

/-- An atomic at an address that is not aligned; AMCAS has the short immediate. -/
theorem atomicOp_misaligned {s : State} {t : ThreadRef} {w : BitVec 64} {o : Nat} {it : Item} {th : Thread}
    (hcan : canIssue s t w 6 o = some (it, th)) (hguard : guardHolds th w = true)
    (hmis : (if o = 9 then addrT th w else addrI th w) % widthBytes (wW w) ≠ 0) :
    atomicOp s t w o = .next (fault s t 0xF0 (if o = 9 then addrT th w else addrI th w)) := by
  rw [atomicOp, issue_of_guard _ hcan hguard]
  exact if_pos hmis

/-- Settles O6: loads, stores and atomics check the alignment before anything else. -/
theorem misalignedFaults : Obligations.MisalignedFaults := by
  unfold Obligations.MisalignedFaults
  intro s t w it th e hguard
  refine ⟨?width, ?lines, ?atomics, ?amcas⟩
  case width =>
    simp only [List.mem_cons, List.not_mem_nil, or_false, Prod.mk.injEq]
    rintro o c (⟨rfl, rfl⟩ | ⟨rfl, rfl⟩ | ⟨rfl, rfl⟩) hcan hmis
    · exact (loadOp_misaligned _ _ hcan hguard hmis : execLd t w e s = _)
    · exact (loadOp_misaligned _ _ hcan hguard hmis : execLdsx t w s = _)
    · exact (storeOp_misaligned _ hcan hguard hmis : execSt t w s = _)
  case lines =>
    simp only [List.mem_cons, List.not_mem_nil, or_false, Prod.mk.injEq]
    rintro o c (⟨rfl, rfl⟩ | ⟨rfl, rfl⟩ | ⟨rfl, rfl⟩) hcan hmis
    · exact execLdv_misaligned hcan hguard hmis
    · exact (storeOp_misaligned _ hcan hguard hmis : execStv t w s = _)
    · exact (storeOp_misaligned _ hcan hguard hmis : execStvh t w s = _)
  case atomics =>
    intro o c hmem hcan hmis
    have hatomic : o ≠ 9 ∧ exec (c t w) s = atomicOp s t w o := by
      refine (?_ : ∀ x ∈ _, x.1 ≠ 9 ∧ exec (x.2 t w) s = atomicOp s t w x.1) _ hmem
      repeat refine List.forall_mem_cons.2 ⟨⟨by decide, rfl⟩, ?_⟩
      exact List.forall_mem_nil _
    obtain ⟨hnotCas, hexec⟩ := hatomic
    have haddr : (if o = 9 then addrT th w else addrI th w) = addrI th w := if_neg hnotCas
    rw [hexec, atomicOp_misaligned hcan hguard (haddr.symm ▸ hmis), haddr]
  case amcas =>
    intro hcan hmis
    exact (atomicOp_misaligned hcan hguard hmis : execAmcas t w s = _)

end Sys2Proof.Machine

/-! ## Loads and stores (R114, R126) -/

namespace Sys2Proof.Machine

/-- An access that has come to its end goes on with what it brought. -/
@[simp] theorem onGot_ok {α : Type} (s : State) (t : ThreadRef) (jva : Nat) (x : α) (k : α → Ans) : onGot s t jva (.ok x) k = k x := rfl

/-- A load of aligned bytes that are at hand and whose first line decodes writes them to its register. -/
theorem loadOp_of_read {s s1 : State} {t : ThreadRef} {w : BitVec 64} {o : Nat} {it : Item} {th : Thread} {e : Ecc} {bs : List Byte}
    {srcs : List Src} (ext : Nat → Nat → W64) (hcan : canIssue s t w 1 o = some (it, th)) (hguard : guardHolds th w = true)
    (halign : addrI th w % widthBytes (wW w) = 0)
    (hread : readJva s t.item t.n 0 (addrI th w) (widthBytes (wW w)) = (s1, .ok (bs, srcs)))
    (hdecode : ∀ l, srcs.headD (.far 0) = .here l → stoveDecode s1 (lineOf l) e = (s1, .ok ())) :
    loadOp s t w o e ext = .next (onThread (chargeReads s1 t.item srcs) t fun x =>
      nextPc (setS x (wDst w) (ext (widthBytes (wW w)) (leNat bs)))) := by
  rw [loadOp, issue_of_guard _ hcan hguard]
  simp only [halign, ne_eq, not_true_eq_false, if_false, hread, onGot_ok]
  cases hsrc : srcs.headD (.far 0) with
  | here l => simp only [hdecode l hsrc, onGot_ok]
  | far key => simp only [onGot_ok]
  | refused status => simp only [onGot_ok]

/-- A store at an aligned address that the shared store operation takes passes on. -/
theorem storeOp_of_store {s s1 : State} {t : ThreadRef} {w : BitVec 64} {o align : Nat} {it : Item} {th : Thread} {bytes : Thread → List Byte}
    (hcan : canIssue s t w 1 o = some (it, th)) (hguard : guardHolds th w = true) (halign : addrI th w % align = 0)
    (hstore : storeJva s t.item t.n (.store t) (addrI th w) (bytes th) = (s1, .ok ())) :
    storeOp s t w o align bytes = .next (onThread s1 t nextPc) := by
  rw [storeOp, issue_of_guard _ hcan hguard]
  simp only [halign, ne_eq, not_true_eq_false, if_false, hstore, onGot_ok]

/-- Settles O4: a load that is aligned and at hand goes through to its register. -/
theorem loadsComplete : Obligations.LoadsComplete := by
  unfold Obligations.LoadsComplete
  intro s s1 t w it th bs srcs hguard
  refine ⟨?ld, ?ldsx, ?ldv⟩
  case ld =>
    intro e hcan halign hread hdecode
    exact (loadOp_of_read _ hcan hguard halign hread hdecode : execLd t w e s = _)
  case ldsx =>
    intro hcan halign hread hdecode
    exact (loadOp_of_read _ hcan hguard halign hread hdecode : execLdsx t w s = _)
  case ldv =>
    intro hcan halign hread
    change execLdv t w s = _
    rw [execLdv, issue_of_guard _ hcan hguard]
    simp only [halign, ne_eq, not_true_eq_false, if_false, hread, onGot_ok]

/-- Settles O5: stores go through the shared store operation, PARAM and RESW act on the item at once. -/
theorem storesComplete : Obligations.StoresComplete := by
  unfold Obligations.StoresComplete
  intro s s1 t w it th hguard
  refine ⟨?st, ?stv, ?stvh, ?param, ?resw⟩
  case st => exact fun hcan halign hstore => (storeOp_of_store hcan hguard halign hstore : execSt t w s = _)
  case stv => exact fun hcan halign hstore => (storeOp_of_store hcan hguard halign hstore : execStv t w s = _)
  case stvh => exact fun hcan halign hstore => (storeOp_of_store hcan hguard halign hstore : execStvh t w s = _)
  case param => exact fun hcan => (issue_of_guard _ hcan hguard : execParam t w s = _)
  case resw => exact fun hcan => (issue_of_guard _ hcan hguard : execResw t w s = _)

/-! ## Vector instructions (R114) -/

/-- An elementwise operation rounds each element once. -/
theorem vecOp_of_guard {s : State} {t : ThreadRef} {w : BitVec 64} {o : Nat} {it : Item} {th : Thread} (g : Thread → Nat → Val)
    (hcan : canIssue s t w 3 o = some (it, th)) (hguard : guardHolds th w = true) :
    vecOp s t w o g = .next (onThread (meterVec (bump s (vLen (wFmt w))) it (wFmt w)) t fun x => nextPc (setV x (wDst w)
      (vOf (wFmt w) (upTo (vLen (wFmt w)) fun j => codeOf (wFmt w) (wCvt w) (drawU s.draws j) (g th j))))) := by
  rw [vecOp, issue_of_guard _ hcan hguard]

/-- Settles O8: each elementwise instruction is one rounding per element of its operation; the others act on raw elements. -/
theorem vectorInstructionsComplete : Obligations.VectorInstructionsComplete := by
  unfold Obligations.VectorInstructionsComplete
  intro s t w it th hguard
  refine ⟨?elementwise, ?compare, ?vbc, ?vext, ?vins⟩
  case elementwise =>
    intro o c g hmem hcan
    have hexec : ∃ h : Thread → Nat → Val, exec (c t w) s = vecOp s t w o h ∧ h th = g := by
      refine (?_ : ∀ x ∈ _, ∃ h : Thread → Nat → Val, exec (x.2.1 t w) s = vecOp s t w x.1 h ∧ h th = x.2.2) _ hmem
      repeat refine List.forall_mem_cons.2 ⟨⟨_, rfl, rfl⟩, ?_⟩
      exact List.forall_mem_nil _
    obtain ⟨h, hexec, rfl⟩ := hexec
    rw [hexec, vecOp_of_guard h hcan hguard]
  case compare =>
    intro o c g hmem hcan
    have hexec : exec (c t w) s = vcmp s t w o g := by
      refine (?_ : ∀ x ∈ _, exec (x.2.1 t w) s = vcmp s t w x.1 x.2.2) _ hmem
      repeat refine List.forall_mem_cons.2 ⟨rfl, ?_⟩
      exact List.forall_mem_nil _
    rw [hexec, vcmp, issue_of_guard _ hcan hguard]
  case vbc => exact fun hcan => (issue_of_guard _ hcan hguard : execVbc t w s = _)
  case vext =>
    intro hcan hlt
    change execVext t w s = _
    rw [execVext, issue_of_guard _ hcan hguard]
    simp only [hlt, if_true]
  case vins =>
    intro hcan hlt
    change execVins t w s = _
    rw [execVins, issue_of_guard _ hcan hguard]
    simp only [hlt, if_true]

/-! ## Accumulating instructions (R120 to R123) -/

/-- The accumulator takes the class, and no lane passes its count: the lanes change. -/
theorem accumulate_of_lanes {s : State} {t : ThreadRef} {r : Nat} {long : Bool} {g : Nat → Lane → Lane} {a : Acc}
    (hclass : takeClass (aReg (threadOf s t) r) long = some a) (hlanes : laneOver (mapLanes a g) = false) :
    accumulate s t r long g = .next (onThread s t fun x => nextPc (setA x r (mapLanes a g))) := by
  simp only [accumulate, hclass, hlanes, Bool.false_eq_true, if_false]

/-- A lane would pass its count of products. -/
theorem accumulate_of_laneOver {s : State} {t : ThreadRef} {r : Nat} {long : Bool} {g : Nat → Lane → Lane} {a : Acc}
    (hclass : takeClass (aReg (threadOf s t) r) long = some a) (hlanes : laneOver (mapLanes a g) = true) :
    accumulate s t r long g = .next (fault s t stMalformed 0) := by
  simp only [accumulate, hclass, hlanes, if_true]

/-- The accumulator is of another class. -/
theorem accumulate_of_otherClass {s : State} {t : ThreadRef} {r : Nat} {long : Bool} {g : Nat → Lane → Lane}
    (hclass : takeClass (aReg (threadOf s t) r) long = none) : accumulate s t r long g = .next (fault s t 0xF3 0) := by
  simp only [accumulate, hclass]

/-- A long instruction does not take a binary32 accumulator, nor the other way about. -/
theorem takeClass_eq_none_iff {a : Acc} {long : Bool} :
    takeClass a long = none ↔ (long = true ∧ a.cls = .b32) ∨ (long = false ∧ a.cls = .long) := by
  unfold takeClass
  cases a.cls <;> cases long <;> simp

/-- Settles O10: the class decides between the fault and the lanes, the count of products between the lanes and MALFORMED. -/
theorem accumulateAnswers : Obligations.AccumulateAnswers := by
  unfold Obligations.AccumulateAnswers
  exact fun s t r long g => ⟨fun a => accumulate_of_lanes, fun a => accumulate_of_laneOver, accumulate_of_otherClass, takeClass_eq_none_iff⟩

/-- Settles O9: what each instruction adds is given lane by lane, and the accumulator takes it. -/
theorem accumulatorInstructionsComplete : Obligations.AccumulatorInstructionsComplete := by
  unfold Obligations.AccumulatorInstructionsComplete
  intro s s1 s2 t w it th a h tag b d bs g hguard
  refine ⟨?mmvEmpty, ?mmv, ?mtv, ?aout, ?aaddv, ?axp, ?axi⟩
  case mmvEmpty =>
    intro hcan hstat hclass hlanes
    change execMmv t w s = _
    rw [execMmv, issue_of_guard _ hcan hguard]
    simp only [hstat, accumulate_of_lanes hclass hlanes]
  case mmv =>
    rintro hcan hstat rfl rfl hclass hlanes
    change execMmv t w s = _
    rw [execMmv, issue_of_guard _ hcan hguard]
    simp only [hstat]
    exact accumulate_of_lanes hclass hlanes
  case mtv =>
    rintro hcan htile rfl rfl hclass hlanes
    change execMtv t w s = _
    rw [execMtv, issue_of_guard _ hcan hguard]
    simp only [htile, onGot_ok]
    exact accumulate_of_lanes hclass hlanes
  case aout => exact fun hcan => (issue_of_guard _ hcan hguard : execAout t w s = _)
  case aaddv =>
    rintro hcan rfl hclass hlanes
    change execAaddv t w s = _
    rw [execAaddv, issue_of_guard _ hcan hguard]
    exact accumulate_of_lanes hclass hlanes
  case axp =>
    intro hcan hscratch
    change execAxp t w s = _
    rw [execAxp, issue_of_guard _ hcan hguard]
    simp only [hscratch, onGot_ok]
  case axi =>
    rintro hcan hhandle hread hgood rfl hclass hlanes
    change execAxi t w s = _
    rw [execAxi, issue_of_guard _ hcan hguard]
    simp only [hhandle, hread, hgood, onGot_ok, Bool.false_eq_true, if_false]
    exact accumulate_of_lanes hclass hlanes

/-! ## Atomics (R124, R126) -/

/-- An atomic on a line of this module that is ready and whole changes it at its home at once. -/
theorem atomicAt_here {s s1 s2 : State} {t : ThreadRef} {it : Item} {th : Thread} {dst jva aop w op new a old : Nat}
    (hreply : th.reply = none) (hplace : tryStore s t.item 2 jva false = (s1, .ok (.here a))) (hwhole : isPoisoned s1 (lineOf a) = false)
    (happly : applyAtomic (meter (meterLine s1 (lineOf a) it.job 128) it.job 3 1) (lineOf a) (a % 64) aop w op new = (old, s2)) :
    atomicAt s t it th dst jva aop w op new = .next (onThread s2 t fun x => nextPc (setS x dst (BitVec.ofNat 64 old))) := by
  simp only [atomicAt, hreply, hplace, onGot_ok, hwhole, Bool.false_eq_true, if_false, happly]

/-- An atomic whose answer has come is completed by it. -/
theorem atomicAt_replied {s : State} {t : ThreadRef} {it : Item} {th : Thread} {dst jva aop w op new : Nat} {v : W64}
    (hreply : th.reply = some (stOk, v)) :
    atomicAt s t it th dst jva aop w op new =
      .next (onThread (onThread s t fun x => { x with reply := none }) t fun x => nextPc (setS x dst v)) := by
  simp only [atomicAt, hreply, if_true]

/-- Settles O11: each atomic is the shared one under its own operation, at an address that is aligned. -/
theorem atomicInstructionsComplete : Obligations.AtomicInstructionsComplete := by
  unfold Obligations.AtomicInstructionsComplete
  intro s s1 s2 t w it th a old v hguard
  refine ⟨?atomics, ?flagcas⟩
  case atomics =>
    intro o c hmem hcan halign
    have hexec : exec (c t w) s = atomicOp s t w o := by
      refine (?_ : ∀ x ∈ _, exec (x.2 t w) s = atomicOp s t w x.1) _ hmem
      repeat refine List.forall_mem_cons.2 ⟨rfl, ?_⟩
      exact List.forall_mem_nil _
    rw [hexec, atomicOp, issue_of_guard _ hcan hguard]
    simp only [halign, ne_eq, not_true_eq_false, if_false]
    exact ⟨atomicAt_here, atomicAt_replied⟩
  case flagcas =>
    intro hcan hreply hplace hwhole happly
    change execFlagcas t w s = _
    rw [execFlagcas, issue_of_guard _ hcan hguard]
    exact atomicAt_here hreply hplace hwhole happly

end Sys2Proof.Machine

/-! ## Tiles (R115 to R119) -/

namespace Sys2Proof.Machine

/-- Settles O7: with a free handle, or a live one whose tile is whole, each instruction goes through. -/
theorem tileInstructionsComplete : Obligations.TileInstructionsComplete := by
  unfold Obligations.TileInstructionsComplete
  intro s s1 s2 t w it th n h bs tag hguard
  refine ⟨?tld, ?talloc, ?tst, ?trel, ?trv, ?twv, ?ttag, ?twait, ?tcvt, ?mwld⟩
  case tld =>
    intro e hcan halign hfree hroom hleaf
    change execTld t w e s = _
    rw [execTld, issue_of_guard _ hcan hguard]
    simp only [halign, ne_eq, not_true_eq_false, if_false, hfree, Nat.not_le.mpr hroom, hleaf]
  case talloc =>
    intro hcan hfree hroom
    change execTalloc t w s = _
    rw [execTalloc, issue_of_guard _ hcan hguard]
    simp only [hfree, Nat.not_le.mpr hroom, if_false]
  case tst =>
    intro hcan halign htile hstore
    change execTst t w s = _
    rw [execTst, issue_of_guard _ hcan hguard]
    simp only [halign, ne_eq, not_true_eq_false, if_false, htile, hstore, onGot_ok]
  case trel =>
    intro hcan hlive
    change execTrel t w s = _
    rw [execTrel, issue_of_guard _ hcan hguard]
    simp only [hlive]
  case trv =>
    intro hcan hhandle hread
    change execTrv t w s = _
    rw [execTrv, issue_of_guard _ hcan hguard]
    simp only [hhandle, hread, onGot_ok]
  case twv =>
    intro hcan hscratch
    change execTwv t w s = _
    rw [execTwv, issue_of_guard _ hcan hguard]
    simp only [hscratch, onGot_ok]
  case ttag =>
    intro hcan hhandle htag
    change execTtag t w s = _
    rw [execTtag, issue_of_guard _ hcan hguard]
    simp only [hhandle, htag, onGot_ok]
  case twait =>
    intro hcan hlive hhandle
    change execTwait t w s = _
    rw [execTwait, issue_of_guard _ hcan hguard]
    simp only [hlive, hhandle]
  case tcvt =>
    rintro hcan hfree hroom htile rfl
    change execTcvt t w s = _
    rw [execTcvt, issue_of_guard _ hcan hguard]
    simp only [hfree, Nat.not_le.mpr hroom, if_false, htile, onGot_ok, if_true]
  case mwld =>
    intro hcan htile
    change execMwld t w s = _
    rw [execMwld, issue_of_guard _ hcan hguard]
    simp only [htile, onGot_ok]

end Sys2Proof.Machine

/-! ## Counters, waits and fences of a thread (R125, R127) -/

namespace Sys2Proof.Machine

/-- A fence with nothing outstanding returns at once. -/
theorem fenceOp_of_closed {s : State} {t : ThreadRef} {w : BitVec 64} {o : Nat} {it : Item} {th : Thread} {dev : Thread → Option Nat}
    (hcan : canIssue s t w 0xB o = some (it, th)) (hguard : guardHolds th w = true) (hclosed : fenceOpen s t (dev th) = false) :
    fenceOp s t w o dev = .next (endFence s t (wDst w) (dev th)) := by
  rw [fenceOp, issue_of_guard _ hcan hguard]
  simp only [hclosed, Bool.false_eq_true, if_false]

/-- Settles O12: counters act at once, a flag that matches ends its wait, and a fence returns when nothing is outstanding. -/
theorem waitsAndFencesComplete : Obligations.WaitsAndFencesComplete := by
  unfold Obligations.WaitsAndFencesComplete
  intro s s1 t w it th bs srcs a v dst since limit k hguard
  refine ⟨?cntadd, ?cntwait, ?cntrd, ?flagwait, ?poll, ?limit, ?fence, ?fenced, ?countZero⟩
  case cntadd => exact fun hcan => (issue_of_guard _ hcan hguard : execCntadd t w s = _)
  case cntwait =>
    intro hcan
    change execCntwait t w s = _
    rw [execCntwait, issue_of_guard _ hcan hguard]
    split
    · rfl
    · rfl
  case cntrd => exact fun hcan => (issue_of_guard _ hcan hguard : execCntrd t w s = _)
  case flagwait =>
    intro hcan hread hmatch
    change execFlagwait t w s = _
    rw [execFlagwait, issue_of_guard _ hcan hguard]
    simp only [hread, onGot_ok, hmatch, if_true]
  case poll =>
    intro hwait hdue hread
    change execFlagwaitPoll t s = _
    simp only [execFlagwaitPoll, hwait, hdue, Bool.not_true, Bool.false_eq_true, if_false, hread]
    split
    · rfl
    · rfl
  case limit =>
    intro q hwait hlimited hpassed
    change execFlagwaitTimeout t s = _
    simp [execFlagwaitTimeout, hwait, hlimited, hpassed]
  case fence => exact fun hcan hclosed => (fenceOp_of_closed hcan hguard hclosed : execFenceInstr t w s = _)
  case fenced => exact fun hcan hclosed => (fenceOp_of_closed hcan hguard hclosed : execFenced t w s = _)
  case countZero =>
    intro dev hwait hclosed
    change execFenceCountZero (.thread t) s = _
    simp only [execFenceCountZero, hwait, hclosed, Bool.false_eq_true, if_false]

end Sys2Proof.Machine

/-! ## Control (R114, R131, R133) -/

namespace Sys2Proof.Machine

/-- Settles O13: each control instruction moves the pc, ends its thread or faults. -/
theorem controlInstructionsComplete : Obligations.ControlInstructionsComplete := by
  unfold Obligations.ControlInstructionsComplete
  intro s t w it th hguard
  refine ⟨?br, ?jal, ?jrInside, ?jrOutside, ?loop, ?exit, ?trap, ?ccnt⟩
  case br => exact fun hcan => (issue_of_guard _ hcan hguard : execBr t w s = _)
  case jal => exact fun hcan => (issue_of_guard _ hcan hguard : execJal t w s = _)
  case jrInside =>
    intro hcan hinside
    change execJr t w s = _
    rw [execJr, issue_of_guard _ hcan hguard]
    exact if_neg (Nat.not_le.mpr hinside)
  case jrOutside =>
    intro hcan houtside
    change execJr t w s = _
    rw [execJr, issue_of_guard _ hcan hguard]
    exact if_pos houtside
  case loop =>
    intro hcan
    change execLoop t w s = _
    rw [execLoop, issue_of_guard _ hcan hguard]
    congr 2
    funext x
    by_cases hzero : sReg x (wDst w) - 1 = 0
    · simp only [hzero, if_true]
    · simp only [hzero, if_false, jump]
  case exit => exact fun hcan => (issue_of_guard _ hcan hguard : execExit t w s = _)
  case trap => exact fun hcan => (issue_of_guard _ hcan hguard : execTrap t w s = _)
  case ccnt => exact fun hcan => (issue_of_guard _ hcan hguard : execCcnt t w s = _)

end Sys2Proof.Machine

/-! ## Search and embedding helpers (R114, log 29) -/

namespace Sys2Proof.Machine

/-- A helper whose handles can be used leaves free bytes in its scratch tile. -/
theorem helperTile_of_handles {s : State} {t : ThreadRef} {w : BitVec 64} {o : Nat} {it : Item} {th : Thread} {d h h2 : Handle}
    (needB : Bool) (hcan : canIssue s t w 8 o = some (it, th)) (hguard : guardHolds th w = true)
    (hdst : useScratch th (sReg th (wDst w)) = .ok d) (ha : useHandle it th (sReg th (wSa w)) = .ok h)
    (hb : useHandle it th (sReg th (wSb w)) = .ok h2) :
    helperTile s t w o needB = .next (onThread (bump s 16384) t fun x =>
      nextPc (modHandle x d.num fun y => { y with data := { y.data with cells := cellsOf (freeTile s) } })) := by
  rw [helperTile, issue_of_guard _ hcan hguard]
  cases needB
  · simp only [hdst, ha, onGot_ok, Bool.false_eq_true, if_false]
  · simp only [hdst, ha, hb, onGot_ok, if_true]

/-- Settles O14: with handles that can be used and bytes that can be read, each helper goes through. -/
theorem helperInstructionsComplete : Obligations.HelperInstructionsComplete := by
  unfold Obligations.HelperInstructionsComplete
  intro s s1 t w it th d h h2 tag bs srcs hguard
  refine ⟨?scratch, ?topkmrg, ?bmtest, ?coaliHeld, ?coaliNew, ?coaln⟩
  case scratch =>
    intro o c hmem hcan hdst ha hb
    have hexec : ∃ needB, exec (c t w) s = helperTile s t w o needB := by
      refine (?_ : ∀ x ∈ _, ∃ needB, exec (x.2 t w) s = helperTile s t w x.1 needB) _ hmem
      repeat refine List.forall_mem_cons.2 ⟨⟨_, rfl⟩, ?_⟩
      exact List.forall_mem_nil _
    obtain ⟨needB, hexec⟩ := hexec
    rw [hexec, helperTile_of_handles needB hcan hguard hdst ha hb]
  case topkmrg =>
    intro hcan hdst htile hlist hown hfits
    change execTopkmrg t w s = _
    rw [execTopkmrg, issue_of_guard _ hcan hguard]
    simp only [hdst, htile, onGot_ok, hlist, hown, Nat.not_lt.mpr hfits, decide_false, Bool.or_self, Bool.false_eq_true, if_false]
  case bmtest =>
    intro hcan hread
    change execBmtest t w s = _
    rw [execBmtest, issue_of_guard _ hcan hguard]
    simp only [hread, onGot_ok]
  case coaliHeld =>
    intro n hcan hheld
    change execCoali t w s = _
    rw [execCoali, issue_of_guard _ hcan hguard]
    simp only [hheld]
  case coaliNew =>
    intro hcan hnew hroom
    change execCoali t w s = _
    rw [execCoali, issue_of_guard _ hcan hguard]
    simp only [hnew, Nat.not_le.mpr hroom, if_false]
  case coaln => exact fun hcan => (issue_of_guard _ hcan hguard : execCoaln t w s = _)

end Sys2Proof.Machine

/-! ## Operators, unit by unit (R136, log 62) -/

namespace Sys2Proof.Machine

/-- Of an item that runs an operator the operator's command does its body. -/
theorem opRun_of_runs {s : State} {i : ItemId} {op : Nat} {it : Item} (body : Item → Ans) (hruns : runs s i op it) :
    opRun s i op body = body it := by
  obtain ⟨hitem, hop, hresult, hcancel⟩ := hruns
  simp [opRun, hitem, hop, hresult, hcancel]

/-- Of an item that runs ADVISE with that advice its command does its body. -/
theorem adviseRun_of_runs {s : State} {i : ItemId} {advice : Nat} {it : Item} (body : Item → Ans) (hruns : runs s i 0x0051 it)
    (hadvice : opFld it 352 8 = advice) : adviseRun s i advice body = body it := by
  rw [adviseRun, opRun_of_runs _ hruns, if_pos hadvice]

/-- An access of an operator that has come to its end goes on with what it brought. -/
@[simp] theorem onGotI_ok {α : Type} (s : State) (i : ItemId) (r : Result) (jva : Nat) (x : α) (k : α → Ans) :
    onGotI s i r jva (.ok x) k = k x := rfl

/-- PREFETCH of either target ends when its tiles are done. -/
theorem prefetchTile_end {s : State} {i : ItemId} {it : Item} {target : Nat} (hruns : runs s i 0x0050 it)
    (htarget : opFld it 352 2 = target) (hdone : opFld it 320 32 ≤ it.prog) :
    prefetchTile s i target = .next (endItem s i { status := stOk, count := itCnt it 0, detail := itCnt it 1 }) := by
  rw [prefetchTile, opRun_of_runs _ hruns]
  simp only [htarget, ne_eq, not_true_eq_false, if_false, hdone, if_true]

/-- Settles O15: each operator looks first whether its units are done. -/
theorem operatorsEnd : Obligations.OperatorsEnd := by
  unfold Obligations.OperatorsEnd
  intro s i it
  refine ⟨?nop, ?copy, ?fill, ?reduceLocal, ?reduceGroup, ?translate, ?tier0, ?pin, ?unpin, ?remap, ?attend⟩
  case nop => exact fun hruns => (opRun_of_runs _ hruns : execNop i s = _)
  case copy =>
    intro hruns hdone
    change execCopy i s = _
    rw [execCopy, opRun_of_runs _ hruns]
    exact if_pos hdone
  case fill =>
    intro hruns hdone
    change execFill i s = _
    rw [execFill, opRun_of_runs _ hruns]
    exact if_pos hdone
  case reduceLocal =>
    intro hruns hlocal hdone
    change execReduceLocal i s = _
    rw [execReduceLocal, opRun_of_runs _ hruns]
    simp only [hlocal, ne_eq, not_true_eq_false, if_false, hdone, if_true]
  case reduceGroup =>
    intro hruns hgroup hdone
    change execReduceGroup i s = _
    rw [execReduceGroup, opRun_of_runs _ hruns]
    simp only [hgroup, if_false, hdone, if_true]
  case translate => exact fun hruns htarget hdone => (prefetchTile_end hruns htarget hdone : execPrefetchTranslate i s = _)
  case tier0 => exact fun hruns htarget hdone => (prefetchTile_end hruns htarget hdone : execPrefetchTier0 i s = _)
  case pin =>
    intro hruns hadvice hdone
    change execAdvisePin i s = _
    rw [execAdvisePin, adviseRun_of_runs _ hruns hadvice]
    by_cases hshort : itCnt it 2 = 0
    · simp only [hdone, if_true, hshort, ne_eq, not_true_eq_false, if_false]
    · simp only [hdone, if_true, hshort, ne_eq, not_false_eq_true]
  case unpin =>
    intro hruns hadvice hdone
    change execAdviseUnpin i s = _
    rw [execAdviseUnpin, adviseRun_of_runs _ hruns hadvice]
    exact if_pos hdone
  case remap =>
    intro lk e hruns hadvice hjob haligned hdone
    change execAdviseRemap i s = _
    rw [execAdviseRemap, adviseRun_of_runs _ hruns hadvice]
    simp only [hjob, haligned, ne_eq, not_true_eq_false, if_false, hdone, if_true]
    split
    · rfl
    · rfl
  case attend =>
    rintro k hruns rfl hbegun hdone
    have hend : ∃ n, execAttend i s = .next (endItem s i { status := plainStatus it, count := it.prog - 1, opResult := n }) := by
      rw [execAttend, opRun_of_runs _ hruns]
      simp only [hbegun, if_false, hdone, if_true]
      exact ⟨_, rfl⟩
    obtain ⟨n, hend⟩ := hend
    exact ⟨_, hend, rfl, rfl⟩

/-- Settles O16: with every access at its end one unit goes through. -/
theorem generalOperatorUnits : Obligations.GeneralOperatorUnits := by
  unfold Obligations.GeneralOperatorUnits
  intro s s1 s2 s3 s4 i it tag bs
  refine ⟨?copy, ?fill, ?reduceLocal, ?reduceGroup⟩
  case copy =>
    intro hruns hmore hread hplain hstore
    change execCopy i s = _
    rw [execCopy, opRun_of_runs _ hruns]
    simp only [Nat.not_le.mpr hmore, if_false, hread, onGotI_ok, hplain, decide_false, Bool.false_and, Bool.false_eq_true, hstore]
  case fill =>
    intro hruns hmore hpattern hstore
    change execFill i s = _
    rw [execFill, opRun_of_runs _ hruns]
    simp only [Nat.not_le.mpr hmore, if_false, hpattern, if_true, hstore, onGotI_ok]
  case reduceLocal =>
    rintro dense m as_ bs_ hruns hlocal hmore rfl hclass ha hb hstore
    change execReduceLocal i s = _
    rw [execReduceLocal, opRun_of_runs _ hruns]
    simp only [hlocal, ne_eq, not_true_eq_false, Nat.not_le.mpr hmore, if_false, hclass, onGotI_ok, ha, hb, hstore]
  case reduceGroup =>
    rintro m vs hruns hgroup hmore hclass rfl hread hgive
    change execReduceGroup i s = _
    rw [execReduceGroup, opRun_of_runs _ hruns]
    simp only [hgroup, if_false, Nat.not_le.mpr hmore, hclass, onGotI_ok, Bool.not_true, Bool.false_and, Bool.false_eq_true, hread, hgive]

/-- Settles O17: with the tile's pages and place at hand one unit goes through. -/
theorem preparingOperatorUnits : Obligations.PreparingOperatorUnits := by
  unfold Obligations.PreparingOperatorUnits
  intro s s1 s2 i it ps tile
  refine ⟨?translate, ?tier0, ?pin, ?unpin, ?pair, ?unpair, ?remap, ?publish⟩
  case translate =>
    intro hruns htarget hmore hpages
    change prefetchTile s i 0 = _
    rw [prefetchTile, opRun_of_runs _ hruns]
    simp only [htarget, ne_eq, not_true_eq_false, if_false, Nat.not_le.mpr hmore, hpages, if_true]
  case tier0 =>
    intro hruns htarget hmore hpages htile
    change prefetchTile s i 1 = _
    rw [prefetchTile, opRun_of_runs _ hruns]
    simp only [htarget, ne_eq, not_true_eq_false, if_false, Nat.not_le.mpr hmore, hpages, Nat.one_ne_zero, htile]
  case pin =>
    intro hruns hadvice hmore hpages htile hadmit hquadrant hunpinned hroom
    change execAdvisePin i s = _
    rw [execAdvisePin, adviseRun_of_runs _ hruns hadvice]
    simp only [Nat.not_le.mpr hmore, if_false, hpages, onGotI_ok, htile, hadmit, Option.isSome_none, Bool.false_eq_true, hquadrant,
      Bool.not_true, hunpinned, Nat.not_le.mpr hroom]
  case unpin =>
    intro hruns hadvice hmore hpages htile hadmit hpinned
    change execAdviseUnpin i s = _
    rw [execAdviseUnpin, adviseRun_of_runs _ hruns hadvice]
    simp only [Nat.not_le.mpr hmore, if_false, hpages, onGotI_ok, htile, hadmit, Option.isSome_none, Bool.false_eq_true, hpinned, if_true]
  case pair =>
    intro hruns hadvice haligned hdone hdense
    change execAdvisePair i s = _
    rw [execAdvisePair, adviseRun_of_runs _ hruns hadvice]
    simp only [haligned, ne_eq, not_true_eq_false, if_false, hdone, if_true, hdense, Bool.not_true, Bool.false_eq_true]
  case unpair => exact fun hruns hadvice => (adviseRun_of_runs _ hruns hadvice : execAdviseUnpair i s = _)
  case remap =>
    intro lk e x ok hruns hadvice hjob haligned hmore hleaf hstill hspot hpass hbytes hhere hrewrite
    change execAdviseRemap i s = _
    rw [execAdviseRemap, adviseRun_of_runs _ hruns hadvice]
    simp only [hjob, haligned, ne_eq, not_true_eq_false, if_false, Nat.not_le.mpr hmore, hleaf, hstill, hspot, Bool.not_true,
      Bool.false_eq_true, hpass, hbytes, hhere, hrewrite]
  case publish =>
    intro m l ans hruns hquiet hxlate hhere hpresent hstate hpublish
    change execPublish i s = _
    rw [execPublish, opRun_of_runs _ hruns]
    simp only [hquiet, Bool.false_eq_true, if_false, hxlate, onGotI_ok, hhere, ne_eq, not_true_eq_false, hpresent, hstate,
      not_false_eq_true, decide_true, Bool.and_self, if_true, hpublish]

/-- A row met before in its pass is written from the staging ring. -/
theorem gatherOne_staged {s s1 : State} {i : ItemId} {it : Item} {t : Tbl} {dense : Bool} {ix key : Nat} {rows : List (Bool × Nat)}
    {bs : List Byte} (hindex : readIndex s i it (itCnt it 0) = (s1, .ok (ix, false))) (hrows : rowsOf t ix = some rows)
    (hstaged : it.got.find? (·.1 = ringKey rows) = some (key, bs)) : gatherOne s i it t dense = gatherWrite s1 i it t bs id := by
  simp only [gatherOne, hindex, onGotI_ok, Bool.false_eq_true, if_false, hrows, hstaged]

/-- Settles O18: with every access at its end one unit goes through. -/
theorem searchOperatorUnits : Obligations.SearchOperatorUnits := by
  unfold Obligations.SearchOperatorUnits
  intro s s1 s2 i it ix rows key bs ob
  refine ⟨?gather, ?scatter, ?probe, ?scan, ?merge, ?mergeEnd⟩
  case gather =>
    intro hruns hbegun hunpooled hindex hrows hstaged hstore
    change execGather i s = _
    rw [execGather, opRun_of_runs _ hruns]
    have hnot0 : it.prog ≠ 0 := by omega
    have hnot1 : it.prog ≠ 1 := by omega
    simp only [hnot0, hnot1, if_false, hunpooled, if_true, gatherOne_staged hindex hrows hstaged, gatherWrite, hstore, onGotI_ok, id]
  case scatter =>
    intro c hruns hprog htable hread hopt hclass
    change execScatterUpdate i s = _
    rw [execScatterUpdate, opRun_of_runs _ hruns]
    simp only [hprog, Nat.one_ne_zero, if_false, if_true, htable, hread, onGotI_ok, hopt, hclass]
  case probe =>
    intro hruns hbegun hdone hstore
    change execIvfProbe i s = _
    rw [execIvfProbe, opRun_of_runs _ hruns]
    simp only [hbegun, if_false, Nat.not_lt.mpr hdone, hstore, onGotI_ok]
  case scan =>
    rintro qv n hruns hprog hquery rfl hbook
    change execPqScan i s = _
    rw [execPqScan, opRun_of_runs _ hruns]
    simp only [hprog, Nat.one_ne_zero, if_false, if_true, hquery, onGotI_ok, hbook]
  case merge =>
    intro ls hruns hprog hlists hstore
    change execTopkMerge i s = _
    rw [execTopkMerge, opRun_of_runs _ hruns]
    simp only [hprog, if_true, hlists, onGotI_ok, hstore]
  case mergeEnd =>
    intro hruns hprog hnoGroup
    change execTopkMerge i s = _
    rw [execTopkMerge, opRun_of_runs _ hruns]
    simp only [hprog, if_false, hnoGroup, if_true, onGotI_ok]

/-- Settles O19: a run is read and checked once; its gates, its segments and ATTEND's descriptor go through one by one. -/
theorem runOperatorUnits : Obligations.RunOperatorUnits := by
  unfold Obligations.RunOperatorUnits
  intro s s1 s2 i it r bs
  refine ⟨?begin, ?gateOpen, ?gateExpired, ?next, ?last, ?attend⟩
  case begin =>
    intro k dense s3 hruns hfresh hr hhead hdesc hsome hfew hpasses hentries hsegs hwidth hlocal hclass hgroup
    have hallowed : ¬ (!dense && r.segs.any (·.toGroup) && decide (2 < opFld it 388 4)) = true := by
      simp only [Bool.and_eq_true, Bool.not_eq_true', decide_eq_true_eq, not_and, Nat.not_lt]
      exact fun ⟨hfine, hany⟩ => hgroup hfine hany
    subst hr
    change execMatvec i s = _
    rw [execMatvec, opRun_of_runs _ hruns]
    simp only [hfresh, beginRun, hhead, onGotI_ok, hdesc, hsome, Nat.not_lt.mpr hfew, hpasses, decide_false, Bool.or_self,
      Bool.false_eq_true, if_false, hentries, hsegs, hwidth, hlocal, hclass]
    exact if_neg hallowed
  case gateOpen =>
    intro hruns hrun hshut hread hready
    change execGateOpen i s = _
    rw [execGateOpen, opRun_of_runs _ hruns]
    simp only [hrun, hshut, Bool.false_eq_true, if_false, hread, onGotI_ok, hready, if_true]
  case gateExpired =>
    intro hruns hrun hshut hlimited hpassed
    change execGateExpired i s = _
    rw [execGateExpired, opRun_of_runs _ hruns]
    simp [hrun, hshut, hlimited, hpassed, failItem]
  case next =>
    intro hruns hrun hsent hquiet hsilent hmore
    change execSegmentComplete i s = _
    rw [execSegmentComplete, opRun_of_runs _ hruns]
    simp only [hrun, hsent, hquiet, Bool.not_true, Bool.or_self, Bool.false_eq_true, if_false, hsilent, if_true, onGotI_ok, hmore]
  case last =>
    intro hruns hrun hsent hquiet hsilent hlastSeg hlastPass
    change execSegmentComplete i s = _
    rw [execSegmentComplete, opRun_of_runs _ hruns]
    simp only [hrun, hsent, hquiet, Bool.not_true, Bool.or_self, Bool.false_eq_true, if_false, hsilent, if_true, onGotI_ok,
      Nat.not_lt.mpr hlastSeg, Nat.not_lt.mpr hlastPass]
  case attend =>
    intro c hruns hprog haligned hread hkv hclass
    change execAttend i s = _
    rw [execAttend, opRun_of_runs _ hruns]
    simp only [hprog, if_true, haligned, ne_eq, not_true_eq_false, if_false, hread, onGotI_ok, hkv, hclass]

end Sys2Proof.Machine

/-! ## Memory sites, channels and tier 0 (R45 to R58) -/

namespace Sys2Proof.Machine

/-- Settles O20: at a site that runs each command does its work; a lone read of a channel is its oldest request. -/
theorem siteWorkCompletes : Obligations.SiteWorkCompletes := by
  unfold Obligations.SiteWorkCompletes
  refine ⟨fun s s1 site chan rank bank lpa errs temps => ⟨?scrub, ?writeBack, ?rates, ?refresh, ?issue, rfl⟩, ?age⟩
  case scrub =>
    intro hruns
    change execScrubRead site errs s = _
    simp only [execScrubRead, hruns, Bool.not_true, Bool.false_eq_true, if_false]
  case writeBack =>
    intro hruns hline hpresent hready hstill
    change execScrubWriteBack site lpa s = _
    have hmarked : (siteAt s site).scrubbed.contains (lineOf lpa) = true := List.contains_iff_mem.mpr hline
    simp only [execScrubWriteBack, hruns, hmarked, Bool.not_true, Bool.or_self, Bool.false_eq_true, if_false, hpresent, hready, hstill,
      if_true]
  case rates =>
    intro hrun hphase
    change execRefreshRateRead temps s = _
    rw [execRefreshRateRead]
    exact if_neg (by simp [hrun, hphase])
  case refresh =>
    intro hruns hchan hrank hbank
    change execPerBankRefresh site chan rank bank s = _
    rw [execPerBankRefresh, if_neg (by simp [hruns, hchan, hrank, hbank])]
  case issue =>
    intro hruns hchan
    change execChannelIssue site chan s = _
    rw [execChannelIssue, if_pos (by simp [hruns, hchan])]
  case age =>
    intro s site chan d hchan hreads hwrites hurgent
    change execRequestAgeExpire site chan s = _
    simp only [execRequestAgeExpire, hreads, hwrites, hurgent, List.append_nil, List.foldl_cons, List.foldl_nil, hchan, decide_true,
      Option.isNone_none, Bool.and_self, Bool.true_and, decide_eq_true_eq]
    split
    · rfl
    · rfl

/-- Settles O21: the tile's entry in its Hearth decides what each move does. -/
theorem tierZeroMovesComplete : Obligations.TierZeroMovesComplete := by
  unfold Obligations.TierZeroMovesComplete
  intro s h tile since t hfind hhearth
  refine ⟨?complete, ?abandon, ?evicted, rfl⟩
  case complete =>
    intro hfilling htime
    change execTileFillComplete h tile s = _
    simp only [execTileFillComplete, hfind, hfilling, hhearth, htime, decide_true, Bool.and_self, if_true]
  case abandon =>
    intro hfilling htime
    change execTileFillAbandon h tile s = _
    simp only [execTileFillAbandon, hfind, hfilling, hhearth, htime, decide_true, Bool.and_self, if_true]
  case evicted =>
    rintro s1 bad hevicting rfl
    change execEvictWritebackComplete h tile bad s = _
    simp only [execEvictWritebackComplete, hfind, hevicting, hhearth, ne_eq, not_true_eq_false, decide_false, Bool.or_self,
      Bool.false_eq_true, if_false]

end Sys2Proof.Machine

/-! ## Items and their slots (R89 to R116, R129 to R131) -/

namespace Sys2Proof.Machine

/-- Settles O22: a fetch that is under way ends with its tile or with its budget, and a TLD that waits with its limit. -/
theorem tileFetchesComplete : Obligations.TileFetchesComplete := by
  unfold Obligations.TileFetchesComplete
  intro s s1 i k n b since it f g hitem
  refine ⟨?whole, ?budget, ?pool⟩
  case whole =>
    rintro hk rfl hfetching hread
    change execTileFetchComplete i k s = _
    simp only [execTileFetchComplete, hitem, Nat.not_le.mpr hk, if_false, hfetching, ne_eq, not_true_eq_false, hread]
  case budget =>
    rintro hk rfl hbudget hfetching hlapsed hresult
    change execFetchBudgetLapse i k s = _
    simp only [execFetchBudgetLapse, hitem, hbudget]
    rw [if_neg (by simp [hk, hfetching, hlapsed, hresult])]
    cases shadowOf s it.job (nth {} it.fetches k).jva with
    | some tile => rfl
    | none =>
      by_cases hmiss : it.miss = true
      · simp only [hmiss, if_true]
      · simp only [hmiss, Bool.false_eq_true, if_false]
  case pool =>
    intro w hwait hcode htime hword
    change execTldPoolTimeout { item := i, n := n } s = _
    simp only [execTldPoolTimeout, hitem, hwait, hcode, htime, Bool.and_self, if_true, hword]

/-- Settles O23: with the slot's lines ready, each of these ends as the flag and the item say. -/
theorem slotsAndItemsComplete : Obligations.SlotsAndItemsComplete := by
  unfold Obligations.SlotsAndItemsComplete
  intro s s1 s2 h i it w r c passed
  refine ⟨?take, ?complete, ?cancel, ?move, ?counters, ?domain⟩
  case take =>
    intro hchoose hwin hseated
    change execSlotTake h s = _
    simp only [execSlotTake, hchoose, hwin, hseated, if_false]
  case complete =>
    intro hitem houtcome hwin hlive hquiet hready hplace hflag
    change execItemComplete i s = _
    simp only [execItemComplete, hitem, houtcome, hwin, hlive, hquiet, Bool.or_self, Bool.false_eq_true, if_false, hready, hplace,
      Bool.not_true, hflag, if_true]
  case cancel =>
    intro hitem hcancelled hquiet hshown hwin hready hplace hflag hunpin
    change execCancelDrainDone i s = _
    simp only [execCancelDrainDone, hitem, hcancelled, hquiet, Bool.not_true, Bool.or_self, Bool.false_eq_true, if_false, hshown, hwin,
      hready, hplace, hflag, if_true, hunpin]
  case move =>
    intro stove hitem hstove hother hlive hfits hpowered hwin hready hflag hplace hwhole
    change execItemMove i stove s = _
    simp only [execItemMove, hitem, Nat.not_le.mpr hstove, hother, hlive, hfits, hpowered, decide_false, Bool.not_true, Bool.or_self,
      Bool.false_eq_true, if_false, hwin, hready, hflag, hplace, hwhole, ne_eq, not_true_eq_false]
  case counters =>
    intro ctx hwin hopen hchanged hdue
    change execWindowCounterUpdate ctx s = _
    simp only [execWindowCounterUpdate, hwin, hopen, hchanged, hdue, decide_true, Bool.and_self, if_true]
  case domain =>
    intro hreturning hh hpowered hrun
    change execStoveDomainPowered h s = _
    rw [execStoveDomainPowered, if_pos (by simp [hreturning, hh, hpowered, hrun])]

/-- Settles O24: a code object that passes its checks is kept, and the crew starts and stops on it. -/
theorem kernelsComplete : Obligations.KernelsComplete := by
  unfold Obligations.KernelsComplete
  intro s s1 s2 i it hb cb hs cs
  refine ⟨?read, ?start, ?limit⟩
  case read =>
    intro hruns hnoCode hhead hdesc hfits hcode hcrc hgood
    change execKernelCodeRead i s = _
    rw [execKernelCodeRead, opRun_of_runs _ hruns]
    simp only [hnoCode, Option.isSome_none, Bool.false_eq_true, if_false, hhead, onGotI_ok, hdesc, hfits, Bool.not_true, hcode, hcrc,
      ne_eq, not_true_eq_false, hgood]
  case start =>
    intro w hruns hcode hnew hwin
    change execKernel i s = _
    rw [execKernel, opRun_of_runs _ hruns, if_neg (by simp [Option.isSome_iff_ne_none.mp hcode, hnew])]
    simp only [hwin]
  case limit =>
    intro hitem hcode hlimited hpassed
    change execRunLimitExpire i s = _
    simp only [execRunLimitExpire, hitem]
    rw [if_pos (by simp [hcode, hlimited, hpassed])]

end Sys2Proof.Machine
/-! ## Memory requests at their home -/

namespace Sys2Proof.Machine

/-- A request that is served at a line and answered there at once is concluded with that answer. -/
theorem takeReq_answered {s s1 s2 : State} {a : Arrival} {f : Frame} {l : Nat} {r : Req} {mine : Bool} {ans : Answer}
    (h : servedAt s a f l s1 r) (ht : inTransit s f = false) (hmine : mine = true)
    (hm : f.typ ∈ [tRead, tWrite, tWritePush, tAtomic, tTileRead, tTileWrite, tCoh]) (hc : f.typ = tCoh → cohRequest f = true)
    (hans : applyReq s1 r [] l (decide (r.stage = 2)) = (s2, some ans)) :
    takeReq s a f mine = .next (settle (conclude (markFresh s2 l) l r [] ans)) := by
  obtain ⟨⟨s0, r0, hturn, hl, he⟩, -, -, hu⟩ := servedAt_enter h hm hc
  rw [takeReq_enters hmine ht hu, he, serveHome_answered hturn hl hans]

/-- A tile request that is served at a line and not answered there goes on to its next line, when that line is free. -/
theorem takeReq_nextLine {s s1 s2 : State} {a : Arrival} {f : Frame} {l : Nat} {r r2 : Req} {mine : Bool}
    (h : servedAt s a f l s1 r) (ht : inTransit s f = false) (hmine : mine = true)
    (hm : f.typ ∈ [tRead, tWrite, tWritePush, tAtomic, tTileRead, tTileWrite, tCoh]) (hc : f.typ ≠ tCoh)
    (hans : applyReq s1 r [] l (decide (r.stage = 2)) = (s2, none)) (hpart : r.part + 1 ≠ 256)
    (hr2 : r2 = { r with part := r.part + 1, acc := if isReadReq r.f then r.acc ++ lineBytes s2 l else [], stage := 0, a := { r.a with ecc := .clean } })
    (htx : txOf s2 l = none) (htx2 : txOf s2 (reqLine s2 r2) = none) (hlock : lockOf s2 (reqLine s2 r2) = none) :
    takeReq s a f mine = .next (settle (serveOne 4095 s2 r2 [])) := by
  obtain ⟨⟨s0, r0, hturn, hl, he⟩, -, -, hu⟩ := servedAt_enter h hm fun h => absurd h hc
  subst hr2
  rw [takeReq_enters hmine ht hu, he, serveHome_itsTurn hturn hl, hans]
  simp only [if_neg hpart, htx, htx2, hlock, Option.isSome_none, Bool.false_eq_true, if_false]

/-- What a line answers a READ. -/
theorem applyReq_read {s : State} {r : Req} {rest : List Req} {l : Nat} {far : Bool} (h : r.f.typ = tRead) :
    applyReq s r rest l far = (meterLine s l r.f.job 64,
      some (if isPoisoned s l then plain stPoison else { payload := lineBytes s l, result := readResult s r l })) := by
  simp only [applyReq, if_pos h]

/-- One line of a TILE_READ whose line is not poisoned. -/
theorem applyReq_tileRead {s : State} {r : Req} {rest : List Req} {l : Nat} {far : Bool} (h : r.f.typ = tTileRead) (hp : isPoisoned s l = false) :
    applyReq s r rest l far = (meterLine s l r.f.job 64, none) := by
  simp [applyReq, h, hp, tTileRead, tRead]

/-- A WRITE with a mask that is not empty, to a line that is not poisoned or that it writes whole. -/
theorem applyReq_write {s : State} {r : Req} {rest : List Req} {l : Nat} {far : Bool} (h : r.f.typ = tWrite) (h0 : r.f.opa ≠ 0)
    (hp : isPoisoned s l = false ∨ r.f.opa = BitVec.allOnes 64) :
    applyReq s r rest l far = (applyWrite
        (meterStore (dropOwn s l (ownAgents s r rest)) l r.f.job (decide (r.f.opa = BitVec.allOnes 64))) l
        (maskBytes r.f.opa.toNat (lineBytes s l) (byteSlice r.f.payload 0 64)) (decide (r.f.opa = BitVec.allOnes 64)),
      some (plain stOk)) := by
  have hrefused : (isPoisoned s l && !decide (r.f.opa = BitVec.allOnes 64)) = false := by
    rcases hp with hp | hp <;> simp [hp]
  simp only [applyReq, h, show tWrite ≠ tRead by decide, show tWrite ≠ tTileRead by decide, if_false, if_true, h0, hrefused,
    Bool.false_eq_true]

/-- A WRITE_PUSH. -/
theorem applyReq_writePush {s : State} {r : Req} {rest : List Req} {l : Nat} {far : Bool} (h : r.f.typ = tWritePush) :
    applyReq s r rest l far = (applyWrite (meterStore (dropOwn s l (ownAgents s r rest)) l r.f.job true) l (byteSlice r.f.payload 0 64) true,
      some (plain stOk)) := by
  simp only [applyReq, h, show tWritePush ≠ tRead by decide, show tWritePush ≠ tTileRead by decide, show tWritePush ≠ tWrite by decide,
    if_false, if_true]

/-- One line of a TILE_WRITE. -/
theorem applyReq_tileWrite {s : State} {r : Req} {rest : List Req} {l : Nat} {far : Bool} (h : r.f.typ = tTileWrite) :
    applyReq s r rest l far = (applyWrite (meterStore (dropOwn s l (ownAgents s r rest)) l r.f.job true) l
      (byteSlice r.f.payload (64 * r.part) 64) true, none) := by
  simp only [applyReq, h, show tTileWrite ≠ tRead by decide, show tTileWrite ≠ tTileRead by decide, show tTileWrite ≠ tWrite by decide,
    show tTileWrite ≠ tWritePush by decide, if_false, if_true]

/-- An ATOMIC on a line that is not poisoned. -/
theorem applyReq_atomic {s : State} {r : Req} {rest : List Req} {l : Nat} {far : Bool} {v : Nat × State} (h : r.f.typ = tAtomic)
    (hp : isPoisoned s l = false)
    (hv : v = applyAtomic (meter (meterLine (dropOwn s l (ownAgents s r rest)) l r.f.job 128) r.f.job 3 1) l (r.f.mpa.toNat % 64)
      (reqAop r.f) (reqW r.f) (atomicArgs r.f).1 (atomicArgs r.f).2) :
    applyReq s r rest l far = (v.2, some { result := BitVec.ofNat 64 v.1 }) := by
  subst hv
  simp only [applyReq, h, hp, show tAtomic ≠ tRead by decide, show tAtomic ≠ tTileRead by decide, show tAtomic ≠ tWrite by decide,
    show tAtomic ≠ tWritePush by decide, show tAtomic ≠ tTileWrite by decide, if_false, if_true, Bool.false_eq_true]

/-- Settles O25: each request enters the home whose turn it is, and what its line answers is concluded. -/
theorem memoryRequestsServed : Obligations.MemoryRequestsServed := by
  unfold Obligations.MemoryRequestsServed
  intro s s1 s2 a f l r r2 hserved htransit
  have htyp : f.typ ∈ [tRead, tWrite, tWritePush, tAtomic, tTileRead, tTileWrite, tCoh] → f.typ ≠ tCoh → r.f.typ = f.typ := fun hm hc =>
    (servedAt_enter hserved hm fun h => absurd h hc).2.1
  have hopa : f.typ = tWrite → r.f.opa = f.opa := fun h =>
    (servedAt_enter hserved (by simp [h]) fun h' => absurd (h.symm.trans h') (by decide)).2.2.1 (by rw [isTileReq, h]; rfl)
  refine ⟨?read, ?readPoisoned, ?write, ?writePush, ?atomic, ?tileRead, ?tileWrite⟩
  case read =>
    intro h hp
    have hr : r.f.typ = tRead := (htyp (by simp [h]) (by rw [h]; decide)).trans h
    refine takeReq_answered hserved htransit (by simp [h]) (by simp [h]) (fun h' => absurd (h.symm.trans h') (by decide)) ?_
    rw [applyReq_read hr, hp]; rfl
  case readPoisoned =>
    intro h hp
    have hr : r.f.typ = tRead := (htyp (by simp [h]) (by rw [h]; decide)).trans h
    refine takeReq_answered hserved htransit (by simp [h]) (by simp [h]) (fun h' => absurd (h.symm.trans h') (by decide)) ?_
    rw [applyReq_read hr, hp]; rfl
  case write =>
    intro h h0 hp
    have hr : r.f.typ = tWrite := (htyp (by simp [h]) (by rw [h]; decide)).trans h
    rw [← hopa h] at h0 hp ⊢
    exact takeReq_answered hserved htransit (by simp [h]) (by simp [h]) (fun h' => absurd (h.symm.trans h') (by decide))
      (applyReq_write hr h0 hp)
  case writePush =>
    intro h
    have hr : r.f.typ = tWritePush := (htyp (by simp [h]) (by rw [h]; decide)).trans h
    exact takeReq_answered hserved htransit (by simp [h]) (by simp [h]) (fun h' => absurd (h.symm.trans h') (by decide))
      (applyReq_writePush hr)
  case atomic =>
    intro h hp
    have hr : r.f.typ = tAtomic := (htyp (by simp [h]) (by rw [h]; decide)).trans h
    exact takeReq_answered hserved htransit (by simp [h]) (by simp [h]) (fun h' => absurd (h.symm.trans h') (by decide))
      (applyReq_atomic hr hp rfl)
  case tileRead =>
    intro h hp hs2 hr2 hpart htx htx2 hlock
    have hr : r.f.typ = tTileRead := (htyp (by simp [h]) (by rw [h]; decide)).trans h
    subst hs2
    exact takeReq_nextLine hserved htransit (by simp [h]) (by simp [h]) (by rw [h]; decide) (applyReq_tileRead hr hp) hpart
      (by rw [hr2, if_pos (by rw [isReadReq, hr]; rfl)]) htx htx2 hlock
  case tileWrite =>
    intro h hs2 hr2 hpart htx htx2 hlock
    have hr : r.f.typ = tTileWrite := (htyp (by simp [h]) (by rw [h]; decide)).trans h
    subst hs2
    exact takeReq_nextLine hserved htransit (by simp [h]) (by simp [h]) (by rw [h]; decide) (applyReq_tileWrite hr) hpart
      (by rw [hr2, if_neg (by rw [isReadReq, hr]; decide)]) htx htx2 hlock

end Sys2Proof.Machine
/-! ## Coherence requests and messages at their home -/

namespace Sys2Proof.Machine

/-- COH is none of the types that `applyReq` tells apart before it. -/
theorem tCoh_ne : tCoh ≠ tRead ∧ tCoh ≠ tTileRead ∧ tCoh ≠ tWrite ∧ tCoh ≠ tWritePush ∧ tCoh ≠ tTileWrite ∧ tCoh ≠ tAtomic := by decide

/-- RD_S of an agent. -/
theorem applyReq_rdS {s : State} {r : Req} {rest : List Req} {l : Nat} {far : Bool} (h : r.f.typ = tCoh) (hm : cohMsg r.f = 1)
    (hp : isPoisoned s l = false) (hn : r.nc = false) :
    applyReq s r rest l far = (grantTo (meterLine (countCoh s (lineHearth l) 0) l r.f.job 64) l r false,
      some (grantData (countCoh s (lineHearth l) 0) l 1 false)) := by
  simp only [applyReq, h, hm, hp, hn, tCoh_ne, Nat.reduceLeDiff, decide_true, Bool.and_false, Bool.false_eq_true, if_false, if_true]

/-- RD_X of an agent. -/
theorem applyReq_rdX {s : State} {r : Req} {rest : List Req} {l : Nat} {far : Bool} (h : r.f.typ = tCoh) (hm : cohMsg r.f = 2)
    (hp : isPoisoned s l = false) (hn : r.nc = false) :
    applyReq s r rest l far = (grantTo (meterLine (dropOwn (countCoh s (lineHearth l) 0) l (ownAgents s r rest)) l r.f.job 64) l r true,
      some (grantData (countCoh s (lineHearth l) 0) l 2 false)) := by
  simp only [applyReq, h, hm, hp, hn, tCoh_ne, Nat.reduceLeDiff, Nat.reduceEqDiff, decide_true, Bool.and_false, Bool.false_eq_true, if_false,
    if_true]

/-- UPGRADE of an agent that holds the line shared: no data. -/
theorem applyReq_upgrade_held {s : State} {r : Req} {rest : List Req} {l : Nat} {far : Bool} {hs : List Holder} (h : r.f.typ = tCoh)
    (hm : cohMsg r.f = 3) (hp : isPoisoned s l = false) (hn : r.nc = false)
    (hhome : homeOf (countCoh s (lineHearth l) 0) l = some (.s hs))
    (hheld : ((ownAgents s r rest).any fun k => hs.any (·.agent = k)) = true) :
    applyReq s r rest l far = (grantTo (meterLine (dropOwn (countCoh s (lineHearth l) 0) l (ownAgents s r rest)) l r.f.job 0) l r true,
      some { info := cohInfo 2 false false }) := by
  simp only [applyReq, h, hm, hp, hn, hhome, hheld, tCoh_ne, Nat.reduceLeDiff, Nat.reduceEqDiff, decide_true, Bool.and_false,
    Bool.false_eq_true, if_false, if_true]

/-- UPGRADE of an agent on a line that nobody holds: with the line. -/
theorem applyReq_upgrade_free {s : State} {r : Req} {rest : List Req} {l : Nat} {far : Bool} (h : r.f.typ = tCoh)
    (hm : cohMsg r.f = 3) (hp : isPoisoned s l = false) (hn : r.nc = false) (hhome : homeOf (countCoh s (lineHearth l) 0) l = none) :
    applyReq s r rest l far = (grantTo (meterLine (dropOwn (countCoh s (lineHearth l) 0) l (ownAgents s r rest)) l r.f.job 64) l r true,
      some (grantData (countCoh s (lineHearth l) 0) l 2 false)) := by
  have hheld : ((ownAgents s r rest).any fun _ => false) = false := by simp
  simp only [applyReq, h, hm, hp, hn, hhome, hheld, tCoh_ne, Nat.reduceLeDiff, Nat.reduceEqDiff, decide_true, Bool.and_false,
    Bool.false_eq_true, if_false, if_true]

/-- ATOM granted near. -/
theorem applyReq_atomNear {s c : State} {r : Req} {rest : List Req} {l : Nat} (h : r.f.typ = tCoh) (hm : cohMsg r.f = 4)
    (hp : isPoisoned s l = false) (hc : c = countCoh (meter (countCoh s (lineHearth l) 0) r.f.job 3 1) (lineHearth l) 7) :
    applyReq s r rest l false = (grantTo (meterLine (dropOwn c l (ownAgents s r rest)) l r.f.job 64) l r true, some (grantData c l 2 true)) := by
  subst hc
  simp only [applyReq, h, hm, hp, tCoh_ne, Nat.reduceLeDiff, Nat.reduceEqDiff, decide_true, Bool.and_false, Bool.false_eq_true, if_false,
    if_true]

/-- ATOM served far. -/
theorem applyReq_atomFar {s c : State} {r : Req} {rest : List Req} {l : Nat} {v : Nat × State} (h : r.f.typ = tCoh) (hm : cohMsg r.f = 4)
    (hp : isPoisoned s l = false)
    (hc : c = meterLine (dropOwn (countCoh (meter (countCoh s (lineHearth l) 0) r.f.job 3 1) (lineHearth l) 8) l (ownAgents s r rest)) l r.f.job 128)
    (hv : v = applyAtomic c l (r.f.mpa.toNat % 64) (reqAop r.f) (reqW r.f) (atomicArgs r.f).1 (atomicArgs r.f).2) :
    applyReq s r rest l true = (v.2, some { result := BitVec.ofNat 64 v.1 }) := by
  subst hc hv
  simp only [applyReq, h, hm, hp, tCoh_ne, Nat.reduceLeDiff, Nat.reduceEqDiff, decide_true, Bool.and_false, Bool.false_eq_true, if_false,
    if_true]

/-- Settles O26: each request enters the home whose turn it is, and is concluded with its grant. -/
theorem coherenceRequestsServed : Obligations.CoherenceRequestsServed := by
  unfold Obligations.CoherenceRequestsServed
  rintro s s1 c a f l r hserved htransit hcoh rfl hp
  have hmem : f.typ ∈ [tRead, tWrite, tWritePush, tAtomic, tTileRead, tTileWrite, tCoh] := by simp [hcoh]
  have hreq : 1 ≤ cohMsg f → cohMsg f ≤ 4 → f.typ = tCoh → cohRequest f = true := fun h1 h2 h => by simp [cohRequest, h, h1, h2]
  have hframe : 1 ≤ cohMsg f → cohMsg f ≤ 4 → r.f.typ = tCoh ∧ cohMsg r.f = cohMsg f := fun h1 h2 => by
    obtain ⟨-, htyp, hopa, -⟩ := servedAt_enter hserved hmem (hreq h1 h2)
    exact ⟨htyp.trans hcoh, by rw [cohMsg, cohMsg, hopa (by rw [isTileReq, hcoh]; rfl)]⟩
  have hans : ∀ {m s2 ans}, cohMsg f = m → 1 ≤ m → m ≤ 4 → applyReq s1 r [] l (decide (r.stage = 2)) = (s2, some ans) →
      takeCoh s a f m = .next (settle (conclude (markFresh s2 l) l r [] ans)) := fun hm h1 h2 happ =>
    takeReq_answered hserved htransit (by simp [hcoh, hm]) hmem (hreq (hm ▸ h1) (hm ▸ h2)) happ
  refine ⟨?rdS, ?rdX, ?upgradeHeld, ?upgradeFree, ?atomNear, ?atomFar⟩
  case rdS =>
    intro hm hn
    obtain ⟨ht, hmr⟩ := hframe (by omega) (by omega)
    exact takeReq_answered hserved htransit (by simp [hcoh, hm]) hmem (hreq (by omega) (by omega)) (applyReq_rdS ht (hmr.trans hm) hp hn)
  case rdX =>
    intro hm hn
    obtain ⟨ht, hmr⟩ := hframe (by omega) (by omega)
    exact hans hm (by decide) (by decide) (applyReq_rdX ht (hmr.trans hm) hp hn)
  case upgradeHeld =>
    intro hs hm hn hhome hheld
    obtain ⟨ht, hmr⟩ := hframe (by omega) (by omega)
    exact hans hm (by decide) (by decide) (applyReq_upgrade_held ht (hmr.trans hm) hp hn hhome hheld)
  case upgradeFree =>
    intro hm hn hhome
    obtain ⟨ht, hmr⟩ := hframe (by omega) (by omega)
    exact hans hm (by decide) (by decide) (applyReq_upgrade_free ht (hmr.trans hm) hp hn hhome)
  case atomNear =>
    rintro c1 hm hstage hc1
    obtain ⟨ht, hmr⟩ := hframe (by omega) (by omega)
    refine hans hm (by decide) (by decide) ?_
    rw [decide_eq_false hstage]
    exact applyReq_atomNear ht (hmr.trans hm) hp hc1
  case atomFar =>
    intro c1 v hm hstage hc1 hv
    obtain ⟨ht, hmr⟩ := hframe (by omega) (by omega)
    refine hans hm (by decide) (by decide) ?_
    rw [decide_eq_true hstage]
    exact applyReq_atomFar ht (hmr.trans hm) hp hc1 hv

/-- A leg's destination is noted in the network alone. -/
theorem legDest_boot (s : State) (f : Frame) (dev : Nat) : (legDest s f dev).boot = s.boot := rfl

/-- A message at its home is told apart there. -/
theorem messageAt_enter {s s1 : State} {a : Arrival} {f : Frame} {k : Nat} {r : Req} (h : messageAt s a f k s1 r) (hcoh : f.typ = tCoh) :
    enter s a f = cohMessage s1 r ∧ r.f.typ = tCoh ∧ r.f.opa = f.opa ∧ (linkOf s a.link).up = true := by
  obtain ⟨hway, hreq, -, -, -, -, hdev, -, -⟩ := h
  rcases hway with howner | ⟨s0, hentry, hfields, hdelivery, rfl⟩
  · obtain ⟨he, ht, ho, hu⟩ := atOwner_enter howner
    rw [hcoh] at ht
    exact ⟨by rw [he]; simp [ownerServe, ht, hreq, tCoh, tContrib, tDeliver], ht, ho, hu⟩
  · obtain ⟨he, ht, ho, hu, hctx⟩ := atEntry_enter hentry
    rw [hcoh] at ht
    have hself : mpaDev r.f.mpa.toNat = selfDev s0 := by rw [hdev, selfDev, selfDev, legDest_boot]
    have hnone : (if 0x10 ≤ cohMsg r.f then deliveryOf s0 r.f r.a.link else none) = none := by
      rcases hdelivery with h | h
      · exact if_neg (by omega)
      · rw [h, ite_self]
    refine ⟨?_, ht, ho (by rw [isTileReq, hcoh]; rfl), hu⟩
    rw [he]
    simp only [partnerBody, ht, hfields, hreq, show tCoh ≠ tCtxOpen by decide, show tCoh ≠ tFence by decide, show tCoh ≠ tInval by decide,
      agentMessage, hnone, hself, Bool.not_false, decide_true, Bool.and_self, Bool.false_eq_true, if_false, if_true]

/-- A message that `messageAt` admits is well formed. -/
theorem messageAt_form {s s1 : State} {a : Arrival} {f : Frame} {k : Nat} {r : Req} (h : messageAt s a f k s1 r) :
    (!listedMsg (cohMsg r.f) || decide (0x20 ≤ cohMsg r.f) || (cohData (cohMsg r.f) && decide (r.f.payload.length ≠ 64)) ||
      decide (r.f.mpa.toNat % 64 ≠ 0)) = false := by
  obtain ⟨-, -, hlisted, hlow, hdata, halign, -, -, -⟩ := h
  simp only [hlisted, halign, Nat.not_le.2 hlow]
  by_cases hd : cohData (cohMsg r.f) = true
  · simp [hdata hd]
  · simp [hd]

/-- An eviction or a write-back of an agent that is not being snooped for the line is served in the line's order. -/
theorem cohMessage_request {s s1 : State} {a : Arrival} {f : Frame} {k : Nat} {r : Req} (h : messageAt s a f k s1 r)
    (hm : cohMsg r.f < 0x10) (h8 : cohMsg r.f ≠ 8)
    (hsnoop : cohMsg r.f = 5 ∨ snoopedNow s1 (lineOf (mpaLpa r.f.mpa.toNat)) k = false) : cohMessage s1 r = serveHome s1 r := by
  have hform := messageAt_form h
  obtain ⟨-, -, -, -, -, -, hdev, hagent, hcut⟩ := h
  have h10 : (decide (cohMsg r.f = 0x10) && r.f.leg && decide (r.f.srcLink = 0x7F) && decide (r.f.srcDev / 64 = s1.boot.cell)) = false := by
    simp [show cohMsg r.f ≠ 0x10 by omega]
  have hsnooped : ((decide (cohMsg r.f = 6) || decide (cohMsg r.f = 7)) && snoopedNow s1 (lineOf (mpaLpa r.f.mpa.toNat)) k) = false := by
    rcases hsnoop with h | h <;> simp [h]
  simp only [cohMessage, hform, hdev, h10, hagent, hcut, hsnooped, ne_eq, not_true_eq_false, Nat.not_le.2 hm, h8, Bool.false_eq_true, if_false]

/-- A FETCH on a line without a transaction is answered at once. -/
theorem cohMessage_fetch {s s1 s2 : State} {a : Arrival} {f : Frame} {k l : Nat} {r : Req} {x : Option Answer} (h : messageAt s a f k s1 r)
    (hm : cohMsg r.f = 8) (hl : l = lineOf (mpaLpa r.f.mpa.toNat)) (htx : txOf s1 l = none) (happ : applyReq s1 r [] l false = (s2, x)) :
    cohMessage s1 r = answer s2 r (x.getD {}) := by
  have hform := messageAt_form h
  obtain ⟨-, -, -, -, -, -, hdev, hagent, hcut⟩ := h
  subst hl
  simp only [cohMessage, hform, hdev, hagent, hcut, ne_eq, not_true_eq_false, Bool.false_eq_true, if_false]
  simp only [hm, htx, happ, Nat.reduceLeDiff, Nat.reduceEqDiff, decide_false, Bool.false_and, Bool.or_self, Bool.false_eq_true, if_false,
    if_true]

/-- A snoop's answer at its home. -/
theorem cohMessage_answer {s s1 : State} {a : Arrival} {f : Frame} {k : Nat} {r : Req} (h : messageAt s a f k s1 r) (hm : 0x10 ≤ cohMsg r.f) :
    cohMessage s1 r = snoopAnswer s1 r (lineOf (mpaLpa r.f.mpa.toNat)) := by
  have hform := messageAt_form h
  obtain ⟨-, -, -, -, -, -, hdev, hagent, hcut⟩ := h
  simp only [cohMessage, hform, hdev, hagent, hcut, hm, ne_eq, not_true_eq_false, Bool.false_eq_true, if_false, if_true, ite_self]

/-- An answer without PEND to an open snoop ends it. -/
theorem snoopAnswer_done {s : State} {r : Req} {l m : Nat} {x : Snoop} (hx : answeredSnoop s r.f l = some x) (hm : cohMsg r.f = m)
    (hpend : m = 0x10 → r.f.opb.getLsbD 32 = false) :
    snoopAnswer s r l = progressTx (refuse (snoopDone s l x m r.f.payload) r stOk) l := by
  have hnot : (decide (m = 0x10) && r.f.opb.getLsbD 32) = false := by
    by_cases h : m = 0x10
    · rw [hpend h, Bool.and_false]
    · simp [h]
  simp only [snoopAnswer, hx, hm, hnot, Bool.false_and, Bool.false_eq_true, if_false]

/-- EVICT_S of a holder. -/
theorem applyReq_evictS {s : State} {r : Req} {rest : List Req} {l k : Nat} {far : Bool} {hs : List Holder} (h : r.f.typ = tCoh)
    (hm : cohMsg r.f = 5) (hk : agentOf s r.f = some k) (hhome : homeOf s l = some (.s hs)) :
    applyReq s r rest l far = (removeHolder s l k, some (plain stOk)) := by
  simp only [applyReq, h, hm, hk, hhome, tCoh_ne, Nat.reduceLeDiff, Nat.reduceEqDiff, decide_false, Bool.false_and, Bool.false_eq_true,
    if_false, if_true]

/-- EVICT_X of the owner. -/
theorem applyReq_evictX {s : State} {r : Req} {rest : List Req} {l : Nat} {far : Bool} (h : r.f.typ = tCoh) (hm : cohMsg r.f = 6)
    (howner : ((ownerOf s l).any fun o => decide (some o.agent = agentOf s r.f)) = true) :
    applyReq s r rest l far = (setHome s l none, some (plain stOk)) := by
  simp only [applyReq, h, hm, howner, tCoh_ne, Nat.reduceLeDiff, Nat.reduceEqDiff, decide_false, Bool.false_and, Bool.false_eq_true,
    if_false, if_true]

/-- WB of the owner. -/
theorem applyReq_wb {s : State} {r : Req} {rest : List Req} {l : Nat} {far : Bool} (h : r.f.typ = tCoh) (hm : cohMsg r.f = 7)
    (howner : ((ownerOf s l).any fun o => decide (some o.agent = agentOf s r.f)) = true) :
    applyReq s r rest l far = (applyWrite (meterStore (setHome s l none) l r.f.job true) l (byteSlice r.f.payload 0 64) true,
      some (plain stOk)) := by
  simp only [applyReq, h, hm, howner, tCoh_ne, Nat.reduceLeDiff, Nat.reduceEqDiff, decide_false, Bool.false_and, Bool.false_eq_true,
    if_false, if_true]

/-- FETCH of a holder. -/
theorem applyReq_fetch {s : State} {r : Req} {rest : List Req} {l : Nat} {far : Bool} {h0 : Holder} (h : r.f.typ = tCoh) (hm : cohMsg r.f = 8)
    (hheld : (holdersOf (homeOf s l)).find? (fun h => some h.agent = agentOf s r.f) = some h0) :
    applyReq s r rest l far = (s, some (grantData s l (match homeOf s l with | some (.x _) => 2 | _ => 1) false)) := by
  -- Built as a module of its own, the statement's match is another constant than the model's, and `rfl` equates the two.
  simp only [applyReq, h, hm, hheld, tCoh_ne, Nat.reduceLeDiff, Nat.reduceEqDiff, decide_false, Bool.false_and, Bool.false_eq_true, if_false]
    <;> rfl

/-- Settles O27: each message comes to its home, where it is served in its line's order, answered at once, or ends its snoop. -/
theorem coherenceMessagesServed : Obligations.CoherenceMessagesServed := by
  unfold Obligations.CoherenceMessagesServed
  rintro s s1 s2 a f k l r r2 hmsg htransit hcoh rfl
  obtain ⟨he, ht, hopa, hu⟩ := messageAt_enter hmsg hcoh
  have hr : cohMsg r.f = cohMsg f := by rw [cohMsg, cohMsg, hopa]
  have htake : ∀ m, cohMsg f = m → takeCoh s a f m = .next (settle (cohMessage s1 r)) := fun m hm => by
    rw [takeCoh, takeReq_enters (by simp [hcoh, hm]) htransit hu, he]
  have hserved : ∀ {m s3 ans}, cohMsg f = m → m < 0x10 → m ≠ 8 → (m = 5 ∨ snoopedNow s1 (lineOf (mpaLpa r.f.mpa.toNat)) k = false) →
      itsTurn s1 r s2 r2 → lineOf (mpaLpa r.f.mpa.toNat) = reqLine s1 r →
      (r2.f.typ = tCoh → cohMsg r2.f = m → ∀ far, applyReq s2 r2 [] (lineOf (mpaLpa r.f.mpa.toNat)) far = (s3, some ans)) →
      takeCoh s a f m = .next (settle (conclude (markFresh s3 (lineOf (mpaLpa r.f.mpa.toNat))) (lineOf (mpaLpa r.f.mpa.toNat)) r2 [] ans)) := by
    intro m s3 ans hm hlow h8 hsnoop hturn hl happ
    have hf : r2.f = r.f := orderReq_frame hturn.2.2.2.1
    rw [htake m hm, cohMessage_request hmsg (by omega) (by omega) (by rwa [hr, hm]),
      serveHome_answered hturn hl (happ (hf ▸ ht) (by rw [hf, hr, hm]) _)]
  have hanswer : ∀ {m x}, cohMsg f = m → 0x10 ≤ m → answeredSnoop s1 r.f (lineOf (mpaLpa r.f.mpa.toNat)) = some x →
      (m = 0x10 → r.f.opb.getLsbD 32 = false) →
      takeCoh s a f m = .next (settle (progressTx (refuse (snoopDone s1 (lineOf (mpaLpa r.f.mpa.toNat)) x m r.f.payload) r stOk)
        (lineOf (mpaLpa r.f.mpa.toNat)))) := by
    intro m x hm hhigh hx hpend
    rw [htake m hm, cohMessage_answer hmsg (by omega), snoopAnswer_done hx (hr.trans hm) hpend]
  refine ⟨?evictS, ?evictX, ?wb, ?fetch, ?answers⟩
  case evictS =>
    intro hs hm hturn hl hk hhome
    exact hserved hm (by decide) (by decide) (.inl rfl) hturn hl fun ht2 hm2 far => applyReq_evictS ht2 hm2 hk hhome
  case evictX =>
    intro hm hsnoop hturn hl howner
    exact hserved hm (by decide) (by decide) (.inr hsnoop) hturn hl fun ht2 hm2 far => applyReq_evictX ht2 hm2 howner
  case wb =>
    intro hm hsnoop hturn hl howner
    exact hserved hm (by decide) (by decide) (.inr hsnoop) hturn hl fun ht2 hm2 far => applyReq_wb ht2 hm2 howner
  case fetch =>
    intro h0 hm htx hheld
    change takeCoh s a f 8 = _
    rw [htake 8 hm, cohMessage_fetch hmsg (hr.trans hm) rfl htx (applyReq_fetch ht (hr.trans hm) hheld)]
    rfl
  case answers =>
    intro x hx
    exact ⟨fun hm hpend => hanswer hm (by decide) hx fun _ => hpend, fun hm => hanswer hm (by decide) hx (by simp),
      fun hm => hanswer hm (by decide) hx (by simp), fun hm => hanswer hm (by decide) hx (by simp),
      fun hm => hanswer hm (by decide) hx (by simp)⟩

end Sys2Proof.Machine
/-! ## Leases, snapshots, publishing and rows at the owning module -/

namespace Sys2Proof.Machine

/-- A request judged by its own rules that comes home is served by its type, when no record that is being applied names its extent. -/
theorem takeReq_ownRules {s s1 : State} {a : Arrival} {f : Frame} {r : Req} {mine : Bool} (h : comesHome s a f s1 r)
    (ht : inTransit s f = false) (hmine : mine = true) (hown : f.typ = tLease ∨ f.typ = tSnap ∨ f.typ = tPublish)
    (hrec : recordNames s1 (mpaLpa r.f.mpa.toNat) = false) :
    r.f.typ = f.typ ∧ r.f.opa = f.opa ∧
      takeReq s a f mine = .next (settle (if f.typ = tPublish then servePublish s1 r else if f.typ = tLease then serveLease s1 r
        else serveSnap s1 r)) := by
  have hne : ∀ t ∈ [tContrib, tDeliver, tFence, tInval, tCoh, tScatter, tTileRead, tTileWrite], f.typ ≠ t := by
    rcases hown with h | h | h <;> rw [h] <;> decide
  simp only [List.forall_mem_cons] at hne
  obtain ⟨hcontrib, hdeliver, hfence, hinval, hcoh, hscatter, htr, htw, -⟩ := hne
  obtain ⟨he, htyp, hopa, hu⟩ := comesHome_enter h hcontrib hdeliver hfence hinval fun h' => absurd h' hcoh
  have hrules : ownRules f.typ = true := by rcases hown with h | h | h <;> rw [h] <;> decide
  refine ⟨htyp, hopa (by simp [isTileReq, htr, htw]), ?_⟩
  rw [takeReq_enters hmine ht hu, he]
  simp only [serveAdmitted, serveAny, htyp, hrules, hrec, hscatter, Bool.and_false, Bool.false_eq_true, if_false, if_true]
  rcases hown with h | h | h <;> rw [h] <;> rfl

/-- Settles O28: each request is served by its LOP. -/
theorem leaseRequestsServed : Obligations.LeaseRequestsServed := by
  unfold Obligations.LeaseRequestsServed
  rintro s s1 a f r k t e hhome htransit hlease hrec rfl rfl
  have htake : ∀ {mine : Bool}, mine = true → takeReq s a f mine = .next (settle (serveLease s1 r)) := fun hm => by
    rw [(takeReq_ownRules hhome htransit hm (.inl hlease) hrec).2.2, hlease]; rfl
  obtain ⟨-, hopa, -⟩ := takeReq_ownRules hhome htransit rfl (.inl hlease) hrec
  have hlop : lopOf r.f = lopOf f := by rw [lopOf, lopOf, hopa]
  refine ⟨?acquire, ?renew, ?release, ?queryExtent, ?querySnap⟩
  case acquire =>
    intro hl he hstate hpool hjob hmove hroom
    change takeReq s a f _ = _
    rw [htake (by simp [hlease, hl]), serveLease, hlop, hl]
    subst he
    simp only [leaseTake, hstate, hpool, hjob, hmove, Nat.not_le.2 hroom, Nat.reduceEqDiff, decide_false, decide_true, Bool.or_false,
      Bool.not_true, Bool.false_eq_true, ne_eq, not_true_eq_false, if_false]
  case renew =>
    intro hl hn
    change takeReq s a f _ = _
    rw [htake (by simp [hlease, hl]), serveLease, hlop, hl]
    simp only [leaseAgain, hn]
  case release =>
    intro hl hn
    change takeReq s a f _ = _
    rw [htake (by simp [hlease, hl]), serveLease, hlop, hl]
    simp only [leaseGive, hn]
  case queryExtent =>
    intro hl hn
    change takeReq s a f _ = _
    rw [htake (by simp [hlease, hl]), serveLease, hlop, hl]
    simp only [leaseAsk, hn]
  case querySnap =>
    intro v hl hn
    change takeReq s a f _ = _
    rw [htake (by simp [hlease, hl]), serveLease, hlop, hl]
    simp only [leaseAsk, hn]

/-- Settles O29: each request is served by its SOP. -/
theorem snapRequestsServed : Obligations.SnapRequestsServed := by
  unfold Obligations.SnapRequestsServed
  rintro s s1 a f r p g v l hhome htransit hsnap hrec rfl
  have htake : ∀ {mine : Bool}, mine = true → takeReq s a f mine = .next (settle (serveSnap s1 r)) := fun hm => by
    rw [(takeReq_ownRules hhome htransit hm (.inr (.inl hsnap)) hrec).2.2, hsnap]; rfl
  obtain ⟨-, hopa, -⟩ := takeReq_ownRules hhome htransit rfl (.inr (.inl hsnap)) hrec
  have hsop : sopOf r.f = sopOf f := by rw [sopOf, sopOf, hopa]
  refine ⟨?create, ?opens, ?close, ?query, ?destroy⟩
  case create =>
    intro hs hg hadm hroom
    change takeReq s a f _ = _
    rw [htake (by simp [hsnap, hs]), serveSnap, hsop, hs]
    simp only [regionMake, hg, hadm, Nat.not_le.2 hroom, if_false]
  case opens =>
    rintro t hs hg hjob hcurrent hv hlost hview hroom rfl
    change takeReq s a f _ = _
    rw [htake (by simp [hsnap, hs]), serveSnap, hsop, hs]
    simp only [regionOpen, hg, hjob, hopa, hcurrent, hv, hlost, hview, Nat.not_le.2 hroom, ne_eq, not_true_eq_false, decide_false, Bool.false_and,
      Bool.and_false, Bool.false_eq_true, if_false, if_true]
  case close =>
    intro hs hg hview
    change takeReq s a f _ = _
    rw [htake (by simp [hsnap, hs]), serveSnap, hsop, hs]
    simp only [regionClose, hg, hview]
  case query =>
    intro hs hg hjob
    change takeReq s a f _ = _
    rw [htake (by simp [hsnap, hs]), serveSnap, hsop, hs]
    simp only [regionAsk, hg, hjob, ne_eq, not_true_eq_false, decide_false, Bool.false_and, Bool.false_eq_true, if_false]
  case destroy =>
    intro hs hg hjob
    change takeReq s a f _ = _
    rw [htake (by simp [hsnap, hs]), serveSnap, hsop, hs]
    simp only [regionDestroy, hg, hjob, ne_eq, not_true_eq_false, if_false]

/-- A request of a row update that comes home is admitted and served there. -/
theorem takeReq_scatter {s s0 s1 : State} {a : Arrival} {f : Frame} {r0 r : Req} (h : comesHome s a f s0 r0) (ht : inTransit s f = false)
    (hscatter : f.typ = tScatter) (hadm : beginAdmitted s0 r0 = (s1, r)) :
    takeReq s a f (decide (f.typ = tScatter)) = .next (settle (serveScatter s1 r)) := by
  obtain ⟨he, htyp, -, hu⟩ := comesHome_enter h (by rw [hscatter]; decide) (by rw [hscatter]; decide) (by rw [hscatter]; decide)
    (by rw [hscatter]; decide) fun h' => absurd (hscatter.symm.trans h') (by decide)
  have hr : r.f.typ = tScatter := by
    have hframe := beginAdmitted_frame s0 r0
    rw [hadm] at hframe
    rw [hframe, htyp, hscatter]
  rw [takeReq_enters (decide_eq_true hscatter) ht hu, he]
  simp only [serveAdmitted, serveAny, htyp, hscatter, hadm, hr, show ownRules tScatter = false from rfl, Bool.false_and, Bool.false_eq_true,
    if_false, if_true]

/-- A publish whose lines are ready makes the next version. -/
theorem publishNow_next {s s1 : State} {k parent job : Nat} {g : Region} (hg : tget none s.ext.regions k = some g) (hcopy : g.copying = none)
    (hstop : publishStop s k parent job = none) (hready : prepReads s (ownedLines s k) = (s1, true)) :
    publishNow s k parent job = (countLse (freeVersions (onRegion s1 k fun x => { x with
        current := nextVersion g.current, versions := x.versions ++ [{ num := nextVersion g.current }] }) k) 5,
      some { result := BitVec.ofNat 64 (nextVersion g.current) }) := by
  simp only [publishNow, hg, hcopy, hstop, hready, Option.isSome_none, Bool.not_true, Bool.false_eq_true, if_false]

/-- A publish whose parent is not the current version is a conflict. -/
theorem publishNow_conflict {s : State} {k parent job : Nat} {g : Region} (hg : tget none s.ext.regions k = some g) (hcopy : g.copying = none)
    (hdestroy : g.destroying = false) (hjob : g.job = job) (hstate : (extOf s (k * 2 ^ 21)).state = 3) (hparent : parent ≠ g.current) :
    publishNow s k parent job = (countLse s 6, some { status := stConflict, info := BitVec.ofNat 64 g.current }) := by
  have hstop : publishStop s k parent job = some { status := stConflict, info := BitVec.ofNat 64 g.current } := by
    simp only [publishStop, hg, hdestroy, hjob, hstate, hparent, ne_eq, not_true_eq_false, not_false_eq_true, Bool.false_eq_true, if_false,
      if_true]
  simp only [publishNow, hg, hcopy, hstop, Option.isSome_none, Bool.false_eq_true, if_false, if_true]

/-- Settles O30: PUBLISH by its compare, SCATTER_UPDATE once its checks have passed. -/
theorem publishAndScatterServed : Obligations.PublishAndScatterServed := by
  unfold Obligations.PublishAndScatterServed
  intro s s1 s2 a f r k htransit
  refine ⟨?publish, ?scatter⟩
  case publish =>
    rintro g hhome hpub hrec rfl hg hcopy
    obtain ⟨-, hopa, htake⟩ := takeReq_ownRules hhome htransit (decide_eq_true hpub) (.inr (.inr hpub)) hrec
    rw [if_pos hpub] at htake
    refine ⟨fun hstop hready => ?_, fun hdestroy hjob hstate hparent => ?_⟩
    · rw [← hopa] at hstop
      exact htake.trans (by simp only [servePublish, publishNow_next hg hcopy hstop hready])
    · rw [← hopa] at hparent
      exact htake.trans (by simp only [servePublish, publishNow_conflict hg hcopy hdestroy hjob hstate hparent])
  case scatter =>
    rintro s0 r0 j dense lpas hhome hscatter hadm hjob rfl hbad hstatus hext hready hpoison
    refine (takeReq_scatter hhome htransit hscatter hadm).trans ?_
    simp only [serveScatter, hjob, hbad, hstatus, hext, hready, hpoison, Option.isSome_none, Bool.or_self, Bool.not_true, Bool.false_eq_true,
      if_false]

end Sys2Proof.Machine
/-! ## Combining groups, fences and contexts -/

namespace Sys2Proof.Machine

/-- A fabric request of its own type at its owning module is served there. -/
theorem takeReq_atOwner {s s1 : State} {a : Arrival} {f : Frame} {r : Req} {mine : Bool} (h : atOwner s a f s1 r) (ht : inTransit s f = false)
    (hmine : mine = true) : takeReq s a f mine = .next (settle (ownerServe s1 r)) := by
  obtain ⟨he, -, -, hu⟩ := atOwner_enter h
  rw [takeReq_enters hmine ht hu, he]

/-- A chunk of a child that belongs to an open round of its group is answered OK once it has entered the round. -/
theorem serveContrib_absorbed {s s2 : State} {r : Req} {e : Nat × BitVec 512} {g : Reg} {j : Nat} {p : Part} (he : jobEntry s r.f.job = some e)
    (hg : s.chim.regs.find? (fun x => decide (x.job = r.f.job) && decide (x.gid = fld r.f.opa.toNat 0 24)) = some g)
    (hchild : g.children.contains r.f.srcDev = true) (hj : j = (fld r.f.opb.toNat 0 32 + 2 ^ 32 - g.first) % 2 ^ 32)
    (hover : roundOver g j = false) (hnear : j < 2 ^ 31) (hwindow : j < g.doneUpTo + 4) (hfailed : tbit r.f.opa.toNat 35 = false)
    (hlist : gOp g ≠ 3) (hfine : gFine g = false)
    (hp : p = {
      child := true, who := r.f.srcDev, chunk := fld r.f.opb.toNat 32 22, last := tbit r.f.opa.toNat 36, opa := r.f.opa
      lanes := upTo (r.f.payload.length / 4) fun k => leAt r.f.payload (4 * k) 4 })
    (habsorb : absorb s g j p = (s2, .ok ())) : serveContrib s r = refuse s2 r stOk := by
  subst hj hp
  simp only [serveContrib, he, hg, hchild, hover, Nat.not_le.2 hnear, Nat.not_le.2 hwindow, hfailed, hlist, hfine, habsorb, Bool.not_true,
    decide_false, Bool.or_self, Bool.false_and, Bool.false_eq_true, if_false]

/-- What a DELIVER to an open round does once its chunk stands in the slot: the chunk goes on to the children, and the round ends when it
was combined here and every chunk up to the last has come. -/
theorem serveDeliver_written {s s2 s3 : State} {r : Req} {g g3 : Reg} {rd : Round} {j : Nat}
    (hg : s.chim.regs.find? (fun x => decide (x.job = r.f.job) && decide (x.gid = fld r.f.opa.toNat 0 24)) = some g)
    (hparent : r.f.srcDev = gFld g 64 14) (hj : j = (fld r.f.opb.toNat 0 32 + 2 ^ 32 - g.first) % 2 ^ 32) (hover : roundOver g j = false)
    (hrd : roundOf g j = some rd) (hfailed : tbit r.f.opa.toNat 35 = false)
    (hnew : rd.delivered.contains (fld r.f.opb.toNat 32 22) = false)
    (hwrite : writeSlot s g j (fld r.f.opb.toNat 32 22) r.f.opa r.f.payload = (s2, .ok ()))
    (hs3 : s3 = onRound (sendDeliver s2 g r.f.opa j (fld r.f.opb.toNat 32 22) r.f.payload) g.lpa j (fun x => { x with
      delivered := x.delivered ++ [fld r.f.opb.toNat 32 22]
      lastChunk := if tbit r.f.opa.toNat 36 then some (fld r.f.opb.toNat 32 22) else x.lastChunk }))
    (hg3 : regAt s3 g.lpa = some g3) :
    (((roundOf g3 j).getD {}).lastChunk = none → serveDeliver s r = (refuse s3 r stOk, true)) ∧
    (∀ l s4, ((roundOf g3 j).getD {}).lastChunk = some l → ((roundOf g3 j).getD {}).combined = true →
      ((List.range (l + 1)).all fun k => ((roundOf g3 j).getD {}).delivered.contains k) = true → addRdy s3 g3 = (s4, true) →
      serveDeliver s r = (refuse (closeRound s4 g.lpa j) r stOk, true)) := by
  subst hj hs3
  refine ⟨fun hlast => ?_, fun l s4 hlast hcombined hall hrdy => ?_⟩
  · simp only [serveDeliver, hg, hparent, hover, hrd, hfailed, hnew, hwrite, hg3, hlast, ne_eq, not_true_eq_false, Option.isNone_some,
      Option.getD_some, Bool.or_self, Bool.not_false, Bool.true_or, Bool.false_eq_true, if_false, if_true]
  · simp only [serveDeliver, hg, hparent, hover, hrd, hfailed, hnew, hwrite, hg3, hlast, hcombined, hall, hrdy, ne_eq, not_true_eq_false,
      Option.isNone_some, Option.getD_some, Bool.or_self, Bool.not_true, Bool.false_eq_true, if_false]

/-- Settles O31: the two messages at their module, the two ends of a round, and the two instructions. -/
theorem groupCommandsComplete : Obligations.GroupCommandsComplete := by
  unfold Obligations.GroupCommandsComplete
  intro s s1 a f r g rd j reg round htransit
  refine ⟨?contrib, ?deliver, ?complete, ?limit, ?acomb, ?rowupd⟩
  case contrib =>
    intro e p s2 howner htyp he hg hchild hj hover hnear hwindow hfailed hlist hfine hp habsorb
    refine (takeReq_atOwner howner htransit (decide_eq_true htyp)).trans ?_
    rw [ownerServe, if_pos ((atOwner_enter howner).2.1.trans htyp),
      serveContrib_absorbed he hg hchild hj hover hnear hwindow hfailed hlist hfine hp habsorb]
  case deliver =>
    intro s2 s3 g3 howner htyp hg hparent hj hover hrd hfailed hnew hwrite hs3 hg3
    have hserve : ∀ s4, serveDeliver s1 r = (s4, true) → exec (.deliver a f) s = .next (settle s4) := fun s4 h => by
      refine (takeReq_atOwner howner htransit (decide_eq_true htyp)).trans ?_
      rw [ownerServe, if_neg (by rw [(atOwner_enter howner).2.1, htyp]; decide), if_pos ((atOwner_enter howner).2.1.trans htyp), h]
    obtain ⟨hopen, hclosed⟩ := serveDeliver_written hg hparent hj hover hrd hfailed hnew hwrite hs3 hg3
    exact ⟨fun hlast => hserve _ (hopen hlast), fun l s4 hlast hcombined hall hrdy => hserve _ (hclosed l s4 hlast hcombined hall hrdy)⟩
  case complete =>
    rintro last hreg hrd hcombined hfull hroot rfl
    change execRoundComplete reg round s = _
    simp only [execRoundComplete, hreg, hrd, hcombined, hfull, hroot, Bool.not_true, Bool.not_false, Bool.or_self, Bool.false_eq_true,
      if_false, if_true]
  case limit =>
    intro hreg hrd hlimit
    change execRoundLimitExpire reg round s = _
    simp only [execRoundLimitExpire, hreg, hrd, hlimit, if_true]
  case acomb =>
    intro t w it th s2 hcan hguard hcontribute
    change execAcomb t w s = _
    rw [execAcomb, issue_of_guard _ hcan hguard]
    simp only [hcontribute, onGot_ok]
  case rowupd =>
    rintro t w it th s2 s3 s4 h bs ob srcs lpas job dim row hcan hguard rfl halign hgrad hopt rfl rfl hstatus hrow hpoison
    change execRowupd t w s = _
    rw [execRowupd, issue_of_guard _ hcan hguard]
    simp only [halign, hgrad, hopt, hstatus, hrow, hpoison, onGot_ok, ne_eq, not_true_eq_false, Option.isSome_none, Bool.false_eq_true, if_false]

/-- A partner's request is not on its way to another module. -/
theorem atEntry_notInTransit {s s1 : State} {a : Arrival} {f : Frame} {r : Req} (h : atEntry s a f s1 r) : inTransit s f = false := by
  obtain ⟨s0, r0, s2, ⟨s3, r3, harrive, -, hassemble⟩, hleg, -⟩ := h
  rw [assemble_leg hassemble, (arrive_takes harrive).1, classFix_leg] at hleg
  rw [inTransit, hleg, Bool.false_and]

/-- Settles O32: each of the four commands in the case that its clause names. -/
theorem fencesAndInvalServed : Obligations.FencesAndInvalServed := by
  unfold Obligations.FencesAndInvalServed
  intro s s1 a f r x
  refine ⟨?fence, ?inval, ?zero, ?gap⟩
  case fence =>
    rintro hentry htyp rfl
    obtain ⟨he, ht, -, hu, hctx⟩ := atEntry_enter hentry
    rw [htyp] at ht
    refine (takeReq_enters (decide_eq_true htyp) (atEntry_notInTransit hentry) hu).trans ?_
    have hfields : fieldsBad r.f = false := by rw [fieldsBad, ht]; rfl
    rw [he]
    simp only [partnerBody, ht, hfields, beginFence, show tFence ≠ tCtxOpen by decide, Bool.false_eq_true, if_false, if_true]
  case inval =>
    intro hentry htyp hrange
    obtain ⟨he, ht, -, hu, hctx⟩ := atEntry_enter hentry
    rw [htyp] at ht
    refine (takeReq_enters (decide_eq_true htyp) (atEntry_notInTransit hentry) hu).trans ?_
    have hfields : fieldsBad r.f = false := by rw [fieldsBad, ht, hrange]; rfl
    rw [he]
    simp only [partnerBody, ht, hfields, show tInval ≠ tCtxOpen by decide, show tInval ≠ tFence by decide, Bool.false_eq_true, if_false,
      if_true]
  case zero =>
    intro hfind hdone
    change execFenceCountZero (.partner x.ctx x.seq) s = _
    simp only [execFenceCountZero, hfind, hdone, if_true]
  case gap =>
    rintro s2 y hfind hmissing hlate rfl rfl
    change execFenceGapTimeout x.ctx x.seq.toNat s = _
    simp only [execFenceGapTimeout, hfind, hmissing, hlate, Bool.not_true, Bool.or_self, Bool.false_eq_true, if_false]

/-- Settles O33: an admitted CTX_OPEN or CTX_CLOSE in the case that its clause names. -/
theorem contextCommandsComplete : Obligations.ContextCommandsComplete := by
  unfold Obligations.ContextCommandsComplete
  intro s s1 s2 a f r c rev w hadmitted htransit hleg
  obtain ⟨htyp, -, hu⟩ := admitted_keeps_type hadmitted
  have henter := enter_admitted hadmitted
  rw [hleg, htyp] at henter
  have hopen : f.typ = tCtxOpen → exec (.ctxOpen a f) s = .next (settle (openCtx s1 r)) := fun h => by
    refine (takeReq_enters (decide_eq_true h) htransit hu).trans ?_
    rw [henter, h]; rfl
  have hclose : f.typ = tCtxClose → exec (.ctxClose a f) s = .next (settle (closeCtx s1 r)) := fun h => by
    refine (takeReq_enters (decide_eq_true h) htransit hu).trans ?_
    rw [henter, h]; rfl
  refine ⟨?binds, ?again, ?closes, ?notOpen⟩
  case binds =>
    rintro h hmine hjob hlen rfl hlow hhigh hservice hfree hwin
    rw [hopen h]
    simp only [openCtx, hmine, hjob, hlen, Nat.not_le.2 hhigh, Nat.pos_iff_ne_zero.1 hlow, hservice, hfree, hwin, ne_eq, not_true_eq_false,
      decide_false, Bool.not_true, Bool.or_self, Bool.false_and, Bool.false_eq_true, if_false]
  case again =>
    intro x h hmine
    rw [hopen h]
    simp only [openCtx, hmine]
  case closes =>
    intro h hisOpen hstatus hlast
    rw [hclose h]
    simp only [closeCtx, hisOpen, hstatus, hlast, Bool.not_true, Bool.false_eq_true, if_false]
  case notOpen =>
    intro h hisOpen
    rw [hclose h]
    simp only [closeCtx, hisOpen, Bool.not_false, if_true]

end Sys2Proof.Machine
/-! ## Other frames, responses, snoops and links -/

namespace Sys2Proof.Machine

/-- Settles O34: each frame in the case that its clause names. -/
theorem otherFramesComplete : Obligations.OtherFramesComplete := by
  unfold Obligations.OtherFramesComplete
  intro s s1 s2 a f hup
  refine ⟨?fcs, ?udp, ?fragment, ?dstMac, ?length, ?pause, ?whole⟩
  case fcs => exact if_neg (by simp [hup])
  case udp => exact if_neg (by simp [hup])
  case fragment => exact if_neg (by simp [hup])
  case dstMac => exact if_neg (by simp [hup])
  case length => exact if_neg (by simp [hup])
  case pause => exact if_pos hup
  case whole =>
    rintro hhello hlen hfits hhops rfl
    have hnone : (linkOf s a.link).hello.isNone = false := by rw [← Option.not_isSome, hhello]; rfl
    have hsize : (decide (f.len ≠ f.payload.length) || decide (payloadLimit s a.link < f.len)) = false := by
      simp [hlen, Nat.not_lt.2 (hlen ▸ hfits)]
    refine ⟨?unlisted, ?response, ?sent, ?noRoute⟩
    case unlisted =>
      intro hresp htyp htransit hhead
      change execUnsupportedType a f s = _
      simp only [execUnsupportedType, hresp, htyp, htransit, hup, hnone, hsize, hhead, Nat.not_le.2 hhops, decide_false, Bool.not_true,
        Bool.or_self, Bool.and_false, Bool.false_eq_true, if_false]
    case response =>
      intro htransit hservice hrole hresp
      change execTransitFrame a f s = _
      simp only [execTransitFrame, htransit, hup, hservice, hrole, hnone, hsize, hresp, Nat.not_le.2 hhops, decide_false, Bool.not_true,
        Bool.or_self, Bool.true_or, Bool.false_eq_true, if_false, if_true]
      rcases route (countLink s a.link 1) f (some a.link) with ⟨s3, _ | _ | _ | _⟩ <;> rfl
    case sent =>
      intro htransit hservice hrole hresp hcoh hpolice hroute
      change execTransitFrame a f s = _
      simp only [execTransitFrame, htransit, hup, hservice, hrole, hnone, hsize, hresp, hcoh, hpolice, Nat.not_le.2 hhops, decide_false,
        Bool.not_true, Bool.or_self, Bool.false_and, Bool.false_eq_true, if_false]
      rcases hr : route s2 f (some a.link) with ⟨s3, o⟩
      rw [hr] at hroute
      subst hroute
      rfl
    case noRoute =>
      intro htransit hservice hrole hresp hcoh hpolice hroute
      change execTransitFrame a f s = _
      simp only [execTransitFrame, htransit, hup, hservice, hrole, hnone, hsize, hresp, hcoh, hpolice, Nat.not_le.2 hhops, decide_false,
        Bool.not_true, Bool.or_self, Bool.false_and, Bool.false_eq_true, if_false]
      rcases hr : route s2 f (some a.link) with ⟨s3, o⟩
      rw [hr] at hroute
      subst hroute
      rfl

/-- Settles O35: a response by what it answers, and each timer when its time has come. -/
theorem responsesAndTimersComplete : Obligations.ResponsesAndTimersComplete := by
  unfold Obligations.ResponsesAndTimersComplete
  intro s a f o k
  refine ⟨?response, ?retransmit, ?assembly, ?held⟩
  case response =>
    intro hresp htyp hup hleg hdst hhello hlen hfits hhops
    have hnone : (linkOf s a.link).hello.isNone = false := by rw [← Option.not_isSome, hhello]; rfl
    have hsize : (decide (f.len ≠ f.payload.length) || decide (payloadLimit s a.link < f.len)) = false := by
      simp [hlen, Nat.not_lt.2 (hlen ▸ hfits)]
    have hexec : exec (.responseReceive a f) s = .next (settle (responseCame (countLink s a.link 1) f)) := by
      change execResponseReceive a f s = _
      simp only [execResponseReceive, hresp, htyp, hup, hleg, hdst, hnone, hsize, Nat.not_le.2 hhops, ne_eq, not_true_eq_false, decide_false,
        Bool.not_true, Bool.or_self, Bool.and_false, Bool.false_eq_true, if_false]
    rw [hexec]
    refine ⟨?_, fun hout => ?_⟩
    · rintro _ rfl hout hbusy hstage hfrags
      simp only [responseCame, hout, hbusy, hstage, hfrags, decide_false, decide_true, Bool.false_and, Bool.or_true, Bool.false_eq_true,
        if_false, if_true]
    · simp only [responseCame, hout]
  case retransmit =>
    intro hfind hdue
    change execRetransmitTimeout k s = _
    simp only [execRetransmitTimeout, hfind, hdue, if_true]
  case assembly =>
    intro b hb hold
    change execAssemblyTimeout k s = _
    simp only [execAssemblyTimeout, hb, hold, if_true]
  case held =>
    intro h hh hold
    change execEpochHoldTimeout k s = _
    simp only [execEpochHoldTimeout, hh, hold, if_true]

/-- A snoop that arrives for this member on a link of the fabric leg is delivered. -/
theorem snoopArrives_delivers {s : State} {a : Arrival} {f : Frame} {m : Nat} (htyp : f.typ = tCoh) (hm : cohMsg f = m) (hleg : f.leg = true)
    (hdst : f.dstDev = selfDev s) (hup : (linkOf s a.link).up = true) (hservice : isService a.link = false) (hrole : linkRole s a.link ≠ 3)
    (hhello : (linkOf s a.link).hello.isSome = true) (hhops : f.hops < s.cfg.hopsMax) :
    snoopArrives s a f m = .next (deliverSnoop (countLink s a.link 1) { f with hops := f.hops + 1 }) := by
  have hnone : (linkOf s a.link).hello.isNone = false := by rw [← Option.not_isSome, hhello]; rfl
  simp only [snoopArrives, htyp, hm, hleg, hdst, hup, hservice, hrole, hnone, Nat.not_le.2 hhops, ne_eq, not_true_eq_false, decide_false,
    Bool.not_true, Bool.or_self, Bool.false_eq_true, if_false]

/-- Settles O36: snoops by their table, and each timer and release when its time has come. -/
theorem snoopCommandsComplete : Obligations.SnoopCommandsComplete := by
  unfold Obligations.SnoopCommandsComplete
  rintro s s1 a f h line agent rfl
  refine ⟨?arrives, ?fwdData, ?timeout, ?pend, ?cutoff, ?release⟩
  case arrives =>
    intro m c hmem htyp hm hleg hdst hup hservice hrole hhello hhops
    have hexec : exec (c a f) s = snoopArrives s a f m := by
      refine (?_ : ∀ x ∈ _, exec (x.2 a f) s = snoopArrives s a f x.1) _ hmem
      repeat refine List.forall_mem_cons.2 ⟨rfl, ?_⟩
      refine List.forall_mem_cons.2 ⟨?_, List.forall_mem_nil _⟩
      exact if_pos hleg
    rw [hexec, snoopArrives_delivers htyp hm hleg hdst hup hservice hrole hhello hhops]
  case fwdData =>
    rintro g dev htyp hm hleg hup hagent rfl rfl
    change execFwdData a f s = _
    simp only [execFwdData, htyp, hm, hleg, hup, hagent, ne_eq, not_true_eq_false, decide_false, Bool.not_true, Bool.or_self,
      Bool.false_eq_true, if_false]
    split <;> rfl
  case timeout =>
    intro t x htx hfind hh
    change execSnoopTimeout h line agent s = _
    simp only [execSnoopTimeout, htx, Option.bind_some, hfind, hh, if_true]
  case pend =>
    intro t x htx hfind hh
    change execPendResend h line s = _
    simp only [execPendResend, htx, hfind, hh, ne_eq, not_true_eq_false, if_false]
  case cutoff =>
    intro t hcut hdue hpos
    change execCutoffExpire agent s = _
    simp only [execCutoffExpire, hcut, hdue, hpos, decide_true, decide_false, Bool.false_and, Bool.or_false, if_true, Bool.false_eq_true,
      if_false]
  case release =>
    intro k hlock howner hh
    change execRowLockRelease h line s = _
    simp only [execRowLockRelease, hlock, howner, hh, Option.isSome_none, ne_eq, not_true_eq_false, decide_false, Bool.or_self,
      Bool.false_eq_true, if_false]

/-- Settles O37: each command of a link in the case that its clause names. -/
theorem linkCommandsComplete : Obligations.LinkCommandsComplete := by
  unfold Obligations.LinkCommandsComplete
  intro s a f link flue cls cause t cyc ls o
  refine ⟨?hello, ?trained, ?repeats, ?serviceUp, ?down, ?doze, ?retrain, ?txEnd, ?interval, ?gateList, ?shaper⟩
  case hello =>
    intro htyp hleg hup hservice hlen hpayload hrev hbad hphase hasleep
    have hresp : isResponse f = false := by rw [isResponse, htyp]; rfl
    change execHello a f s = _
    simp only [execHello, htyp, hup, hservice, hlen, hpayload, hrev, hbad, hresp, hasleep, Nat.not_lt.2 hphase, ne_eq, not_true_eq_false,
      decide_true, decide_false, Nat.reduceLeDiff, Nat.reduceEqDiff, Bool.true_or, Bool.not_true, Bool.not_false, Bool.or_self, Bool.and_false,
      Bool.false_eq_true, if_false]
  case trained =>
    intro hlink henabled hup hphase hasleep
    change execLinkTrained link true s = _
    simp only [execLinkTrained, henabled, hup, hasleep, Nat.not_le.2 hlink, Nat.not_lt.2 hphase, decide_false, Bool.not_true, Bool.or_self,
      Bool.false_eq_true, if_false]
  case repeats =>
    intro hsent hup hhello hdue
    change execHelloRepeat link s = _
    simp only [execHelloRepeat, hsent, hup, hhello, hdue, Option.isNone_none, decide_true, Bool.and_self, if_true]
  case serviceUp => exact fun hservice hup hphase henabled => if_neg (by simp [hservice, hup, henabled, Nat.not_lt.2 hphase])
  case down => exact fun hup => if_neg (by simp [hup])
  case doze => exact fun hup hservice henabled => if_neg (by simp [hup, hservice, henabled])
  case retrain => exact fun hphase => if_neg (not_not_intro hphase)
  case txEnd =>
    intro htx
    change execFrameTxEnd link s = _
    simp only [execFrameTxEnd, htx]
  case interval =>
    rintro g rfl hlist hcyc
    change execGclIntervalEnd flue s = _
    simp only [execGclIntervalEnd, hlist, Nat.not_lt.2 hcyc, decide_false, Bool.or_self, Bool.false_eq_true, if_false]
  case gateList =>
    intro hnext hcyc
    change execGateListAt flue s = _
    simp only [execGateListAt, hnext, Nat.not_lt.2 hcyc, if_false]
  case shaper => exact fun htx hready => if_pos (by simp [htx, hready])

end Sys2Proof.Machine
/-! ## Translation, extents and the cell -/

namespace Sys2Proof.Machine

/-- Settles O38: each command in the case that its clause names. -/
theorem translationCommandsComplete : Obligations.TranslationCommandsComplete := by
  unfold Obligations.TranslationCommandsComplete
  intro s s1 k id job e w p
  refine ⟨?walk, ?record, ?retry, ?decline, ?timeout⟩
  case walk =>
    intro hw
    change execWalkReadComplete k e s = _
    simp only [execWalkReadComplete, hw]
  case record =>
    rintro i j r a hp hj hring rfl hready hpoison hfree
    change execFaultRecordWrite job s = _
    simp only [execFaultRecordWrite, hp, hj, hring, hready, hpoison, hfree, ne_eq, not_true_eq_false, Bool.not_true, Bool.false_eq_true, if_false]
  case retry =>
    intro hp hfree
    change execFaultRetry id s = _
    -- Built as a module of its own, the statement's match is another constant than the model's, and `rfl` equates the two.
    simp only [execFaultRetry, hp, hfree] <;> rfl
  case decline =>
    intro hp hfree
    change execFaultDecline id s = _
    simp only [execFaultDecline, hp, hfree]
  case timeout =>
    intro x hx hdue
    change execTranslationTimeout k s = _
    simp only [execTranslationTimeout, hx, hdue, if_true]

/-- Steps that each change nothing change nothing together. -/
theorem forAll_eq_self {σ α : Type} {xs : List α} {f : σ → α → σ} {s : σ} (h : ∀ x ∈ xs, f s x = s) : forAll xs f s = s := by
  induction xs with
  | nil => rfl
  | cons x xs ih =>
    rw [forAll, List.foldl_cons, h x List.mem_cons_self]
    exact ih fun y hy => h y (List.mem_cons_of_mem _ hy)

/-- Settles O39: each end in the case that its clause names. -/
theorem extentCommandsComplete : Obligations.ExtentCommandsComplete := by
  unfold Obligations.ExtentCommandsComplete
  intro s no h slot lpa job old
  refine ⟨?lapse, ?snapLapse, ?drain, ?copy, ?zeroing⟩
  case lapse =>
    intro e he
    change execLeaseLapse no s = _
    simp only [execLeaseLapse, he]
  case snapLapse =>
    intro l hnone hl
    change execLeaseLapse no s = _
    simp only [execLeaseLapse, hnone, hl]
  case drain =>
    intro hstate hadmitted hdrained
    change execRevokeDrainDone h slot s = _
    simp only [execRevokeDrainDone, hstate, hadmitted, hdrained, ne_eq, not_true_eq_false, decide_false, Bool.or_self, Bool.false_eq_true,
      if_false, if_true]
  case copy =>
    intro r b hr hb
    change execCowCopyDone lpa s = _
    simp only [execCowCopyDone, hr, hb]
  case zeroing =>
    rintro k s1 rfl hzeroing hstate hshares hpairs rfl
    change execExtentZeroingDone h slot s = _
    simp only [execExtentZeroingDone, hzeroing, hstate, hshares, ne_eq, not_true_eq_false, Bool.false_eq_true, if_false]
    rw [forAll_eq_self (xs := s.t0.pairs)]
    intro p hp
    split
    · exact if_neg (by simp [hpairs p hp])
    · rfl

/-- A CELL message that arrives for this module does what its COP says. -/
theorem takeCell_arrives {s s1 : State} {a : Arrival} {f : Frame} {r : Req} {mine : Bool} {body : State → Req → State} (htyp : f.typ = tCell)
    (htransit : inTransit s f = false) (hup : (linkOf s a.link).up = true) (harrive : cellArrive s a f = (s1, some r)) (hmine : mine = true) :
    takeCell s a f mine body = .next (settle (body s1 r)) := by
  simp only [takeCell, htyp, hmine, htransit, hup, harrive, ne_eq, not_true_eq_false, decide_false, Bool.not_true, Bool.or_self,
    Bool.false_eq_true, if_false]

/-- Settles O40: each message by its COP. -/
theorem cellMessagesComplete : Obligations.CellMessagesComplete := by
  unfold Obligations.CellMessagesComplete
  intro s s1 a f r m htyp htransit hup harrive
  have htake : ∀ {mine : Bool} {body : State → Req → State}, mine = true → takeCell s a f mine body = .next (settle (body s1 r)) :=
    fun hmine => takeCell_arrives htyp htransit hup harrive hmine
  refine ⟨?probe, ?probeAck, ?suspect, ?propose, ?accept, ?commit, ?collect, ?mapRead, ?joinSpare, ?joinLeader, ?mirror, ?parity, ?journal,
    ?journalRead, ?rebuildRead⟩
  case probe => exact fun h => htake (by simp [h])
  case probeAck => exact fun h => htake (decide_eq_true h)
  case suspect => exact fun h => htake (decide_eq_true h)
  case propose =>
    intro h hmap hleads hfree hrole hcell hepoch
    refine (htake (decide_eq_true h)).trans ?_
    simp only [hmap, hleads, hfree, hrole, hcell, hepoch, ne_eq, not_true_eq_false, decide_false, Bool.false_and, Bool.not_true, Bool.or_self,
      Bool.false_eq_true, if_false]
  case accept =>
    intro x h hprop hepoch helector
    refine (htake (decide_eq_true h)).trans ?_
    simp only [hprop, hepoch, helector, ne_eq, not_true_eq_false, decide_false, Bool.not_true, Bool.or_self, Bool.false_eq_true, if_false]
  case commit =>
    intro h haccepted hepoch
    refine (htake (decide_eq_true h)).trans ?_
    simp only [haccepted, hepoch, decide_true, Bool.and_self, if_true]
  case collect =>
    intro p h haccepted
    refine (htake (decide_eq_true h)).trans ?_
    simp only [haccepted]
  case mapRead =>
    intro h hepoch
    refine (htake (decide_eq_true h)).trans ?_
    simp only [hepoch, if_false]
  case joinSpare =>
    intro h hrole hown hepoch
    have hown' : (decide (r.f.srcDev = 0x3FFF) || !decide ((memberFrom (byteSlice r.f.payload 0 16)).mstate = 0) &&
        decide (fromPosOf r.f = subjOf r.f)) = true := by
      rcases hown with h | ⟨h, h'⟩
      · simp [h]
      · simp [h, h']
    refine (htake (decide_eq_true h)).trans ?_
    simp only [hrole, hown', hepoch, Bool.not_true, Bool.false_eq_true, if_false, if_true]
  case joinLeader =>
    rintro x h hrole hepoch hsrc rfl hleads
    refine (htake (decide_eq_true h)).trans ?_
    simp only [hrole, hsrc, hepoch, hleads, decide_true, Bool.true_or, Bool.not_true, Bool.false_eq_true, if_false, if_true]
  case mirror => exact fun h => htake (decide_eq_true h)
  case parity => exact fun h => htake (decide_eq_true h)
  case journal => exact fun h => htake (decide_eq_true h)
  case journalRead =>
    rintro es h rfl
    exact htake (decide_eq_true h)
  case rebuildRead =>
    rintro g l h hgroup rfl hpoison hrebuilt hsite htx
    refine (htake (decide_eq_true h)).trans ?_
    simp only [hgroup, hpoison, hrebuilt, hsite, htx, Bool.or_self, Bool.false_and, Bool.false_eq_true, if_false]

/-- Settles O41: each timer in the case that its clause names. -/
theorem cellTimersComplete : Obligations.CellTimersComplete := by
  unfold Obligations.CellTimersComplete
  intro s s1 pos k wins x v
  refine ⟨?probe, ?miss, ?fence, ?proposal, ?unit, ?serve, ?absent, ?move⟩
  case probe => exact fun hlive => if_neg (by simp [hlive])
  case miss =>
    rintro t hout hlive hlate rfl
    refine ⟨fun hfew => ?_, fun p hmany hleader hp hself => ?_⟩
    · change execProbeMiss pos s = _
      simp only [execProbeMiss, hout, hlive, hlate, hfew, Bool.not_true, Bool.or_self, Bool.false_eq_true, if_false, if_true]
    · have hother : ¬ (some p = some pos) := fun h => hp (Option.some.inj h)
      change execProbeMiss pos s = _
      simp only [execProbeMiss, hout, hlive, hlate, Nat.not_lt.2 hmany, hleader, hother, hself, Bool.not_true, Bool.or_self,
        Bool.false_eq_true, if_false]
  case fence =>
    intro hlive hsilent
    change execSelfFence s = _
    simp only [execSelfFence, hlive, hsilent, decide_true, Bool.and_self, if_true]
  case proposal =>
    intro hprop hlate
    refine ⟨fun hfew => ?_, fun hmany => ?_⟩
    · change execProposalTimeout s = _
      simp only [execProposalTimeout, hprop, hlate, hfew, Bool.not_true, Bool.false_eq_true, if_false, if_true]
    · change execProposalTimeout s = _
      simp only [execProposalTimeout, hprop, hlate, Nat.not_lt.2 hmany, Bool.not_true, Bool.false_eq_true, if_false]
  case unit =>
    intro hhead hleft
    change execRebuildUnitDone k s = _
    simp only [execRebuildUnitDone, hhead, hleft, ne_eq, not_true_eq_false, if_false, if_true]
  case serve =>
    rintro j t hrestored hcommit hwaiting hready hpower hdev htime rfl
    change execSpareServe wins s = _
    simp only [execSpareServe, hrestored, hcommit, hwaiting, hready, hpower, hdev, Nat.not_lt.2 htime, ne_eq, not_true_eq_false, decide_false,
      List.isEmpty_nil, Bool.not_true, Bool.or_self, Bool.false_eq_true, if_false]
  case absent =>
    intro t hcommit hleads hserving hgone hlate hup
    change execSpareAbsentTimeout s = _
    simp only [execSpareAbsentTimeout, hcommit, hleads, hserving, hgone, hlate, hup, Bool.false_and, Bool.not_false, Bool.and_self, if_true]
  case move =>
    intro hv hstage hfrom hready
    have hexec : ∀ {ans : Ans}, (if v.toPos = v.fromPos then
          .next (settle (askMove (copyRange s ((v.fromH * 512 + v.fromSlot) * 2 ^ 30) ((v.toH * 512 + v.toSlot) * 2 ^ 30) (2 ^ 30)) { v with stage := 2 }))
        else if !s.cell.sent.contains (v.fromH * 512 + v.fromSlot) then .next (settle (sendMove s v))
        else if outstanding s (· == .moveLine (v.fromH * 512 + v.fromSlot)) then notEnabled s
        else .next (settle (askMove s { v with stage := 2 }))) = ans → exec (.moveCopyDone k) s = ans := by
      rintro _ rfl
      change execMoveCopyDone k s = _
      simp only [execMoveCopyDone, hv, hstage, hfrom, hready, ne_eq, not_true_eq_false, decide_false, Bool.not_true, Bool.or_self,
        Bool.false_eq_true, if_false]
    refine ⟨fun hsame => hexec ?_, fun hother hsent => hexec ?_, fun hother hsent hout => hexec ?_⟩
    · rw [if_pos hsame]
    · rw [if_neg hother, if_pos (by rw [hsent]; rfl)]
    · rw [if_neg hother, if_neg (by rw [hsent]; decide), if_neg (by rw [hout]; decide)]

end Sys2Proof.Machine
/-! ## Change records and the management space -/

namespace Sys2Proof.Machine

/-- The next item of a record that is being applied takes effect, and counts as done. -/
theorem takeItem_next {s s1 : State} {b : Nat} {i : Item390} {rest : List Item390} {mine : Item390 → Bool} {f : State → Item390 → State}
    (h : itemNext s b i rest s1) (hmine : mine i = true) : takeItem s b mine f = .next (itemDone (f s1 i) b rest) := by
  obtain ⟨htodo, hstate, rfl⟩ := h
  simp only [takeItem, htodo, hstate, hmine, ne_eq, not_true_eq_false, decide_false, Bool.not_true, Bool.or_self, Bool.false_eq_true, if_false,
    itemDone]

/-- Settles O43: each item of the module by its type, and the three ends. -/
theorem moduleItemsApply : Obligations.ModuleItemsApply := by
  unfold Obligations.ModuleItemsApply
  refine ⟨fun s s1 b i rest hnext => ?items, fun s site errors code t d => ?ends⟩
  case items =>
    refine ⟨?funcSet, ?funcClear, ?routeCell, ?routePos, ?policerCtx, ?policerLink, ?overhead, ?shaper, ?gateList, ?siteOut, ?siteBack, ?testRun,
      ?extentMove, ?powerState, ?powerSection, ?ashpit, ?params, ?flue, ?reset⟩
    case funcSet =>
      intro h hnone
      refine (takeItem_next hnext (decide_eq_true h) : execFuncSet b s = _).trans ?_
      simp only [hnone, List.isEmpty_nil, if_true]
    case funcClear =>
      rintro fs left h rfl hsome rfl
      refine (takeItem_next hnext (decide_eq_true h) : execFuncSet b s = _).trans ?_
      -- Built as a module of its own, the statement's match is another constant than the model's, and `rfl` equates the two.
      simp only [hsome, Bool.false_eq_true, if_false] <;> rfl
    case routeCell =>
      intro h hlow
      refine (takeItem_next hnext (decide_eq_true h) : execRoute b s = _).trans ?_
      simp only [hlow, if_true]
    case routePos =>
      intro h hhigh
      refine (takeItem_next hnext (decide_eq_true h) : execRoute b s = _).trans ?_
      simp only [Nat.not_lt.2 hhigh, if_false]
    case policerCtx =>
      intro h hctx
      refine (takeItem_next hnext (decide_eq_true h) : execPolicer b s = _).trans ?_
      simp only [hctx, if_true]
    case policerLink =>
      intro h hlink
      refine (takeItem_next hnext (decide_eq_true h) : execPolicer b s = _).trans ?_
      simp only [hlink, Bool.false_eq_true, if_false]
    case overhead => exact fun h => (takeItem_next hnext (decide_eq_true h) : execOverhead b s = _)
    case shaper =>
      rintro l h rfl
      exact (takeItem_next hnext (decide_eq_true h) : execShaper b s = _)
    case gateList => exact fun h => (takeItem_next hnext (decide_eq_true h) : execGateList b s = _)
    case siteOut =>
      intro h hout
      refine (takeItem_next hnext (decide_eq_true h) : execSiteState b s = _).trans ?_
      simp only [hout, if_false]
    case siteBack =>
      intro h hback hservice
      refine (takeItem_next hnext (decide_eq_true h) : execSiteState b s = _).trans ?_
      simp only [hback, hservice, if_true, Bool.false_eq_true, if_false]
    case testRun =>
      rintro code h rfl
      exact (takeItem_next hnext (decide_eq_true h) : execTestRun b s = _)
    case extentMove => exact fun h => (takeItem_next hnext (decide_eq_true h) : execExtentMove b s = _)
    case powerState => exact fun h htarget => (takeItem_next hnext (by simp [h, htarget]) : execPowerSetState b s = _)
    case powerSection => exact fun h htarget => (takeItem_next hnext (by simp [h, htarget]) : execPowerSetSection b s = _)
    case ashpit => exact fun h => (takeItem_next hnext (decide_eq_true h) : execAshpitSet b s = _)
    case params => exact fun h => (takeItem_next hnext (decide_eq_true h) : execModuleParams b s = _)
    case flue =>
      rintro ups h rfl
      exact (takeItem_next hnext (decide_eq_true h) : execFlueSet b s = _)
    case reset => exact fun h => (takeItem_next hnext (decide_eq_true h) : execReset b s = _)
  case ends =>
    refine ⟨fun hdrain => ?_, fun htest => ?_, fun hreset hdue => ?_⟩
    · change execFuncDrainDone s = _
      simp only [execFuncDrainDone, hdrain]
    · change execTestComplete site errors s = _
      simp only [execTestComplete, htest]
    · change execResetDelayExpire s = _
      simp only [execResetDelayExpire, hreset, hdue, if_true]

/-- A management read that arrives is answered with what the space holds. -/
theorem mgmtReadOf_arrives {s s1 : State} {a : Arrival} {f : Frame} {r : Req} {mine : Bool} (harrive : arriveMgmt s a f = (s1, some r))
    (htyp : f.typ = tMgmtRead) (hmine : mine = true) :
    mgmtReadOf mine s a f = .next (sendResponse (readSpace s1 (mgmtOff r.f) (mgmtLen r.f)).1 r
      { payload := (readSpace s1 (mgmtOff r.f) (mgmtLen r.f)).2 }) := by
  simp only [mgmtReadOf, htyp, hmine, harrive, answerRead, ne_eq, not_true_eq_false, decide_false, Bool.not_true, Bool.or_self,
    Bool.false_eq_true, if_false]

/-- A management write that arrives and touches nothing of another requester takes effect and is answered. -/
theorem mgmtWriteOf_arrives {s s1 s2 : State} {a : Arrival} {f : Frame} {r : Req} {mine : Bool} (harrive : arriveMgmt s a f = (s1, some r))
    (htyp : f.typ = tMgmtWrite) (hallowed : writeDenied s1 (requester r.a) (mgmtOff r.f) r.f.payload = false)
    (hs2 : s2 = forAll (List.range 8) (writeCursor (requester r.a) (mgmtOff r.f) r.f.payload) (writeImage (mgmtOff r.f) r.f.payload
      (forAll (List.range 4) (writeBuf (requester r.a) (mgmtOff r.f) r.f.payload) s1))) (hmine : mine = true) :
    mgmtWriteOf mine s a f = .next (settle (sendResponse s2 r (plain stOk))) := by
  subst hs2
  simp only [mgmtWriteOf, htyp, hmine, harrive, answerWrite, hallowed, ne_eq, not_true_eq_false, decide_false, Bool.not_true, Bool.or_self,
    Bool.false_eq_true, if_false]

/-- Settles O44: reads by their block, writes by their first operation. -/
theorem managementFramesComplete : Obligations.ManagementFramesComplete := by
  unfold Obligations.ManagementFramesComplete
  intro s s1 s2 a f r b harrive
  refine ⟨?read, ?window, ?write⟩
  case read => exact fun htyp hblock => mgmtReadOf_arrives harrive htyp (decide_eq_true hblock)
  case window => exact fun htyp hblock => mgmtReadOf_arrives harrive htyp (decide_eq_true hblock)
  case write =>
    intro htyp hallowed hs2
    refine ⟨fun hnone => mgmtWriteOf_arrives harrive htyp hallowed hs2 (decide_eq_true hnone), fun n c hmem hop => ?_, fun n c hmem hop => ?_⟩
    · have hexec : exec (c a f b) s = mgmtWriteOf (firstOp f = some ⟨false, b, n⟩) s a f := by
        refine (?_ : ∀ x ∈ _, exec (x.2 a f b) s = mgmtWriteOf (firstOp f = some ⟨false, b, x.1⟩) s a f) _ hmem
        repeat refine List.forall_mem_cons.2 ⟨rfl, ?_⟩
        exact List.forall_mem_nil _
      rw [hexec, mgmtWriteOf_arrives harrive htyp hallowed hs2 (decide_eq_true hop)]
    · have hexec : exec (c a f b) s = mgmtWriteOf (firstOp f = some ⟨true, b, n⟩) s a f := by
        refine (?_ : ∀ x ∈ _, exec (x.2 a f b) s = mgmtWriteOf (firstOp f = some ⟨true, b, x.1⟩) s a f) _ hmem
        repeat refine List.forall_mem_cons.2 ⟨rfl, ?_⟩
        exact List.forall_mem_nil _
      rw [hexec, mgmtWriteOf_arrives harrive htyp hallowed hs2 (decide_eq_true hop)]

/-- Settles O45: each operation on a buffer or cursor whose state admits it. -/
theorem bufferAndCursorOperations : Obligations.BufferAndCursorOperations := by
  unfold Obligations.BufferAndCursorOperations
  intro s who b c new
  refine ⟨?claim, ?submit, ?release, ?attest, ?imageEnd, ?cursorClaim, ?cursorSet, ?cursorRelease, ?bufferIdle, ?cursorIdle⟩
  case claim => exact fun h => if_pos h
  case submit => exact fun h => if_pos h
  case release => exact fun h => if_pos (by simpa [or_assoc] using h)
  case attest => exact fun h => if_pos h
  case imageEnd =>
    intro x hsession hstate
    simp [bufOp, hsession, hstate]
  case cursorClaim => exact fun h => if_neg (Bool.eq_false_iff.1 h)
  case cursorSet => exact fun h => if_pos h
  case cursorRelease => rfl
  case bufferIdle => exact fun h0 h2 h3 hidle => if_neg (by simp [h0, h2, h3, hidle])
  case cursorIdle => exact fun hheld hidle => if_neg (by simp [hheld, hidle])

end Sys2Proof.Machine
/-! ## Bring-up, power and pins -/

namespace Sys2Proof.Machine

/-- With no site switched off, training changes none but by its results. -/
theorem siteTraining_all {s : State} {results : List SiteTrain} (hphase : s.boot.phase = 6) (hoff : s.cfg.siteOff = 0)
    (hone : ∀ k, k < 32 → (results.filter (·.site = k)).length = 1) (hsite : ∀ r ∈ results, r.site < 32) :
    execSiteTraining results s = .next (toPhase (makeExtents (forAll results trainSite s)) 7) := by
  have hon : ∀ k, tbit s.cfg.siteOff k = false := fun k => by simp [hoff, tbit]
  have hwant : ((List.range 32).filter fun k => !tbit s.cfg.siteOff k) = List.range 32 :=
    List.filter_eq_self.2 fun k _ => by rw [hon]; rfl
  have hall : ((List.range 32).all fun k => decide ((results.filter (·.site = k)).length = 1)) = true :=
    List.all_eq_true.2 fun k hk => decide_eq_true (hone k (List.mem_range.1 hk))
  have hmine : (results.filter fun r => (List.range 32).contains r.site) = results :=
    List.filter_eq_self.2 fun r hr => by simpa using hsite r hr
  simp only [execSiteTraining, hwant, hphase, hall, hmine, ne_eq, not_true_eq_false, decide_false, Bool.not_true, Bool.or_self,
    Bool.false_eq_true, if_false]
  rw [forAll_eq_self (xs := List.range 32)]
  exact fun k _ => if_neg (Bool.eq_false_iff.1 (hon k))

/-- Settles O46: each step of bring-up in the case that its clause names. -/
theorem bringUpStepsComplete : Obligations.BringUpStepsComplete := by
  unfold Obligations.BringUpStepsComplete
  intro s s1 straps results eyes up
  refine ⟨?railUp, ?railLoss, ?release, ?modReset, ?fuses, ?fusesDisagree, ?image, ?service, ?sites, ?zeros, ?quick, ?fabric, ?join, ?joinWait,
    ?ready, ?watchdog⟩
  case railUp =>
    intro hvaux hblank
    change execAuxRailUp s = _
    rw [execAuxRailUp, if_neg (Bool.eq_false_iff.1 hvaux)]
    exact if_neg (Bool.eq_false_iff.1 hblank)
  case railLoss => exact fun hvaux => if_pos hvaux
  case release =>
    rintro hvaux htripped hphase hstraps rfl
    change execInternalResetRelease straps s = _
    simp only [execInternalResetRelease, hvaux, htripped, hphase, hstraps, decide_true, Bool.true_or, Bool.not_true, Bool.or_self,
      Bool.false_eq_true, if_false]
  case modReset =>
    intro hvaux hreset htripped hphase
    change execModResetAssert s = _
    simp only [execModResetAssert, hvaux, hreset, htripped, hphase, Bool.not_true, Bool.or_self, Bool.false_eq_true, if_false]
  case fuses =>
    intro hphase hsame
    change execFirebrickRead s = _
    rw [execFirebrickRead, if_neg (not_not_intro hphase), if_neg (not_not_intro hsame)]
  case fusesDisagree =>
    intro hphase hdiffer
    change execFirebrickRead s = _
    rw [execFirebrickRead, if_neg (not_not_intro hphase), if_pos hdiffer]
  case image =>
    rintro pref first ok2 ok3 s2 s3 fb go hphase hfail hvin hdogs rfl rfl hfirst hother rfl rfl
    change execImageVerify s = _
    simp only [execImageVerify, hphase, hfail, hvin, Nat.not_le.2 hdogs, hfirst, ne_eq, not_true_eq_false, decide_false, Bool.not_true,
      Bool.or_self, Bool.false_eq_true, if_false]
    cases ok2
    · simp only [Bool.false_eq_true, if_false, hother, Bool.false_or]
      cases ok3 <;> rfl
    · rfl
  case service =>
    intro hphase hfail h96 h97
    change execServiceFlueTraining true true s = _
    have h97' : linkEnabled (onLink s 96 fun x => { x with up := true }) 97 = true := h97
    simp only [execServiceFlueTraining, hphase, hfail, h96, h97', Nat.reduceEqDiff, decide_true, decide_false, Bool.false_and, Bool.or_false,
      Bool.not_true, Bool.and_self, Bool.false_eq_true, if_false, if_true]
  case sites => exact fun hphase hoff hone hsite => siteTraining_all hphase hoff hone hsite
  case zeros => exact fun hphase => if_neg (not_not_intro hphase)
  case quick =>
    intro hphase heyes hmine
    have hall : (((List.range 256).filter fun c => (siteAt s (c / 8)).trained).all fun c => eyes.any fun e => decide (e.chan = c)) = true :=
      List.all_eq_true.2 fun c hc => by
        obtain ⟨hlow, htrained⟩ := List.mem_filter.1 hc
        rw [List.mem_range] at hlow
        exact heyes (c / 8) (by omega) htrained c rfl
    have hown : (eyes.filter fun e => ((List.range 256).filter fun c => (siteAt s (c / 8)).trained).contains e.chan) = eyes :=
      List.filter_eq_self.2 fun e he => by simpa using hmine e he
    change execQuickShadowTest eyes s = _
    simp only [execQuickShadowTest, hphase, hall, hown, ne_eq, not_true_eq_false, decide_false, Bool.not_true, Bool.or_self, Bool.false_eq_true,
      if_false]
  case fabric => exact fun hphase => if_neg (not_not_intro hphase)
  case join => exact fun hphase hjoined => if_neg (by simp [hphase, hjoined])
  case joinWait =>
    intro t ht hphase hrecorded hlate
    change execJoinWaitRecord s = _
    simp only [execJoinWaitRecord, ht, hphase, hrecorded, hlate, ne_eq, not_true_eq_false, decide_false, Bool.not_true, Bool.or_self,
      Bool.false_eq_true, if_false]
  case ready =>
    rintro hphase hjoined rfl hidle
    change execReady s = _
    simp only [execReady, hphase, hjoined, hidle, ne_eq, not_true_eq_false, decide_false, Bool.not_true, Bool.or_self, Bool.false_and,
      Bool.false_eq_true, if_false]
  case watchdog =>
    exact fun hlow hhigh hstep hlate => if_neg (by simp [Nat.not_lt.2 hlow, Nat.not_lt.2 hhigh, hstep, Nat.not_lt.2 hlate])

/-- Settles O47: each command of power and heat in the case that its clause names. -/
theorem powerCommandsComplete : Obligations.PowerCommandsComplete := by
  unfold Obligations.PowerCommandsComplete
  intro s s1 us link k h d temp sensor t r temps
  refine ⟨?smoulder, ?ember, ?exits, ?wakes, ?asks, ?signal, ?modWake, ?wakeTimer, ?sample, ?reentry, ?phaseEmber, ?idle, ?returns, ?throttle,
    ?trip, ?clear⟩
  case smoulder =>
    intro hstate hdrained hpending
    change execEntryComplete s = _
    simp only [execEntryComplete, hstate, hdrained, hpending, Nat.reduceEqDiff, decide_true, decide_false, Bool.or_false, Bool.not_true,
      Bool.or_self, Bool.false_eq_true, if_false]
  case ember =>
    intro hstate hdrained hpending
    change execEntryComplete s = _
    simp only [execEntryComplete, hstate, hdrained, hpending, Nat.reduceEqDiff, decide_true, decide_false, Bool.or_true, Bool.not_true,
      Bool.or_self, Bool.false_eq_true, if_false, if_true]
  case exits =>
    rintro hstate hphase hspare rfl hidle
    change execExitComplete us s = _
    simp only [execExitComplete, hstate, hphase, hspare, hidle, Nat.reduceEqDiff, decide_false, Bool.or_self, ne_eq, not_true_eq_false,
      Bool.false_and, Bool.false_eq_true, if_false]
  case wakes =>
    intro hlink hen hstate
    change execWakePattern link s = _
    rw [execWakePattern, if_neg (by simp [hlink, hen]), if_neg hstate]
  case asks =>
    intro hlink hen hstate hspare hready
    change execWakePattern link s = _
    rw [execWakePattern, if_neg (by simp [hlink, hen]), if_pos hstate, if_pos (by simp [hspare, hready])]
  case signal => exact fun hk hwake => if_neg (by simp [hk, hwake])
  case modWake => rfl
  case wakeTimer =>
    intro htimer hdue
    change execWakeTimer s = _
    simp only [execWakeTimer, htimer, Nat.not_lt.2 hdue, if_false]
  case sample =>
    intro hstate hmax
    change execSmoulderSample r s = _
    rw [execSmoulderSample, if_neg (not_not_intro hstate), if_neg (by simp [hmax])]
  case reentry =>
    intro hsince hready hstate hspare hserving hdue
    change execSpareReentryTimer s = _
    simp only [execSpareReentryTimer, hsince, hready, hstate, hspare, hserving, Nat.not_lt.2 hdue, ne_eq, not_true_eq_false, decide_false,
      Bool.not_true, Bool.false_and, Bool.or_self, Bool.false_eq_true, if_false]
  case phaseEmber =>
    intro hsince hphase hstate hdue
    have hheld : (decide (s.boot.phase = 13) || decide (s.boot.phase = 14)) = true := by simpa using hphase
    change execPhaseEmberTimer s = _
    simp only [execPhaseEmberTimer, hsince, hheld, hstate, Nat.not_lt.2 hdue, ne_eq, not_true_eq_false, decide_false, Bool.not_true,
      Bool.or_self, Bool.false_eq_true, if_false]
  case idle =>
    exact fun hh hstate hpolicy hon hbusy hsince hdue => if_neg (by simp [hh, hstate, hpolicy, hon, hbusy, hsince, Nat.not_lt.2 hdue])
  case returns =>
    intro hlow hhigh hstate hreturning
    exact if_neg (by simp [Nat.not_lt.2 hlow, hhigh, hstate, ← Option.not_isSome, hreturning])
  case throttle =>
    intro hh hstate hphase htemp
    refine ⟨fun hsame => ?_, ?_⟩
    · change execThrottleChange h temp s = _
      simp only [execThrottleChange, Nat.not_le.2 hh, hstate, Nat.not_lt.2 hphase, Nat.not_lt.2 htemp, hsame, ne_eq, not_true_eq_false,
        decide_false, Bool.or_self, Bool.false_eq_true, if_false, if_true]
    · rintro _ rfl hother
      change execThrottleChange h temp s = _
      simp only [execThrottleChange, Nat.not_le.2 hh, hstate, Nat.not_lt.2 hphase, Nat.not_lt.2 htemp, hother, ne_eq, not_true_eq_false,
        decide_false, Bool.or_self, Bool.false_eq_true, if_false]
  case trip =>
    intro hvaux htripped hsensor hhot htemp
    change execOvertempTrip sensor temp s = _
    rw [execOvertempTrip, if_neg (by simp [hvaux, htripped, hsensor, hhot]), if_neg (Nat.not_lt.2 htemp)]
  case clear =>
    exact fun htripped hlen hcool => if_neg (by rw [hcool]; simp [htripped, hlen])

/-- Settles O48: each of the four commands meets the reading before it takes effect. -/
theorem beyondMaximumFaults : Obligations.BeyondMaximumFaults := by
  unfold Obligations.BeyondMaximumFaults
  intro s r temps h sensor temp
  refine ⟨?sample, ?second, ?throttle, ?trip⟩
  case sample =>
    intro hstate hmax
    change execSmoulderSample r s = _
    rw [execSmoulderSample, if_neg (not_not_intro hstate), if_pos hmax]
  case second =>
    intro hvaux hlen hmax
    change execOperatingSecond temps s = _
    rw [execOperatingSecond, if_neg (by simp [hvaux, hlen]), if_pos hmax]
  case throttle =>
    intro hh hstate hphase htemp
    change execThrottleChange h temp s = _
    rw [execThrottleChange, if_neg (by simp [hh, hstate, hphase]), if_pos htemp]
  case trip =>
    intro hvaux htripped hsensor htemp
    change execOvertempTrip sensor temp s = _
    have hhot : 115 ≤ temp := by omega
    rw [execOvertempTrip, if_neg (by simp [hvaux, htripped, hsensor, hhot]), if_pos htemp]

/-- Settles O49: each pin, SMBus transfer and TAP instruction in the case that its clause names. -/
theorem pinCommandsComplete : Obligations.PinCommandsComplete := by
  unfold Obligations.PinCommandsComplete
  intro s data
  refine ⟨?fail, ?monitor, ?present, ?good, ?pointer, ?pointerNack, ?block, ?quick, ?alert, ?clock, ?hold, ?release, ?tap, ?locked, ?reset⟩
  case fail => exact fun hpin => if_neg (Bool.eq_false_iff.1 hpin)
  case monitor => exact fun hvin => if_neg (by simp [hvin])
  case present => exact fun hpresent => if_neg (by simp [hpresent])
  case good =>
    intro hgood hphase
    change execPowerFailDeassert s = _
    rw [execPowerFailDeassert, if_neg (Bool.eq_false_iff.1 hgood)]
    simp only [hphase, if_false]
  case pointer =>
    intro hanswers hlen halign hleft
    change execSmbPointerSet data s = _
    simp only [execSmbPointerSet, hanswers, hlen, halign, hleft, ne_eq, not_false_eq_true, decide_true, Bool.not_true, Bool.and_self,
      Bool.false_eq_true, if_false, if_true]
  case pointerNack =>
    intro hanswers hlen hbad
    have hnack : (decide (data.length = 3) && decide (leNat data % 4 = 0) && decide (smbLeft s (leNat data) ≠ 0)) = false := by
      rcases hbad with h | h <;> simp [h]
    change execSmbPointerSet data s = _
    simp only [execSmbPointerSet, hanswers, hnack, Bool.not_true, Bool.not_false, Bool.false_eq_true, if_false]
  case block =>
    rintro o n hanswers rfl rfl
    exact if_neg (by simp [hanswers])
  case quick => exact fun hanswers => if_neg (by simp [hanswers])
  case alert => exact fun hanswers halert => if_neg (by simp [hanswers, halert])
  case clock => exact fun hanswers => if_neg (by simp [hanswers])
  case hold => rfl
  case release => rfl
  case tap =>
    intro i c hmem hvaux
    have hexec : exec c s = tapLoad s i := by
      refine (?_ : ∀ x ∈ _, exec x.2 s = tapLoad s x.1) _ hmem
      repeat refine List.forall_mem_cons.2 ⟨rfl, ?_⟩
      exact List.forall_mem_nil _
    rw [hexec, tapLoad, if_pos hvaux]
  case locked =>
    intro _ hlocked
    exact ⟨by simp [loadTap, onPins, hlocked], by simp [loadTap, onPins]⟩
  case reset => rfl

end Sys2Proof.Machine
/-! ## The step, the state at reset, and the body of HELLO -/

namespace Sys2Proof.Machine

/-- Settles O51: by the definition of a step. -/
theorem stepRunsFrontCommand : Obligations.StepRunsFrontCommand := by
  unfold Obligations.StepRunsFrontCommand
  refine ⟨fun c s rest h => ?front, fun s h => ⟨?idle, rfl, rfl⟩, fun s nbits w => ⟨rfl, rfl⟩⟩
  case front => rw [step, h]
  case idle => rw [step, h]

/-- Bytes that are all zero spell 0. -/
theorem leNat_replicate_zero (n : Nat) : leNat (List.replicate n 0) = 0 := by
  induction n with
  | zero => rfl
  | succ n ih => rw [List.replicate_succ, leNat, ih]; rfl

/-- Settles O56: every table of the reset state is empty, so each of its entries reads its default. -/
theorem resetState : Obligations.ResetState := by
  unfold Obligations.ResetState
  refine ⟨rfl, rfl, fun a n => ?zeros, fun _ => rfl, rfl, rfl, fun _ => rfl, fun _ => rfl, fun _ => rfl, rfl, rfl, rfl⟩
  case zeros =>
    have hbytes : readBytes State.reset a n = List.replicate n 0 :=
      List.map_const'.trans (congrArg (List.replicate · 0) List.length_range)
    rw [hbytes, leNat_replicate_zero]

/-- A number written in `n` bytes takes `n` bytes. -/
@[simp] theorem length_natLe (n x : Nat) : (natLe n x).length = n := by
  induction n generalizing x with
  | zero => rfl
  | succ n ih => rw [natLe, List.length_cons, ih]

/-- A number that fits reads back as it was written. -/
theorem leNat_natLe {n x : Nat} (h : x < 256 ^ n) : leNat (natLe n x) = x := by
  induction n generalizing x with
  | zero => rw [natLe, leNat]; omega
  | succ n ih =>
    rw [natLe, leNat, ih (by rw [Nat.pow_succ] at h; omega), BitVec.toNat_ofNat]
    omega

/-- The first bytes are the low digits. -/
theorem leNat_append (xs ys : List Byte) : leNat (xs ++ ys) = leNat xs + 256 ^ xs.length * leNat ys := by
  induction xs with
  | nil => simp [leNat]
  | cons x xs ih => rw [List.cons_append, leNat, leNat, ih, List.length_cons, Nat.mul_add, ← Nat.mul_assoc, Nat.pow_succ', Nat.add_assoc]

/-- The first 8 bytes of a HELLO body as a number. -/
def helloHead (h : Hello) : Nat :=
  h.maxrev % 16 + h.role % 4 * 2 ^ 4 + h.dev % 2 ^ 14 * 2 ^ 8 + h.cell % 2 ^ 12 * 2 ^ 24 + h.pos % 64 * 2 ^ 36 + h.flue % 32 * 2 ^ 48 +
    h.link % 4 * 2 ^ 53 + b2n h.fec * 2 ^ 55

/-- A HELLO body has 64 bytes. -/
theorem length_helloBytes (h : Hello) : (helloBytes h).length = 64 := by
  simp [helloBytes]

/-- A HELLO body as one number: its four words, 64 bits apart. -/
theorem leNat_helloBytes {h : Hello} (hpay : h.maxpay < 2 ^ 13) (hfeatures : h.features < 2 ^ 64) (hserial : h.serial < 2 ^ 64) :
    leNat (helloBytes h) = helloHead h + 2 ^ 64 * (h.maxpay + 2 ^ 64 * (h.features + 2 ^ 64 * h.serial)) := by
  have hfec : b2n h.fec ≤ 1 := by rw [b2n]; split <;> omega
  have hhead : helloHead h < 256 ^ 8 := by rw [helloHead]; omega
  rw [helloBytes, ← helloHead]
  simp only [leNat_append, List.length_append, length_natLe, leNat_replicate_zero, leNat_natLe hhead, leNat_natLe (n := 8) hfeatures,
    leNat_natLe (n := 8) hserial, Nat.mod_eq_of_lt hpay, leNat_natLe (n := 8) (show h.maxpay < 256 ^ 8 by omega)]
  omega

/-- Settles O59: each field is read from the bits that it was written to. -/
theorem helloBodyReadsBack : Obligations.HelloBodyReadsBack := by
  unfold Obligations.HelloBodyReadsBack
  intro h hrev hrole hdev hcell hpos hflue hlink hpay hfeatures hserial
  refine ⟨length_helloBytes h, ?_⟩
  have hfec : b2n h.fec ≤ 1 := by rw [b2n]; split <;> omega
  have hword : leNat ((helloBytes h).take 64) = h.maxrev + h.role * 2 ^ 4 + h.dev * 2 ^ 8 + h.cell * 2 ^ 24 + h.pos * 2 ^ 36 + h.flue * 2 ^ 48 +
      h.link * 2 ^ 53 + b2n h.fec * 2 ^ 55 + 2 ^ 64 * (h.maxpay + 2 ^ 64 * (h.features + 2 ^ 64 * h.serial)) := by
    rw [List.take_of_length_le (Nat.le_of_eq (length_helloBytes h)), leNat_helloBytes hpay hfeatures hserial, helloHead]
    omega
  rw [helloOf]
  generalize leNat ((helloBytes h).take 64) = x at hword ⊢
  have hbit : tbit x 55 = h.fec := by
    have hdigit : x / 2 ^ 55 % 2 = b2n h.fec := by omega
    rw [tbit, hdigit]
    cases h.fec <;> rfl
  have rrev : fld x 0 4 = h.maxrev := by rw [fld]; omega
  have rrole : fld x 4 2 = h.role := by rw [fld]; omega
  have rdev : fld x 8 14 = h.dev := by rw [fld]; omega
  have rcell : fld x 24 12 = h.cell := by rw [fld]; omega
  have rpos : fld x 36 6 = h.pos := by rw [fld]; omega
  have rflue : fld x 48 5 = h.flue := by rw [fld]; omega
  have rlink : fld x 53 2 = h.link := by rw [fld]; omega
  have rpay : fld x 64 13 = h.maxpay := by rw [fld]; omega
  have rfeatures : fld x 128 64 = h.features := by rw [fld]; omega
  have rserial : fld x 192 64 = h.serial := by rw [fld]; omega
  rw [hbit, rrev, rrole, rdev, rcell, rpos, rflue, rlink, rpay, rfeatures, rserial]

end Sys2Proof.Machine
/-! ## What a change to a line leaves of memory

All that a change to a line brings about besides its bytes lies outside memory, or in the marks of lines. -/

namespace Sys2Proof.Machine

/-- Steps that each leave memory leave it together. -/
theorem forAll_mem {α : Type} {f : State → α → State} (h : ∀ s x, (f s x).mem = s.mem) (xs : List α) (s : State) :
    (forAll xs f s).mem = s.mem := by
  induction xs generalizing s with
  | nil => rfl
  | cons x xs ih => exact (ih (f s x)).trans (h s x)

/-! ### The recorder -/

@[simp] theorem writeHeader_mem (s : State) : (writeHeader s).mem = s.mem := rfl

@[simp] theorem nvmStore_mem (s : State) (r : Rec) : (nvmStore s r).mem = s.mem := by
  rw [nvmStore]
  split
  · rfl
  · rfl

@[simp] theorem flush_mem (s : State) : (flush s).mem = s.mem := by
  rw [flush]
  split
  · rfl
  · rw [writeHeader_mem, onAsh_mem, forAll_mem nvmStore_mem]

@[simp] theorem ashAppend_mem (s : State) (sev src code : Nat) (data : List Byte) : (ashAppend s sev src code data).mem = s.mem := by
  simp only [ashAppend, apply_ite State.mem, flush_mem, onPins_mem, writeHeader_mem, onAsh_mem, ite_self]

@[simp] theorem ashExempt_mem (s : State) (sev src code : Nat) (data : List (Nat × List Byte)) :
    (ashExempt s sev src code data).mem = s.mem := ashAppend_mem ..

@[simp] theorem ashLimited_mem (s : State) (sev src code : Nat) (data : List (Nat × List Byte)) :
    (ashLimited s sev src code data).mem = s.mem := by
  simp only [ashLimited, apply_ite State.mem, ashExempt_mem, ashAppend_mem, onAsh_mem, ite_self]

/-! ### Channels and banks -/

@[simp] theorem onChan_mem (s : State) (c : Nat) (f : Chan → Chan) : (onChan s c f).mem = s.mem := rfl

@[simp] theorem onBank_mem (s : State) (c b : Nat) (f : Bank → Bank) : (onBank s c b f).mem = s.mem := rfl

@[simp] theorem manageBank_mem (s : State) (c b : Nat) : (manageBank s c b).mem = s.mem := rfl

@[simp] theorem modBankErr_mem (s : State) (k : Nat) (f : BankErr → BankErr) : (modBankErr s k f).mem = s.mem := rfl

@[simp] theorem activate_mem (s : State) (c : Nat) (d : DReq) : (activate s c d).mem = s.mem := by
  simp only [activate, apply_ite State.mem, onBank_mem, onChan_mem, ashLimited_mem, modBankErr_mem, manageBank_mem, ite_self]

@[simp] theorem issueOne_mem (s : State) (c : Nat) : (issueOne s c).mem = s.mem := by
  have hdue : ∀ xs : List Nat, (forAll xs (fun s b => manageBank s c b) s).mem = s.mem := fun xs =>
    forAll_mem (fun _ _ => manageBank_mem ..) xs s
  simp only [issueOne]
  split
  · exact hdue _
  · simp only [onChan_mem, apply_ite State.mem, activate_mem, hdue, ite_self]

@[simp] theorem queueDram_mem (s : State) (l : Nat) (isWrite : Bool) : (queueDram s l isWrite).mem = s.mem := by
  simp only [queueDram, onChan_mem, apply_ite State.mem, issueOne_mem, ite_self]

@[simp] theorem onT0Tile_mem (s : State) (t : Nat) (f : T0Tile → T0Tile) : (onT0Tile s t f).mem = s.mem := rfl

/-! ### Windows, watches and pairings -/

@[simp] theorem onWin_mem (s : State) (c : Nat) (f : Win → Win) : (onWin s c f).mem = s.mem := rfl

@[simp] theorem onItem_mem (s : State) (i : ItemId) (f : Item → Item) : (onItem s i f).mem = s.mem := rfl

@[simp] theorem detectPost_mem (s : State) (c i : Nat) (w : Win) : (detectPost s c i w).mem = s.mem := by
  simp only [detectPost]
  split
  · rfl
  · rfl

@[simp] theorem signalCancel_mem (s : State) (c i h old : Nat) : (signalCancel s c i h old).mem = s.mem := by
  rw [signalCancel]
  split
  · rfl
  · split
    · rfl
    · rfl

@[simp] theorem examineFlag_mem (s : State) (l old new : Nat) : (examineFlag s l old new).mem = s.mem := by
  rw [examineFlag]
  split
  · rfl
  · split
    · rfl
    · simp only [apply_ite State.mem, detectPost_mem, signalCancel_mem, ashLimited_mem, onWin_mem, ite_self]

@[simp] theorem endFlagWait_mem (s : State) (t : ThreadRef) (dst : Nat) (matched : Bool) : (endFlagWait s t dst matched).mem = s.mem := rfl

@[simp] theorem wakeWatchers_mem (s : State) (l : Nat) : (wakeWatchers s l).mem = s.mem := by
  refine forAll_mem (fun s t => ?_) _ s
  split
  · simp only [apply_ite State.mem, endFlagWait_mem, ite_self]
  · rfl

@[simp] theorem clearPairings_mem (s : State) (l : Nat) : (clearPairings s l).mem = s.mem := by
  rw [clearPairings, onT0_mem]
  exact forAll_mem (fun _ _ => ashLimited_mem ..) _ s

/-! ### The Chimney -/

@[simp] theorem onLink_mem (s : State) (l : Nat) (f : Link → Link) : (onLink s l f).mem = s.mem := rfl

@[simp] theorem countLink_mem (s : State) (l c : Nat) : (countLink s l c).mem = s.mem := rfl

@[simp] theorem beginTx_mem (s : State) (l c : Nat) : (beginTx s l c).mem = s.mem := by
  rw [beginTx]
  split
  · rfl
  · rfl

@[simp] theorem startNext_mem (s : State) (l : Nat) : (startNext s l).mem = s.mem := by
  rw [startNext]
  split
  · rfl
  · split
    · exact beginTx_mem ..
    · split
      · rw [beginTx_mem, onLink_mem]
      · rfl

@[simp] theorem enqueue_mem (s : State) (l : Nat) (o : OutFrame) : (enqueue s l o).mem = s.mem := by
  rw [enqueue, startNext_mem, onLink_mem]

@[simp] theorem wakeLink_mem (s : State) (l : Nat) : (wakeLink s l).mem = s.mem := by
  simp only [wakeLink, apply_ite State.mem, onLinks_mem, onLink_mem, ite_self]

@[simp] theorem noPath_mem (s : State) (f : Frame) (came : Option Nat) : (noPath s f came).mem = s.mem := by
  unfold noPath
  rw [forAll_mem wakeLink_mem]
  split
  · rfl
  · rfl
  · rfl

@[simp] theorem route_mem (s : State) (f : Frame) (came : Option Nat) : (route s f came).1.mem = s.mem := by
  unfold route
  split
  · cases came
    · rfl
    · rfl
  · split
    · exact noPath_mem ..
    · simp only [apply_ite Prod.fst, apply_ite State.mem, enqueue_mem, countLink_mem, ite_self]

@[simp] theorem transmit_mem (s : State) (o : Out) : (transmit s o).mem = s.mem := forAll_mem (fun _ _ => route_mem ..) _ s

@[simp] theorem setSpace_mem (s : State) (x : Space) : (setSpace s x).mem = s.mem := rfl

@[simp] theorem onLeg_mem (s : State) (ctx : Nat) (q : BitVec 32) (g : Leg → Leg) : (onLeg s ctx q g).mem = s.mem := rfl

@[simp] theorem sendFabric_mem (s : State) (f : Frame) (who : Issuer) : (sendFabric s f who).mem = s.mem := by
  rw [sendFabric]
  split
  · rw [transmit_mem, onNet_mem]
  · split
    · rw [transmit_mem, onNet_mem, setSpace_mem]
      cases who
      all_goals rfl
    · rfl

/-! ### The copy and the line itself -/

@[simp] theorem updFrame_mem (s : State) (dev cop : Nat) : (updFrame s dev cop).2.mem = s.mem := rfl

@[simp] theorem onSlice_mem (s : State) (h : Nat) (f : HSlice → HSlice) : (onSlice s h f).mem = s.mem := rfl

@[simp] theorem onTx_mem (s : State) (l : Nat) (f : Tx → Tx) : (onTx s l f).mem = s.mem := rfl

@[simp] theorem sendCopy_mem (s : State) (l : Nat) (old new : List Byte) (tag : Nat) : (sendCopy s l old new tag).mem = s.mem := by
  rw [sendCopy]
  split
  · rfl
  · simp only [sendFabric_mem, onTx_mem, apply_ite State.mem, onSlice_mem, updFrame_mem, ite_self]

@[simp] theorem clearPoison_cells (s : State) (l : Nat) : (clearPoison s l).mem.cells = s.mem.cells := rfl

@[simp] theorem clearPoison_tags (s : State) (l : Nat) : (clearPoison s l).mem.tags = s.mem.tags := rfl

@[simp] theorem markUnprot_cells (s : State) (l : Nat) : (markUnprot s l).mem.cells = s.mem.cells := rfl

@[simp] theorem markUnprot_tags (s : State) (l : Nat) : (markUnprot s l).mem.tags = s.mem.tags := rfl

/-- A change to a line puts its bytes there. -/
theorem homeStore_cells (s : State) (l : Nat) (new : List Byte) (full seen : Bool) :
    (homeStore s l new full seen).mem.cells = putBytes s.mem.cells (l * 64) new := by
  simp only [homeStore, writeBytes, apply_ite State.mem, apply_ite Mem.cells, onCell_mem, clearPairings_mem, wakeWatchers_mem, examineFlag_mem,
    onSites_mem, onT0Tile_mem, queueDram_mem, clearPoison_cells, markUnprot_cells, sendCopy_mem, onMem_mem, ite_self]

/-- A change to a line leaves every tag. -/
theorem homeStore_tags (s : State) (l : Nat) (new : List Byte) (full seen : Bool) : (homeStore s l new full seen).mem.tags = s.mem.tags := by
  simp only [homeStore, writeBytes, apply_ite State.mem, apply_ite Mem.tags, onCell_mem, clearPairings_mem, wakeWatchers_mem, examineFlag_mem,
    onSites_mem, onT0Tile_mem, queueDram_mem, clearPoison_tags, markUnprot_tags, sendCopy_mem, onMem_mem, ite_self]

/-- Bytes written over a range read back as written. -/
theorem upTo_tget_putBytes {c : Tab Byte} {a : Nat} {bs : List Byte} (h : tok 0 c = true) :
    upTo bs.length (fun i => tget 0 (putBytes c a bs) (a + i)) = bs :=
  List.ext_getElem (by simp [upTo]) fun i _ hi => by
    simp only [upTo, List.getElem_map, List.getElem_range]
    exact tget_putBytes_at h hi

/-- Settles O58: the line's 64 bytes are the only ones that are put, and no tag is. -/
theorem writeChangesOneLine : Obligations.WriteChangesOneLine := by
  unfold Obligations.WriteChangesOneLine
  intro s l new full seen hform hlen
  refine ⟨?line, ?others, homeStore_tags s l new full seen⟩
  case line => rw [readBytes, homeStore_cells, ← hlen, upTo_tget_putBytes hform]
  case others =>
    intro a ha
    rw [homeStore_cells]
    rw [lineOf] at ha
    rcases Nat.lt_or_ge a (l * 64) with hbelow | hin
    · exact tget_putBytes_below hform hbelow
    · exact tget_putBytes_above hform (by omega)

end Sys2Proof.Machine
